-- ==== Sys2Proof/Word.lean ====
section
/-! DEFINITION. The word types of the JX9 model: names for the widths the manual uses. -/

namespace Sys2Proof

/-- One byte of memory. -/
abbrev Byte := BitVec 8

/-- A 64-bit scalar register or system register (R14, R28). -/
abbrev Word := BitVec 64

/-- One lane of a vector register, or one FP32 value as its bits (R14, R41). -/
abbrev Lane := BitVec 32

/-- The 64 lanes of a vector register (R14). -/
abbrev Lanes := Vector Lane 64

/-- One 128-entry row of FP32 bits of a tile (R14). -/
abbrev Row := Vector Lane 128

/-- An accumulator tile, 128 x 128 FP32 (R14). -/
abbrev Tile := Vector Row 128

end Sys2Proof
end

