-- ==== Sys2Proof/Syntax.lean ====
section
/-! DEFINITION. The syntax of the JX9's steps: one constructor per row of the opcode table. A Zamel slot form carries its
guard (R65, R66) and its format's fields (R68 to R75); a Vanik form carries its operands (R225); an event carries what the
event names. -/

namespace Sys2Proof

/-- The unit a step acts on: a tile core by its package number, or an operator sequencer (R3). -/
inductive UnitId where
  | core (c : Fin 320)
  | seq (q : Fin 16)
deriving DecidableEq, Repr

/-- What guards a slot: predicate, its inversion, the qualifier and the bundle's loop level (R64, R65). -/
structure Guard where
  pd  : BitVec 4
  pn  : Bool
  q   : BitVec 2
  lvl : BitVec 3
deriving DecidableEq, Repr

/-- Format SA of R68. -/
structure SA where
  fn : BitVec 8
  c  : BitVec 6
  b  : BitVec 6
  a  : BitVec 6
  d  : BitVec 6
deriving DecidableEq, Repr

/-- Format SI of R68. -/
structure SI where
  imm : BitVec 32
  fn  : BitVec 3
  a   : BitVec 6
  d   : BitVec 6
deriving DecidableEq, Repr

/-- Format SC of R68. -/
structure SC where
  imm : BitVec 32
  fn  : BitVec 3
  b   : BitVec 6
  a   : BitVec 6
deriving DecidableEq, Repr

/-- Format SK of R68 (CINCH), with its qualifier and level; it has no predicate. -/
structure SK where
  q     : BitVec 2
  lvl   : BitVec 3
  count : BitVec 20
  crc   : BitVec 32
deriving DecidableEq, Repr

/-- Format SM of R68. -/
structure SM where
  imm : BitVec 28
  h   : BitVec 4
  sx  : Bool
  sz  : BitVec 2
  a   : BitVec 6
  d   : BitVec 6
deriving DecidableEq, Repr

/-- Format SY of R68. -/
structure SY where
  sys   : BitVec 12
  sz    : BitVec 2
  scope : BitVec 4
  aop   : BitVec 4
  c     : BitVec 6
  b     : BitVec 6
  a     : BitVec 6
  d     : BitVec 6
deriving DecidableEq, Repr

/-- Format VA of R70. -/
structure VA where
  fn   : BitVec 4
  swz  : Bool
  part : BitVec 4
  ty   : BitVec 3
  msk  : BitVec 3
  c    : BitVec 6
  b    : BitVec 6
  a    : BitVec 6
  d    : BitVec 6
deriving DecidableEq, Repr

/-- Format VR of R70, with the ring-slot operand RS of R73. -/
structure VR where
  fn   : BitVec 4
  swz  : Bool
  part : BitVec 4
  ty   : BitVec 3
  msk  : BitVec 3
  rs   : BitVec 12
  d    : BitVec 6
deriving DecidableEq, Repr

/-- Format VS of R70. -/
structure VS where
  imm : BitVec 20
  msk : BitVec 3
  a   : BitVec 6
  d   : BitVec 6
deriving DecidableEq, Repr

/-- The M-slot fields of R74. RS is B and A read as one 12-bit field. -/
structure MF where
  aux : BitVec 7
  row : BitVec 7
  t   : Bool
  b   : BitVec 6
  a   : BitVec 6
deriving DecidableEq, Repr

/-- The X-slot fields of R75. RS is OFS and H together. -/
structure XF where
  imm : BitVec 16
  tag : BitVec 4
  fn  : BitVec 4
  fmt : BitVec 8
  c   : BitVec 6
  b   : BitVec 6
  a   : BitVec 6
  ofs : BitVec 8
  h   : BitVec 4
deriving DecidableEq, Repr

/-- A Vanik shape operand: a shape register or a signed immediate (R225). -/
inductive SOp where
  | reg (n : BitVec 6)
  | imm (v : Word)
deriving DecidableEq, Repr

/-- A request from outside: source device (0xFFF the host, 0xFFE a Rein core), context tag, physical address, length in
bytes within one line, byte mask, data, and for an atomic its operation and size (R424, R439, R461). -/
structure Req where
  src  : BitVec 12
  ctx  : BitVec 16
  addr : BitVec 52
  len  : Nat
  mask : BitVec 64
  data : BitVec 512
  op   : BitVec 4
  wide : Bool
deriving DecidableEq, Repr

/-- Where an uncorrectable error lies: the structure code of R378, the core or sequencer concerned, whether the word lies in
the part that cancels or ends (a dirty line, an update-only line, the control store itself), the address (of an image in the control
store the offset there; of a table entry without an owner the cloak entry's package number below 32,768, else the compressed base of the
surface entry), and the slot of the owning context. -/
structure ErrSite where
  code  : Fin 12
  unit  : UnitId
  hard  : Bool
  addr  : BitVec 52
  owner : Option (BitVec 6)
deriving DecidableEq, Repr

/-- A record of a replay log (R419): sequence number, type, source, tick, payload. -/
structure RepRec where
  seq     : Nat
  typ     : BitVec 8
  src     : BitVec 8
  tick    : Nat
  payload : List Byte
deriving DecidableEq, Repr

/-- What the boot configuration and the fuses select (R418, R445, R456), the boot values of MODE.FLATF and MODE.DARB (R29), the form of the
package and how its x16 port trained, the second tier and the HDM range of the resident kernel (R2, R327, R440); `replay` is the log given as input, none but in replay (R420); `tb` the timebase of a device that is not its pod's first (R460), `bar2` the size of BAR2
(R439), `flash` what boot flash holds, by stage and slot, where it is not as it stood, and `fetched` the resident kernel where the configuration names a fetch (R445). -/
structure BootCfg where
  rec_   : Bool
  lpt    : BitVec 2
  rein   : Bool
  log    : BitVec 52
  dev    : BitVec 12
  pod    : BitVec 8
  dieMhz : BitVec 16
  serial : List Byte
  flatf  : Bool
  darb   : Bool
  isM    : Bool
  cxl    : Bool
  hdm    : Nat × Nat
  tier2  : Nat
  replay : Option (List RepRec)
  tb     : Word
  bar2   : Nat
  flash  : Option (List (Nat × Bool × List Byte))
  fetched : Option (List Byte)
deriving DecidableEq, Repr

/-- What the resident kernel gives a graph context at creation (R11, R237, R291, R388), and whether its process asked for a core dump (R377). -/
structure CtxCfg where
  tag      : BitVec 16
  slot     : BitVec 6
  root     : BitVec 40
  process  : Nat
  entry    : BitVec 48
  sys      : Bool
  debug    : Bool
  dumps    : Bool
  team     : BitVec 40
  quota    : BitVec 8
  heap     : BitVec 48
  heapSize : BitVec 48
  area     : BitVec 52
deriving DecidableEq, Repr

/-- The steps of the part: one constructor per row of the opcode table. -/
inductive Instr where
  /-- ADD (R88) -/
  | add (g : Guard) (f : SA)
  /-- SUB (R88) -/
  | sub (g : Guard) (f : SA)
  /-- MUL (R88) -/
  | mul (g : Guard) (f : SA)
  /-- MULH (R88) -/
  | mulh (g : Guard) (f : SA)
  /-- MULHU (R88) -/
  | mulhu (g : Guard) (f : SA)
  /-- DIV (R90) -/
  | div (g : Guard) (f : SA)
  /-- DIVU (R90) -/
  | divu (g : Guard) (f : SA)
  /-- REM (R90) -/
  | rem (g : Guard) (f : SA)
  /-- REMU (R90) -/
  | remu (g : Guard) (f : SA)
  /-- AND (R88) -/
  | andR (g : Guard) (f : SA)
  /-- OR (R88) -/
  | orR (g : Guard) (f : SA)
  /-- XOR (R88) -/
  | xorR (g : Guard) (f : SA)
  /-- ANDN (R88) -/
  | andn (g : Guard) (f : SA)
  /-- SHL (R88) -/
  | shl (g : Guard) (f : SA)
  /-- SHR (R88) -/
  | shr (g : Guard) (f : SA)
  /-- SRA (R88) -/
  | sra (g : Guard) (f : SA)
  /-- MIN (R88) -/
  | minR (g : Guard) (f : SA)
  /-- MAX (R88) -/
  | maxR (g : Guard) (f : SA)
  /-- MINU (R88) -/
  | minu (g : Guard) (f : SA)
  /-- MAXU (R88) -/
  | maxu (g : Guard) (f : SA)
  /-- CLZ (R88) -/
  | clz (g : Guard) (f : SA)
  /-- CTZ (R88) -/
  | ctz (g : Guard) (f : SA)
  /-- POPC (R88) -/
  | popc (g : Guard) (f : SA)
  /-- EXT (R89) -/
  | ext (g : Guard) (f : SA)
  /-- SEL (R94) -/
  | sel (g : Guard) (f : SA)
  /-- CMP (R92) -/
  | cmp (g : Guard) (f : SA)
  /-- PLOG (R93) -/
  | plog (g : Guard) (f : SA)
  /-- MADDR (R88) -/
  | maddr (g : Guard) (f : SA)
  /-- ADDI (R91) -/
  | addi (g : Guard) (f : SI)
  /-- ANDI (R91) -/
  | andi (g : Guard) (f : SI)
  /-- ORI (R91) -/
  | ori (g : Guard) (f : SI)
  /-- XORI (R91) -/
  | xori (g : Guard) (f : SI)
  /-- SHLI (R91) -/
  | shli (g : Guard) (f : SI)
  /-- SHRI (R91) -/
  | shri (g : Guard) (f : SI)
  /-- SRAI (R91) -/
  | srai (g : Guard) (f : SI)
  /-- CMPI (R92) -/
  | cmpi (g : Guard) (f : SI)
  /-- LI (R91) -/
  | li (g : Guard) (f : SI)
  /-- LIH (R91) -/
  | lih (g : Guard) (f : SI)
  /-- MOVK (R91) -/
  | movk (g : Guard) (f : SI)
  /-- BR (R95) -/
  | br (g : Guard) (f : SC)
  /-- JMP (R96) -/
  | jmp (g : Guard) (f : SC)
  /-- CALL (R97) -/
  | call (g : Guard) (f : SC)
  /-- RET (R97) -/
  | ret (g : Guard) (f : SC)
  /-- MARK (R103) -/
  | mark (g : Guard) (f : SC)
  /-- LSET (R100) -/
  | lset (g : Guard) (f : SC)
  /-- LSTR (R101) -/
  | lstr (g : Guard) (f : SC)
  /-- EXIT_E (R106) -/
  | exitE (g : Guard) (f : SC)
  /-- EXIT_S (R106) -/
  | exitS (g : Guard) (f : SC)
  /-- EXIT_N (R106) -/
  | exitN (g : Guard) (f : SC)
  /-- TRAP (R98) -/
  | trap (g : Guard) (f : SC)
  /-- BRK (R98) -/
  | brk (g : Guard) (f : SC)
  /-- HRET (R99) -/
  | hret (g : Guard) (f : SC)
  /-- HRET_SKIP (R99) -/
  | hretSkip (g : Guard) (f : SC)
  /-- PHASE (R107) -/
  | phase (g : Guard) (f : SC)
  /-- PREEMPT (R108) -/
  | preempt (g : Guard) (f : SC)
  /-- GAIT (R410) -/
  | gait (g : Guard) (f : SC)
  /-- CHK (R112) -/
  | chk (g : Guard) (f : SC)
  /-- CINCH (R110) -/
  | cinch (f : SK)
  /-- CINCH_Z (R110) -/
  | cinchZ (g : Guard) (f : SC)
  /-- LD (R114) -/
  | ld (g : Guard) (f : SM)
  /-- LD_S (R115) -/
  | ldS (g : Guard) (f : SM)
  /-- ST (R117) -/
  | st (g : Guard) (f : SM)
  /-- LDSP (R119) -/
  | ldsp (g : Guard) (f : SM)
  /-- STSP (R119) -/
  | stsp (g : Guard) (f : SM)
  /-- ADVC (R122) -/
  | advc (g : Guard) (f : SM)
  /-- ADVP (R122) -/
  | advp (g : Guard) (f : SM)
  /-- WAITC (R123) -/
  | waitc (g : Guard) (f : SM)
  /-- WAITP (R123) -/
  | waitp (g : Guard) (f : SM)
  /-- HSET (R121) -/
  | hset (g : Guard) (f : SM)
  /-- HGET (R121) -/
  | hget (g : Guard) (f : SM)
  /-- AMO_SWAP (R125) -/
  | amoSwap (g : Guard) (f : SY)
  /-- AMO_ADD (R125) -/
  | amoAdd (g : Guard) (f : SY)
  /-- AMO_AND (R125) -/
  | amoAnd (g : Guard) (f : SY)
  /-- AMO_OR (R125) -/
  | amoOr (g : Guard) (f : SY)
  /-- AMO_XOR (R125) -/
  | amoXor (g : Guard) (f : SY)
  /-- AMO_MIN (R125) -/
  | amoMin (g : Guard) (f : SY)
  /-- AMO_MAX (R125) -/
  | amoMax (g : Guard) (f : SY)
  /-- AMO_MINU (R125) -/
  | amoMinu (g : Guard) (f : SY)
  /-- AMO_MAXU (R125) -/
  | amoMaxu (g : Guard) (f : SY)
  /-- AMO_FADD (R125) -/
  | amoFadd (g : Guard) (f : SY)
  /-- CAS (R126) -/
  | cas (g : Guard) (f : SY)
  /-- CUPD_ADD (R130) -/
  | cupdAdd (g : Guard) (f : SY)
  /-- CUPD_FADD (R130) -/
  | cupdFadd (g : Guard) (f : SY)
  /-- CUPD_MIN (R130) -/
  | cupdMin (g : Guard) (f : SY)
  /-- CUPD_MAX (R130) -/
  | cupdMax (g : Guard) (f : SY)
  /-- CUPD_OR (R130) -/
  | cupdOr (g : Guard) (f : SY)
  /-- FENCE (R133) -/
  | fence (g : Guard) (f : SY)
  /-- BARCFG (R134) -/
  | barcfg (g : Guard) (f : SY)
  /-- BARARR (R135) -/
  | bararr (g : Guard) (f : SY)
  /-- BARWAIT (R135) -/
  | barwait (g : Guard) (f : SY)
  /-- SSTEP (R137) -/
  | sstep (g : Guard) (f : SY)
  /-- SRD (R138) -/
  | srd (g : Guard) (f : SY)
  /-- SWR (R138) -/
  | swr (g : Guard) (f : SY)
  /-- WLNR (R218) -/
  | wlnr (g : Guard) (f : SA)
  /-- RGALLOC (R219) -/
  | rgalloc (g : Guard) (f : SA)
  /-- RGFREE (R220) -/
  | rgfree (g : Guard) (f : SA)
  /-- SBWAIT (R221) -/
  | sbwait (g : Guard) (f : SA)
  /-- SBPUB (R221) -/
  | sbpub (g : Guard) (f : SA)
  /-- TREC (R222) -/
  | trec (g : Guard) (f : SA)
  /-- HLAT_ARM (R223) -/
  | hlatArm (g : Guard) (f : SA)
  /-- HLAT_CNT (R223) -/
  | hlatCnt (g : Guard) (f : SA)
  /-- HLAT_PRE (R223) -/
  | hlatPre (g : Guard) (f : SA)
  /-- HLAT_OUT (R223) -/
  | hlatOut (g : Guard) (f : SA)
  /-- HLAT_TOT (R223) -/
  | hlatTot (g : Guard) (f : SA)
  /-- OPEND_DONE (R224) -/
  | opendDone (g : Guard) (f : SA)
  /-- OPEND_CANCEL (R224) -/
  | opendCancel (g : Guard) (f : SA)
  /-- OPEND_REPEAT (R224) -/
  | opendRepeat (g : Guard) (f : SA)
  /-- VADD (R145) -/
  | vadd (g : Guard) (f : VA)
  /-- VSUB (R145) -/
  | vsub (g : Guard) (f : VA)
  /-- VMUL (R145) -/
  | vmul (g : Guard) (f : VA)
  /-- VFMA (R145) -/
  | vfma (g : Guard) (f : VA)
  /-- VFMS (R145) -/
  | vfms (g : Guard) (f : VA)
  /-- VFNMA (R145) -/
  | vfnma (g : Guard) (f : VA)
  /-- VMIN (R146) -/
  | vmin (g : Guard) (f : VA)
  /-- VMAX (R146) -/
  | vmax (g : Guard) (f : VA)
  /-- VABS (R146) -/
  | vabs (g : Guard) (f : VA)
  /-- VNEG (R146) -/
  | vneg (g : Guard) (f : VA)
  /-- VDIV (R145) -/
  | vdiv (g : Guard) (f : VA)
  /-- VSQRT (R147) -/
  | vsqrt (g : Guard) (f : VA)
  /-- VRSQ (R147) -/
  | vrsq (g : Guard) (f : VA)
  /-- VEXP2 (R147) -/
  | vexp2 (g : Guard) (f : VA)
  /-- VLOG2 (R147) -/
  | vlog2 (g : Guard) (f : VA)
  /-- VCVT (R149) -/
  | vcvt (g : Guard) (f : VA)
  /-- VPACK (R150) -/
  | vpack (g : Guard) (f : VA)
  /-- VUNPK (R150) -/
  | vunpk (g : Guard) (f : VA)
  /-- VAND (R148) -/
  | vand (g : Guard) (f : VA)
  /-- VOR (R148) -/
  | vor (g : Guard) (f : VA)
  /-- VXOR (R148) -/
  | vxor (g : Guard) (f : VA)
  /-- VSHL (R148) -/
  | vshl (g : Guard) (f : VA)
  /-- VSHR (R148) -/
  | vshr (g : Guard) (f : VA)
  /-- VSRA (R148) -/
  | vsra (g : Guard) (f : VA)
  /-- VCMP (R151) -/
  | vcmp (g : Guard) (f : VA)
  /-- VSEL (R152) -/
  | vsel (g : Guard) (f : VA)
  /-- VRED (R154) -/
  | vred (g : Guard) (f : VA)
  /-- VSCAN (R154) -/
  | vscan (g : Guard) (f : VA)
  /-- VCLASS (R158) -/
  | vclass (g : Guard) (f : VA)
  /-- VTERM (R159) -/
  | vterm (g : Guard) (f : VA)
  /-- VQSC (R160) -/
  | vqsc (g : Guard) (f : VA)
  /-- VQSC_ENC (R160) -/
  | vqscEnc (g : Guard) (f : VA)
  /-- VBCST (R155) -/
  | vbcst (g : Guard) (f : VA)
  /-- VBCST_LANE (R155) -/
  | vbcstLane (g : Guard) (f : VA)
  /-- VMOVS (R155) -/
  | vmovs (g : Guard) (f : VA)
  /-- VINS (R155) -/
  | vins (g : Guard) (f : VA)
  /-- VIOTA (R156) -/
  | viota (g : Guard) (f : VA)
  /-- VSHUF (R157) -/
  | vshuf (g : Guard) (f : VA)
  /-- VROT (R157) -/
  | vrot (g : Guard) (f : VA)
  /-- VMSK_LOG (R153) -/
  | vmskLog (g : Guard) (f : VA)
  /-- VMSK_SET (R153) -/
  | vmskSet (g : Guard) (f : VA)
  /-- VMSK_FIRST (R153) -/
  | vmskFirst (g : Guard) (f : VA)
  /-- VMSK_GET (R153) -/
  | vmskGet (g : Guard) (f : VA)
  /-- VCHK (R163) -/
  | vchk (g : Guard) (f : VA)
  /-- VLDH (R161) -/
  | vldh (g : Guard) (f : VR)
  /-- VSTH (R161) -/
  | vsth (g : Guard) (f : VR)
  /-- VLDS (R162) -/
  | vlds (g : Guard) (f : VS)
  /-- VSTS (R162) -/
  | vsts (g : Guard) (f : VS)
  /-- MLDW (R170) -/
  | mldw (g : Guard) (f : MF)
  /-- MSWAP (R171) -/
  | mswap (g : Guard) (f : MF)
  /-- MPUSH (R172) -/
  | mpush (g : Guard) (f : MF)
  /-- MDRAIN (R173) -/
  | mdrain (g : Guard) (f : MF)
  /-- MZERO (R174) -/
  | mzero (g : Guard) (f : MF)
  /-- MHEM (R175) -/
  | mhem (g : Guard) (f : MF)
  /-- MTCLR (R174) -/
  | mtclr (g : Guard) (f : MF)
  /-- MLU (R179) -/
  | mlu (g : Guard) (f : MF)
  /-- MCHOL (R180) -/
  | mchol (g : Guard) (f : MF)
  /-- MQR (R181) -/
  | mqr (g : Guard) (f : MF)
  /-- MTRSM (R182) -/
  | mtrsm (g : Guard) (f : MF)
  /-- MPERM (R188) -/
  | mperm (g : Guard) (f : MF)
  /-- MRES (R186) -/
  | mres (g : Guard) (f : MF)
  /-- MFWAIT (R187) -/
  | mfwait (g : Guard) (f : MF)
  /-- XCOPY (R199) -/
  | xcopy (g : Guard) (f : XF)
  /-- XCOPYS (R200) -/
  | xcopys (g : Guard) (f : XF)
  /-- XSTORE (R202) -/
  | xstore (g : Guard) (f : XF)
  /-- XPUB (R203) -/
  | xpub (g : Guard) (f : XF)
  /-- XPUB_NOW (R203) -/
  | xpubNow (g : Guard) (f : XF)
  /-- XDROP (R204) -/
  | xdrop (g : Guard) (f : XF)
  /-- XWLD (R207) -/
  | xwld (g : Guard) (f : XF)
  /-- XGATH (R208) -/
  | xgath (g : Guard) (f : XF)
  /-- XPERM_TR (R209) -/
  | xpermTr (g : Guard) (f : XF)
  /-- XPERM_IDX (R209) -/
  | xpermIdx (g : Guard) (f : XF)
  /-- XFTL (R210) -/
  | xftl (g : Guard) (f : XF)
  /-- XFTE (R211) -/
  | xfte (g : Guard) (f : XF)
  /-- XQNT (R212) -/
  | xqnt (g : Guard) (f : XF)
  /-- XQNT_FIX (R212) -/
  | xqntFix (g : Guard) (f : XF)
  /-- XHIST (R213) -/
  | xhist (g : Guard) (f : XF)
  /-- XHLAT (R214) -/
  | xhlat (g : Guard) (f : XF)
  /-- XDFNC (R215) -/
  | xdfnc (g : Guard) (f : XF)
  /-- XWAIT (R196) -/
  | xwait (g : Guard) (f : XF)
  /-- XFILL (R201) -/
  | xfill (g : Guard) (f : XF)
  /-- WSLOAD (R240) -/
  | wsload (d s : BitVec 8)
  /-- MATMUL (R262) -/
  | matmul (y x w : BitVec 8) (acc : Bool) (e : BitVec 4)
  /-- MATMUL_GRP (R276) -/
  | matmulGrp (y x w : BitVec 8) (acc : Bool) (e : BitVec 4)
  /-- EWISE (R264) -/
  | ewise (y a c : BitVec 8) (op : BitVec 4)
  /-- UNARY (R265) -/
  | unary (y x : BitVec 8) (fn : BitVec 4) (table : SOp)
  /-- NORM (R268) -/
  | norm (y x g : BitVec 8) (rms : Bool) (bt : Option (BitVec 8)) (eps : SOp)
  /-- SOFTMAX (R269) -/
  | softmax (y x : BitVec 8) (log : Bool)
  /-- REDUCE (R270) -/
  | reduce (y x : BitVec 8) (op axis : BitVec 3)
  /-- ATTN (R272) -/
  | attn (o q k v : BitVec 8) (causal : Bool) (scale : SOp)
  /-- GATHER (R273) -/
  | gather (y x i : BitVec 8) (axis : BitVec 3) (zfill : Bool)
  /-- SCATTER (R273) -/
  | scatter (y x i : BitVec 8) (axis : BitVec 3) (mode : BitVec 2) (skip : Bool)
  /-- TOPK (R271) -/
  | topk (v i x : BitVec 8) (k : SOp)
  /-- ROUTE (R275) -/
  | route (p x : BitVec 8) (e : BitVec 4)
  /-- CAST (R266) -/
  | castT (y x : BitVec 8)
  /-- QUANT (R267) -/
  | quant (y x : BitVec 8)
  /-- QUANT_FIX (R267) -/
  | quantFix (y x : BitVec 8) (scale : SOp)
  /-- DEQUANT (R266) -/
  | dequant (y x : BitVec 8)
  /-- TRANSP (R274) -/
  | transp (y x : BitVec 8) (perm : BitVec 18)
  /-- CONCAT (R274) -/
  | concat (y a c : BitVec 8) (axis : BitVec 3)
  /-- COPY (R266) -/
  | copyT (y x : BitVec 8)
  /-- FILL (R266) -/
  | fillT (y : BitVec 8) (v : SOp)
  /-- LUF (R278) -/
  | luf (a p g : BitVec 8) (rep : Option SOp)
  /-- CHOLF (R278) -/
  | cholf (a g : BitVec 8) (rep : Option SOp)
  /-- QRF (R278) -/
  | qrf (a tau g : BitVec 8)
  /-- TRSM (R278) -/
  | trsm (x l : BitVec 8) (low unit trn : Bool)
  /-- ALLRED (R284) -/
  | allred (y x : BitVec 8) (op : BitVec 2)
  /-- ALLGATH (R284) -/
  | allgath (y x : BitVec 8)
  /-- REDSCAT (R284) -/
  | redscat (y x : BitVec 8) (op : BitVec 2)
  /-- ALLTOALL (R284) -/
  | alltoall (y x : BitVec 8)
  /-- SEND (R285) -/
  | sendT (x : BitVec 8) (peer : SOp) (tag : BitVec 16)
  /-- RECV (R285) -/
  | recv (y : BitVec 8) (peer : SOp) (tag : BitVec 16)
  /-- SIGNAL_SET (R287) -/
  | signalSet (addr v : SOp)
  /-- SIGNAL_ADD (R287) -/
  | signalAdd (addr v : SOp)
  /-- WAITSIG (R288) -/
  | waitsig (cc : BitVec 3) (d : BitVec 6) (addr v : SOp)
  /-- OPFENCE (R289) -/
  | opfence (scope : BitVec 4)
  /-- OPX (R279) -/
  | opx (x : BitVec 8) (no : BitVec 4) (ts : List (BitVec 8)) (ns : List SOp)
  /-- BUNDLE (R67) -/
  | bundle (w : BitVec 256)
  /-- NOP (R65) -/
  | nop (slot : BitVec 2)
  /-- LOAD_RETURN (R83) -/
  | loadReturn (u : UnitId) (k : Nat)
  /-- MLDW_EXECUTE (R170) -/
  | mldwExecute (c : Fin 320)
  /-- BEAT (R462) -/
  | beat (c : Fin 320)
  /-- MDRAIN_EXECUTE (R176) -/
  | mdrainExecute (c : Fin 320)
  /-- FACTORISATION_STEP (R393) -/
  | factorisationStep (c : Fin 320)
  /-- ASYNC_TRAP_DELIVERY (R165) -/
  | asyncTrapDelivery (c : Fin 320)
  /-- LATCH_CONTRIBUTION (R214) -/
  | latchContribution (q : Fin 16) (k : Nat)
  /-- ENGINE_DISPATCH (R192) -/
  | engineDispatch (c : Fin 320)
  /-- ENGINE_UNIT (R194) -/
  | engineUnit (c : Fin 320) (cls : Fin 9) (second : Bool)
  /-- ENGINE_WATCH_REPORT (R441) -/
  | engineWatchReport (c : Fin 320)
  /-- ENGINE_COMMAND_COMPLETE (R196) -/
  | engineCommandComplete (c : Fin 320) (cls : Fin 9)
  /-- GEND (R245) -/
  | gend
  /-- GJMP (R245) -/
  | gjmp (off : Word)
  /-- GBR (R245) -/
  | gbr (g : BitVec 3) (inv : Bool) (off : Word)
  /-- GCALL (R245) -/
  | gcall (off : Word)
  /-- GRET (R245) -/
  | gret
  /-- GLOOP (R246) -/
  | gloop (c : BitVec 6) (count : SOp) (exit : Word)
  /-- GENDL (R246) -/
  | gendl
  /-- TRAPH (R252) -/
  | traph (off : Word)
  /-- TRAPRET_RVPC (R253) -/
  | trapretRvpc
  /-- TRAPRET_REEXEC (R253) -/
  | trapretReexec
  /-- TRAPRET_TARGET (R253) -/
  | trapretTarget (target : SOp)
  /-- FMTSET (R250) -/
  | fmtset (i : BitVec 4) (v : Word)
  /-- FMTLOOP (R251) -/
  | fmtloop (lvl : BitVec 3) (en : Bool) (base : BitVec 4)
  /-- NLI (R247) -/
  | nli (d : BitVec 6) (imm : Word)
  /-- NALU_ADD (R247) -/
  | naluAdd (d : BitVec 6) (a b : SOp)
  /-- NALU_SUB (R247) -/
  | naluSub (d : BitVec 6) (a b : SOp)
  /-- NALU_MUL (R247) -/
  | naluMul (d : BitVec 6) (a b : SOp)
  /-- NALU_FLOORDIV (R247) -/
  | naluFloordiv (d : BitVec 6) (a b : SOp)
  /-- NALU_CEILDIV (R247) -/
  | naluCeildiv (d : BitVec 6) (a b : SOp)
  /-- NALU_MIN (R247) -/
  | naluMin (d : BitVec 6) (a b : SOp)
  /-- NALU_MAX (R247) -/
  | naluMax (d : BitVec 6) (a b : SOp)
  /-- NALU_AND (R247) -/
  | naluAnd (d : BitVec 6) (a b : SOp)
  /-- NALU_OR (R247) -/
  | naluOr (d : BitVec 6) (a b : SOp)
  /-- NALU_SHL (R247) -/
  | naluShl (d : BitVec 6) (a b : SOp)
  /-- NALU_SHR (R247) -/
  | naluShr (d : BitVec 6) (a b : SOp)
  /-- NCMP (R247) -/
  | ncmp (cc : BitVec 3) (g : BitVec 3) (a b : SOp)
  /-- NLD (R248) -/
  | nld (d : BitVec 6) (sx : Bool) (sz : BitVec 2) (hw : Option (BitVec 8)) (addr : SOp)
  /-- NST (R248) -/
  | nst (sz : BitVec 2) (addr v : SOp)
  /-- NDIM (R249) -/
  | ndim (d : BitVec 6) (dim : BitVec 3) (sel : BitVec 2) (t : BitVec 8)
  /-- NDIM_CSW (R249) -/
  | ndimCsw (d : BitVec 6)
  /-- NMB (R249) -/
  | nmb (i : BitVec 3) (v : SOp)
  /-- TDECL (R235) -/
  | tdecl (t : BitVec 8) (rel : Bool) (addr : SOp)
  /-- TVIEW (R236) -/
  | tview (v s : BitVec 8) (d : BitVec 3) (start len : SOp)
  /-- TALLOC (R237) -/
  | talloc (t : BitVec 8)
  /-- TFREE (R238) -/
  | tfree (t : BitVec 8)
  /-- RFENCE (R239) -/
  | rfence (t : BitVec 8)
  /-- RFENCE_ALL (R239) -/
  | rfenceAll
  /-- KLOAD (R242) -/
  | kload (d : BitVec 6) (addr : SOp)
  /-- KBIND (R243) -/
  | kbind (key : BitVec 9) (sig : BitVec 32) (img : SOp)
  /-- FUSE (R280) -/
  | fuse (keep : Bool)
  /-- FUSEND (R281) -/
  | fusend
  /-- WAITSIG_WAKE (R288) -/
  | waitsigWake (q : Fin 16)
  /-- CHUNK_DISPATCH (R309) -/
  | chunkDispatch (q : Fin 16)
  /-- ENERGY_WINDOW (R311) -/
  | energyWindow
  /-- INVOCATION_COMPLETE (R300) -/
  | invocationComplete (q : Fin 16) (k : Nat)
  /-- KERNEL_FAULT_DELIVERY (R252) -/
  | kernelFaultDelivery (q : Fin 16)
  /-- WATCHDOG (R317) -/
  | watchdog (c : Fin 320)
  /-- WS_REFRESH (R325) -/
  | wsRefresh
  /-- SHOOTDOWN (R340) -/
  | shootdown (slot : BitVec 6) (va len : BitVec 48)
  /-- UNCORRECTABLE_ERROR (R378) -/
  | uncorrectableError (e : ErrSite)
  /-- CORRECTABLE_ERROR (R378) -/
  | correctableError (code : Fin 12)
  /-- PREEMPTION_REQUEST (R384) -/
  | preemptionRequest (q : Fin 16)
  /-- HARD_PREEMPTION (R385) -/
  | hardPreemption (c : Fin 320)
  /-- TASK_RESUME (R386) -/
  | taskResume (q : Fin 16) (area : BitVec 52)
  /-- SERVING_CONTEXT_WAKE (R435) -/
  | servingContextWake (q : Fin 16)
  /-- FLIT_RECEIVE (R425) -/
  | flitReceive (p : Fin 16) (flit : BitVec 576)
  /-- LINK_REPLAY (R425) -/
  | linkReplay (p : Fin 16) (seq : BitVec 12)
  /-- LINK_RETRAIN (R425) -/
  | linkRetrain (p : Fin 16)
  /-- FABRIC_TIMEOUT (R426) -/
  | fabricTimeout (k : Nat)
  /-- PEER_READ (R430) -/
  | peerRead (r : Req)
  /-- PEER_WRITE (R430) -/
  | peerWrite (r : Req)
  /-- REMOTE_ATOMIC (R436) -/
  | remoteAtomic (r : Req)
  /-- ENQUEUE (R433) -/
  | enqueue (r : Req)
  /-- RESPONSE (R461) -/
  | response (k : Nat) (data : BitVec 512)
  /-- REFUSAL (R431) -/
  | refusal (k : Nat) (reason : BitVec 2)
  /-- HOST_READ (R439) -/
  | hostRead (r : Req)
  /-- HOST_WRITE (R439) -/
  | hostWrite (r : Req)
  /-- ETHERNET_FRAME (R438) -/
  | ethernetFrame (port : Fin 8) (frame : List Byte) (enq : Option Req)
  /-- GET_VERSION (R447) -/
  | getVersion (req : List Byte)
  /-- GET_CAPABILITIES (R447) -/
  | getCapabilities (req : List Byte)
  /-- NEGOTIATE_ALGORITHMS (R447) -/
  | negotiateAlgorithms (req : List Byte)
  /-- GET_DIGESTS (R447) -/
  | getDigests (req : List Byte)
  /-- GET_CERTIFICATE (R447) -/
  | getCertificate (req : List Byte)
  /-- CHALLENGE (R447) -/
  | challenge (req : List Byte)
  /-- GET_MEASUREMENTS (R447) -/
  | getMeasurements (req : List Byte)
  /-- DBG_STOP (R403) -/
  | dbgStop (c : Fin 320)
  /-- DBG_RESUME (R406) -/
  | dbgResume (c : Fin 320)
  /-- DBG_STEP (R406) -/
  | dbgStep (c : Fin 320)
  /-- STOP_WINDOW_WRITE (R401) -/
  | stopWindowWrite (c : Fin 320) (off : BitVec 20) (v : Word)
  /-- SAMPLE (R409) -/
  | sample (c : Fin 320)
  /-- FIRE (R415) -/
  | fire
  /-- HALT_N_EDGE (R415) -/
  | haltNEdge
  /-- HALTER_REARM (R415) -/
  | halterRearm
  /-- HALTER_LATCH (R416) -/
  | halterLatch
  /-- REPLAY_ARRIVAL (R420) -/
  | replayArrival (source : BitVec 8) (payload : List Byte)
  /-- POWER_ON_RESET (R445) -/
  | powerOnReset (cfg : BootCfg)
  /-- UPD (R449) -/
  | upd (image : List Byte)
  /-- REIN_HB (R450) -/
  | reinHb (k : Fin 6)
  /-- UPDATE_ROLLBACK (R450) -/
  | updateRollback
  /-- REIN_RESTART (R450) -/
  | reinRestart (k : Fin 6)
  /-- QUEUE_BLOCK_APPLY (R452) -/
  | queueBlockApply (q : Fin 64) (block : BitVec 52)
  /-- PLAT_CLK_WRITE (R456) -/
  | platClkWrite (v : Word)
  /-- THERMAL_TRIP (R457) -/
  | thermalTrip (d : Fin 5)
  /-- RAS_CLEAR (R458) -/
  | rasClear (ue : Bool) (code : Fin 12) (v : Word)
  /-- SPILL_WRITE (R336) -/
  | spillWrite (d : Fin 4) (size : Bool) (v : Word)
  /-- CLOAK_ENTRY_WRITE (R341) -/
  | cloakEntryWrite (d : Fin 4) (i : Fin 8192) (high : Bool) (v : Word)
  /-- EXPOSURE_WRITE (R428) -/
  | exposureWrite (e : Fin 256) (high : Bool) (v : Word)
  /-- PEER_SLOT_WRITE (R422) -/
  | peerSlotWrite (slot : Fin 256) (v : Word)
  /-- FAB_ID_WRITE (R421) -/
  | fabIdWrite (v : Word)
  /-- FAB_PORTEN_WRITE (R427) -/
  | fabPortenWrite (v : Word)
  /-- ROUTE_WRITE (R427) -/
  | routeWrite (dev : Fin 4094) (v : Word)
  /-- QUEUE_W0_WRITE (R432) -/
  | queueW0Write (q : Fin 64) (v : Word)
  /-- REGISTER_WRITE (R10) -/
  | registerWrite (addr : BitVec 52) (v : Word)
  /-- M_SLOT_ENTRY_EXECUTE (R462) -/
  | mSlotEntryExecute (c : Fin 320)
  /-- PAGE_RESOLVED (R228) -/
  | pageResolved (u : UnitId)
  /-- CONTEXT_CREATE (R11) -/
  | contextCreate (cfg : CtxCfg)
  /-- CONTEXT_ACTIVATE (R292) -/
  | contextActivate (q : Fin 16) (tag : BitVec 16)
  /-- TEAM_CHANGE (R291) -/
  | teamChange (q : Fin 16) (map : BitVec 40)
  /-- PREEMPTION_WITHDRAW (R384) -/
  | preemptionWithdraw (q : Fin 16)
  /-- HALT_N_RELEASE (R415) -/
  | haltNRelease
  /-- LINK_TRAINING_DONE (R427) -/
  | linkTrainingDone (p : Fin 16) (up : Bool)
  /-- UNASSIGNED_OPCODE (R229) -/
  | unassignedOpcode (b : BitVec 8)
  /-- VBC_FETCH (R228) -/
  | vbcFetch (info : Word)
deriving DecidableEq, Repr

end Sys2Proof
end

