-- ==== Sys2Proof/WellFormed.lean ====
section
/-! DEFINITION. Which instructions are well formed: the field values that R67 to R75 and each form's entry allow, for the slot forms;
the limits of R226, R230, R247 to R256 for the Vanik forms. An event is always well formed. -/

namespace Sys2Proof

/-- Sub-elements per lane of an element type (R71). -/
def subs (ty : BitVec 3) : Nat := match ty.toNat with
  | 0 => 1 | 1 => 2 | 2 => 2 | 3 => 1 | 4 => 2 | 5 => 4 | 6 => 8 | _ => 4

/-- A floating element type: `.f32`, `.f16`, `.bf16`. -/
def tyF (ty : BitVec 3) : Bool := ty.toNat < 3

/-- An integer element type: `.i32`, `.i16`, `.i8`, `.i4`. -/
def tyI (ty : BitVec 3) : Bool := 3 ≤ ty.toNat && ty.toNat < 7

/-- A floating or integer element type. -/
def tyFI (ty : BitVec 3) : Bool := ty.toNat < 7

/-- PART at most E; PART and SWZ zero for 32-bit types (R72). -/
def partOk (f : VA) : Bool := f.part.toNat ≤ subs f.ty && (subs f.ty != 1 || (f.part == 0 && !f.swz))

/-- A one-source form. -/
def oneSrc (f : VA) : Bool := partOk f && !f.swz && f.b == 0 && f.c == 0

/-- A whole-vector form: PART and SWZ zero. -/
def whole (f : VA) : Bool := f.part == 0 && !f.swz

/-- VCVT's PART (R149). -/
def cvtOk (f : VA) : Bool :=
  let es := subs (f.fn.truncate 3)
  let ed := subs f.ty
  if es = ed then partOk f
  else
    let ew := min es ed
    let en := max es ed
    1 ≤ f.part.toNat && (f.part.toNat - 1) % ew == 0 && f.part.toNat ≤ en

/-- A wide and a narrow type that VPACK and VUNPK pair (R150). -/
def pairOk (wide narrow : BitVec 3) : Bool := match wide.toNat with
  | 0 => narrow == 1 || narrow == 2 || narrow == 4
  | 1 | 2 | 4 => narrow == 5 || narrow == 7
  | 5 | 7 => narrow == 6
  | _ => false

/-- The folds of VRED and VSCAN and their types (R154). -/
def foldOk (f : VA) : Bool := match f.fn.toNat % 8 with
  | 0 | 1 | 2 => tyFI f.ty
  | 3 => tyF f.ty
  | 4 | 5 | 6 => tyI f.ty
  | _ => false

/-- VQSC.enc's PART (R160). -/
def encPart (f : VA) : Bool :=
  1 ≤ f.part.toNat && f.part.toNat ≤ 4 && (f.part.toNat - 1) % subs (f.fn.truncate 3) == 0

/-- VMSK uses no MK, TY, PART or SWZ (R153). -/
def mskZero (f : VA) : Bool := f.msk == 0 && f.ty == 0 && f.part == 0 && !f.swz

/-- AMO with operation k (R125). -/
def amoOk (f : SY) (k : Nat) : Bool :=
  f.c == 0 && f.sys == 0 && 2 ≤ f.sz.toNat && 1 ≤ f.scope.toNat && f.scope.toNat ≤ 8 && f.aop.toNat == k

/-- CUPD with operation k (R130). -/
def cupdOk (f : SY) (k : Nat) : Bool :=
  f.d == 0 && f.c == 0 && f.scope == 0 && f.sys == 0 && 2 ≤ f.sz.toNat && f.aop.toNat == k

/-- The fields that FENCE and the barrier forms leave zero. -/
def syZero (f : SY) : Bool := f.d == 0 && f.a == 0 && f.b == 0 && f.sz == 0 && f.aop == 0

/-- A list operand of OPX: at most 8 handles, 4 shape operands. -/
def opxOk (no : BitVec 4) (ts : List (BitVec 8)) (ns : List SOp) : Bool :=
  ts.length ≤ 8 && ns.length ≤ 4 && no.toNat ≤ ts.length

/-- The field values of an instruction are those its form allows. An integer VCMP of FN 8 or 9, .eq or .ne with the bit that elsewhere means unsigned, is
accepted as .eq or .ne, since R151 reserves the bit on floating types alone (DESIGN CHOICE, log 146). -/
def Instr.fieldsOk : Instr → Bool
  | .bundle _ => true
  | .nop _ => true
  | .add _ f => f.fn == 0 && f.c == 0
  | .sub _ f => f.fn == 0 && f.c == 0
  | .mul _ f => f.fn == 0 && f.c == 0
  | .mulh _ f => f.fn == 0 && f.c == 0
  | .mulhu _ f => f.fn == 0 && f.c == 0
  | .div _ f => f.fn == 0 && f.c == 0
  | .divu _ f => f.fn == 0 && f.c == 0
  | .rem _ f => f.fn == 0 && f.c == 0
  | .remu _ f => f.fn == 0 && f.c == 0
  | .andR _ f => f.fn == 0 && f.c == 0
  | .orR _ f => f.fn == 0 && f.c == 0
  | .xorR _ f => f.fn == 0 && f.c == 0
  | .andn _ f => f.fn == 0 && f.c == 0
  | .shl _ f => f.fn == 0 && f.c == 0
  | .shr _ f => f.fn == 0 && f.c == 0
  | .sra _ f => f.fn == 0 && f.c == 0
  | .minR _ f => f.fn == 0 && f.c == 0
  | .maxR _ f => f.fn == 0 && f.c == 0
  | .minu _ f => f.fn == 0 && f.c == 0
  | .maxu _ f => f.fn == 0 && f.c == 0
  | .clz _ f => f.fn == 0 && f.c == 0 && f.b == 0
  | .ctz _ f => f.fn == 0 && f.c == 0 && f.b == 0
  | .popc _ f => f.fn == 0 && f.c == 0 && f.b == 0
  | .ext _ f => f.fn.toNat < 128 && f.c == 0
  | .sel _ f => f.fn == 0 && f.c.toNat < 16
  | .cmp _ f => f.fn.toNat < 6 && f.c == 0 && f.d.toNat < 16
  | .plog _ f => f.fn.toNat < 16 && f.c == 0 && f.d.toNat < 16 && f.a.toNat < 16 && f.b.toNat < 16
  | .maddr _ f => f.fn == 0
  | .addi _ f => f.fn == 0
  | .andi _ f => f.fn == 0
  | .ori _ f => f.fn == 0
  | .xori _ f => f.fn == 0
  | .shli _ f => f.fn == 0 && f.imm.toNat < 64
  | .shri _ f => f.fn == 0 && f.imm.toNat < 64
  | .srai _ f => f.fn == 0 && f.imm.toNat < 64
  | .cmpi _ f => f.fn.toNat < 6 && f.d.toNat < 16
  | .li _ f => f.fn == 0 && f.a == 0
  | .lih _ f => f.fn == 0
  | .movk _ f => f.fn.toNat < 4 && f.imm.toNat < 65536
  | .br _ f => f.fn == 0 && f.a == 0 && f.b == 0
  | .jmp _ f => f.fn == 0 && f.b == 0
  | .call _ f => f.fn == 0 && f.a == 0 && f.b == 0
  | .ret _ f => f.fn == 0 && f.a == 0 && f.b == 0 && f.imm == 0
  | .mark _ f => f.a == 0 && f.b == 0 && 1 ≤ f.fn.toNat && f.fn.toNat ≤ 6 && 1 ≤ f.imm.toNat && f.imm.toNat ≤ 64
  | .lset _ f => f.fn.toNat < 6 && f.b.toNat ≤ 8 && (f.b == 0 || f.a == 0)
  | .lstr _ f => f.fn.toNat < 6 && (f.a != 0 || f.imm.toNat < 16)
  | .exitE _ f => f.fn == 0 && f.a == 0 && f.b == 0 && f.imm == 0
  | .exitS _ f => f.fn == 1 && f.a == 0 && f.b == 0
  | .exitN _ f => f.fn == 2 && f.a == 0 && f.b == 0
  | .trap _ f => f.fn == 0 && f.a == 0 && f.b == 0
  | .brk _ f => f.fn == 0 && f.a == 0 && f.b == 0
  | .hret _ f => f.fn == 0 && f.a == 0 && f.b == 0 && f.imm == 0
  | .hretSkip _ f => f.fn == 1 && f.a == 0 && f.b == 0 && f.imm == 0
  | .phase _ f => f.fn == 0 && f.a == 0 && f.b == 0 && f.imm == 0
  | .preempt _ f => f.fn == 0 && f.a == 0 && f.b == 0 && f.imm.toNat < 65536
  | .gait _ f => f.fn == 0 && f.a == 0 && f.b == 0
  | .chk _ f => f.fn == 0 && f.b == 0 && f.imm == 0
  | .cinch _ => true
  | .cinchZ _ f => f.fn == 0 && f.a == 0 && f.b == 0 && f.imm == 0
  | .ld _ f => f.h == 0 && !(f.sx && f.sz == 3)
  | .loadReturn _ _ => true
  | .ldS _ f => f.h == 0 && !(f.sx && f.sz == 3)
  | .st _ f => f.h == 0 && !f.sx
  | .ldsp _ f => f.h == 0 && !(f.sx && f.sz == 3)
  | .stsp _ f => f.h == 0 && !f.sx
  | .advc _ f => f.d == 0 && f.a == 0 && f.sz == 0 && !f.sx
  | .advp _ f => f.d == 0 && f.a == 0 && f.sz == 0 && !f.sx
  | .waitc _ f => f.d == 0 && f.a == 0 && f.sz == 0 && !f.sx
  | .waitp _ f => f.d == 0 && f.a == 0 && f.sz == 0 && !f.sx
  | .hset _ f => f.d == 0 && f.sz == 0 && !f.sx && f.imm == 0
  | .hget _ f => f.a == 0 && f.sz == 0 && !f.sx && f.imm == 0
  | .amoSwap _ f => amoOk f 0
  | .amoAdd _ f => amoOk f 1
  | .amoAnd _ f => amoOk f 2
  | .amoOr _ f => amoOk f 3
  | .amoXor _ f => amoOk f 4
  | .amoMin _ f => amoOk f 5
  | .amoMax _ f => amoOk f 6
  | .amoMinu _ f => amoOk f 7
  | .amoMaxu _ f => amoOk f 8
  | .amoFadd _ f => amoOk f 9 && f.sz == 2
  | .cas _ f => f.aop == 0 && f.sys == 0 && 2 ≤ f.sz.toNat && 1 ≤ f.scope.toNat && f.scope.toNat ≤ 8
  | .cupdAdd _ f => cupdOk f 0
  | .cupdFadd _ f => cupdOk f 1 && f.sz == 2
  | .cupdMin _ f => cupdOk f 2
  | .cupdMax _ f => cupdOk f 3
  | .cupdOr _ f => cupdOk f 4
  | .fence _ f => syZero f && f.c == 0 && f.sys == 0 && f.scope.toNat ≤ 8
  | .barcfg _ f => syZero f && f.c.toNat < 32 && (f.scope == 2 || f.scope == 4) && 1 ≤ f.sys.toNat && f.sys.toNat ≤ 320
  | .bararr _ f => syZero f && f.c.toNat < 32 && f.scope == 0 && f.sys == 0
  | .barwait _ f => syZero f && f.c.toNat < 32 && f.scope == 0 && f.sys == 0
  | .sstep _ f => syZero f && f.c == 0 && f.scope == 0 && f.sys == 0
  | .srd _ f => f.a == 0 && f.b == 0 && f.c == 0 && f.aop == 0 && f.scope == 0 && f.sz == 0
  | .swr _ f => f.d == 0 && f.b == 0 && f.c == 0 && f.aop == 0 && f.scope == 0 && f.sz == 0
  | .wlnr _ f => f.fn == 0 && f.b == 0 && f.c == 0
  | .rgalloc _ f => f.fn.toNat < 12 && f.b == 0 && f.c == 0
  | .rgfree _ f => f.fn.toNat < 12 && f.a == 0 && f.b == 0 && f.c == 0 && f.d == 0
  | .sbwait _ f => f.a == 0 && f.b == 0 && f.c == 0 && f.d == 0
  | .sbpub _ f => f.a == 0 && f.b == 0 && f.c == 0 && f.d == 0
  | .trec _ f => f.b == 0 && f.c == 0 && f.d == 0
  | .hlatArm _ f => f.fn.toNat < 16 && f.b == 0 && f.c == 0 && f.d == 0
  | .hlatCnt _ f => f.fn.toNat / 16 == 1 && f.a == 0 && f.c == 0
  | .hlatPre _ f => f.fn.toNat / 16 == 2 && f.a == 0 && f.c == 0
  | .hlatOut _ f => f.fn.toNat / 16 == 3 && f.a == 0 && f.b == 0 && f.c == 0
  | .hlatTot _ f => f.fn.toNat / 16 == 4 && f.a == 0 && f.b == 0 && f.c == 0
  | .opendDone _ f => f.fn == 0 && f.a == 0 && f.b == 0 && f.c == 0 && f.d == 0
  | .opendCancel _ f => f.fn == 1 && f.a == 0 && f.b == 0 && f.c == 0 && f.d == 0
  | .opendRepeat _ f => f.fn == 2 && f.a == 0 && f.b == 0 && f.c == 0 && f.d == 0
  | .vadd _ f => partOk f && tyFI f.ty && f.c == 0 && (f.fn == 0 || (f.fn == 1 && tyI f.ty))
  | .vsub _ f => partOk f && tyFI f.ty && f.c == 0 && (f.fn == 0 || (f.fn == 1 && tyI f.ty))
  | .vmul _ f => partOk f && tyFI f.ty && f.c == 0 && f.fn == 0
  | .vfma _ f => partOk f && tyFI f.ty && f.fn == 0
  | .vfms _ f => partOk f && tyFI f.ty && f.fn == 0
  | .vfnma _ f => partOk f && tyFI f.ty && f.fn == 0
  | .vmin _ f => partOk f && tyFI f.ty && f.c == 0 && (f.fn == 0 || (f.fn == 1 && tyI f.ty))
  | .vmax _ f => partOk f && tyFI f.ty && f.c == 0 && (f.fn == 0 || (f.fn == 1 && tyI f.ty))
  | .vabs _ f => oneSrc f && tyFI f.ty && (f.fn == 0 || (f.fn == 1 && tyI f.ty))
  | .vneg _ f => oneSrc f && tyFI f.ty && (f.fn == 0 || (f.fn == 1 && tyI f.ty))
  | .vdiv _ f => partOk f && tyF f.ty && f.c == 0 && f.fn == 0
  | .vsqrt _ f => oneSrc f && tyF f.ty && f.fn == 0
  | .vrsq _ f => oneSrc f && tyF f.ty && f.fn == 0
  | .vexp2 _ f => oneSrc f && tyF f.ty && f.fn == 0
  | .vlog2 _ f => oneSrc f && tyF f.ty && f.fn == 0
  | .vcvt _ f => cvtOk f && f.b == 0 && f.c == 0 && !f.swz && f.fn.toNat < 8
  | .vpack _ f => whole f && f.c == 0 && f.fn.toNat < 8 && pairOk (f.fn.truncate 3) f.ty
  | .vunpk _ f => whole f && f.b == 0 && f.c == 0 && pairOk f.ty (f.fn.truncate 3)
  | .vand _ f => partOk f && f.c == 0 && f.fn == 0
  | .vor _ f => partOk f && f.c == 0 && f.fn == 0
  | .vxor _ f => partOk f && f.c == 0 && f.fn == 0
  | .vshl _ f => partOk f && tyI f.ty && f.c == 0 && f.fn == 0
  | .vshr _ f => partOk f && tyI f.ty && f.c == 0 && f.fn == 0
  | .vsra _ f => partOk f && tyI f.ty && f.c == 0 && f.fn == 0
  | .vcmp _ f => partOk f && f.c == 0 && f.d.toNat < 8 && (subs f.ty == 1 || f.part != 0) && ((tyF f.ty && f.fn.toNat < 7) || (tyI f.ty && f.fn.toNat % 8 < 6))
  | .vsel _ f => partOk f && f.c.toNat < 8 && f.fn == 0
  | .vred _ f => oneSrc f && f.fn.toNat < 8 && foldOk f
  | .vscan _ f => oneSrc f && foldOk f
  | .vclass _ f => oneSrc f && (tyF f.ty || f.ty == 7) && f.fn == 0
  | .vterm _ f => oneSrc f && f.fn == 0
  | .vqsc _ f => f.ty == 7 && f.fn.toNat < 3 && f.part == 0 && f.b == 0 && f.c == 0 && !f.swz
  | .vqscEnc _ f => f.ty == 7 && 8 ≤ f.fn.toNat && f.fn.toNat < 11 && encPart f && f.c == 0 && !f.swz
  | .vbcst _ f => oneSrc f && f.fn == 0
  | .vbcstLane _ f => partOk f && !f.swz && f.c == 0 && f.fn == 1
  | .vmovs _ f => partOk f && !f.swz && f.c == 0 && f.msk == 0 && f.fn.toNat < 2
  | .vins _ f => partOk f && !f.swz && f.c == 0 && f.msk == 0 && f.fn == 0
  | .viota _ f => partOk f && !f.swz && tyI f.ty && f.c == 0 && f.fn.toNat < 2
  | .vshuf _ f => whole f && f.ty == 3 && (f.fn == 1 || (f.fn == 0 && f.c == 0))
  | .vrot _ f => whole f && f.ty == 3 && f.c == 0 && f.fn.toNat < 2
  | .vmskLog _ f => mskZero f && f.c == 0 && f.d.toNat < 8 && f.a.toNat < 8 && f.b.toNat < 8
  | .vmskSet _ f => mskZero f && f.c == 1 && f.d.toNat < 8 && f.b == 0 && f.fn == 0
  | .vmskFirst _ f => mskZero f && f.c == 2 && f.d.toNat < 8 && f.b == 0 && f.fn == 0
  | .vmskGet _ f => mskZero f && f.c == 3 && f.a.toNat < 8 && f.b == 0 && f.fn == 0
  | .vchk _ f => whole f && f.ty == 0 && f.d == 0 && f.b == 0 && f.c == 0 && f.fn == 0
  | .vldh _ f => f.part == 0 && !f.swz
  | .vsth _ f => f.part == 0 && !f.swz
  | .vlds _ _ => true
  | .vsts _ _ => true
  | .mldw _ f => f.aux == 0 && f.row == 0 && !f.t && f.b == 0
  | .mldwExecute _ => true
  | .mswap _ f => f.aux == 0 && f.row == 0 && !f.t && f.b == 0 && f.a == 0
  | .mpush _ f => f.aux.toNat < 14
  | .beat _ => true
  | .mdrain _ f => f.row.toNat + f.aux.toNat ≤ 127
  | .mdrainExecute _ => true
  | .mzero _ f => f.aux == 0 && f.row == 0 && f.b == 0 && f.a == 0
  | .mhem _ f => f.aux.toNat < 3 && f.row == 0 && !f.t && f.b == 0 && f.a == 0
  | .mtclr _ f => f.aux == 0 && f.row == 0 && !f.t && f.b.toNat < 8 && !(f.b == 0 && f.a == 0)
  | .mlu _ f => f.aux == 0 && f.row == 0 && f.b == 0
  | .mchol _ f => f.aux == 0 && f.row == 0 && f.b == 0
  | .mqr _ f => f.aux.toNat < 16 && f.row == 0 && f.b == 0
  | .mtrsm _ f => f.aux.toNat < 8 && f.row == 0
  | .factorisationStep _ => true
  | .mperm _ f => f.aux == 0 && f.row == 0 && f.b == 0 && f.a == 0
  | .mres _ f => f.aux.toNat < 2 && f.row == 0 && !f.t && f.b == 0 && (f.aux == 1 || f.a == 0)
  | .mfwait _ f => f.aux == 0 && f.row == 0 && !f.t && f.b == 0 && f.a == 0
  | .asyncTrapDelivery _ => true
  | .xcopy _ f => f.b == 0 && f.c == 0 && f.fn.toNat < 2
  | .xcopys _ f => f.fn.toNat < 2
  | .xstore _ f => f.b == 0 && f.c == 0 && f.fn == 0
  | .xpub _ f => f.h == 0 && f.ofs == 0 && f.b == 0 && f.c == 0 && f.fmt == 0 && f.imm == 0 && f.fn == 0
  | .xpubNow _ f => f.h == 0 && f.ofs == 0 && f.b == 0 && f.c == 0 && f.fmt == 0 && f.imm == 0 && f.fn == 1
  | .xdrop _ f => f.h == 0 && f.ofs == 0 && f.b == 0 && f.c == 0 && f.fmt == 0 && f.imm == 0 && f.fn == 0
  | .xwld _ f => f.h == 0 && f.ofs == 0 && f.imm == 0 && f.fn == 0
  | .xgath _ f => f.b == 0 && f.imm == 0 && f.fn == 0
  | .xpermTr _ f => f.b == 0 && f.c == 0 && f.fn == 0 && f.imm.toNat < 4096
  | .xpermIdx _ f => f.b == 0 && f.c == 0 && f.fn == 1 && f.imm.toNat < 4096
  | .xftl _ f => f.h == 0 && f.ofs == 0 && f.b == 0 && f.c == 0 && f.fmt == 0 && f.imm == 0 && f.fn.toNat < 4
  | .xfte _ f => f.a == 0 && f.c == 0 && f.fmt == 0 && f.fn.toNat < 4 && f.imm.toNat < 4096
  | .xqnt _ f => f.a == 0 && f.c == 0 && f.fmt == 0 && f.fn == 0 && f.imm.toNat < 4096
  | .xqntFix _ f => f.c == 0 && f.fmt == 0 && f.fn == 1 && f.imm.toNat < 4096
  | .xhist _ f => f.a == 0 && f.c == 0 && f.imm == 0 && f.fn == 0
  | .xhlat _ f => f.h == 0 && f.ofs == 0 && f.a == 0 && f.b == 0 && f.c == 0 && f.fmt == 0 && f.imm == 0
  | .latchContribution _ _ => true
  | .xdfnc _ f => f.h == 0 && f.ofs == 0 && f.c == 0 && f.fmt == 0 && f.imm == 0 && f.fn == 0
  | .xwait _ f => f.h == 0 && f.ofs == 0 && f.a == 0 && f.b == 0 && f.c == 0 && f.fmt == 0 && f.tag == 0 && f.fn == 0 && f.imm != 0
  | .xfill _ f => f.b == 0 && f.c == 0 && f.fn.toNat < 2
  | .engineDispatch _ => true
  | .engineUnit _ _ _ => true
  | .engineWatchReport _ => true
  | .engineCommandComplete _ _ => true
  | .gend => true
  | .gjmp _ => true
  | .gbr _ _ _ => true
  | .gcall _ => true
  | .gret => true
  | .gloop _ _ _ => true
  | .gendl => true
  | .traph _ => true
  | .trapretRvpc => true
  | .trapretReexec => true
  | .trapretTarget _ => true
  | .fmtset _ _ => true
  | .fmtloop _ _ _ => true
  | .nli _ _ => true
  | .naluAdd _ _ _ => true
  | .naluSub _ _ _ => true
  | .naluMul _ _ _ => true
  | .naluFloordiv _ _ _ => true
  | .naluCeildiv _ _ _ => true
  | .naluMin _ _ _ => true
  | .naluMax _ _ _ => true
  | .naluAnd _ _ _ => true
  | .naluOr _ _ _ => true
  | .naluShl _ _ _ => true
  | .naluShr _ _ _ => true
  | .ncmp cc _ _ _ => cc.toNat < 6
  | .nld _ sx sz _ _ => !(sx && sz == 3)
  | .nst _ _ _ => true
  | .ndim _ dim fld _ => dim.toNat < 6 && (fld.toNat < 2 || dim == 0)
  | .ndimCsw _ => true
  | .nmb _ _ => true
  | .tdecl _ _ _ => true
  | .tview _ _ _ _ _ => true
  | .talloc _ => true
  | .tfree _ => true
  | .rfence _ => true
  | .rfenceAll => true
  | .wsload _ _ => true
  | .kload _ _ => true
  | .kbind _ _ _ => true
  | .fuse _ => true
  | .fusend => true
  | .matmul _ _ _ _ _ => true
  | .matmulGrp _ _ _ _ _ => true
  | .ewise _ _ _ op => op.toNat < 6
  | .unary _ _ fn table => fn != 14 && (fn == 15 || table == .imm 0)
  | .norm _ _ _ _ _ _ => true
  | .softmax _ _ _ => true
  | .reduce _ _ op axis => op.toNat < 5 && axis.toNat < 6
  | .attn _ _ _ _ _ _ => true
  | .gather _ _ _ _ _ => true
  | .scatter _ _ _ _ mode _ => mode != 3
  | .topk _ _ _ _ => true
  | .route _ _ _ => true
  | .castT _ _ => true
  | .quant _ _ => true
  | .quantFix _ _ _ => true
  | .dequant _ _ => true
  | .transp _ _ _ => true
  | .concat _ _ _ _ => true
  | .copyT _ _ => true
  | .fillT _ _ => true
  | .luf _ _ _ _ => true
  | .cholf _ _ _ => true
  | .qrf _ _ _ => true
  | .trsm _ _ _ _ _ => true
  | .allred _ _ op => op != 3
  | .allgath _ _ => true
  | .redscat _ _ op => op != 3
  | .alltoall _ _ => true
  | .sendT _ _ _ => true
  | .recv _ _ _ => true
  | .signalSet _ _ => true
  | .signalAdd _ _ => true
  | .waitsig cc _ _ _ => cc.toNat < 6
  | .waitsigWake _ => true
  | .opfence scope => 5 ≤ scope.toNat && scope.toNat ≤ 8
  | .opx _ no ts ns => opxOk no ts ns
  | .chunkDispatch _ => true
  | .energyWindow => true
  | .invocationComplete _ _ => true
  | .kernelFaultDelivery _ => true
  | .watchdog _ => true
  | .wsRefresh => true
  | .shootdown _ _ _ => true
  | .uncorrectableError _ => true
  | .correctableError _ => true
  | .preemptionRequest _ => true
  | .hardPreemption _ => true
  | .taskResume _ _ => true
  | .servingContextWake _ => true
  | .flitReceive _ _ => true
  | .linkReplay _ _ => true
  | .linkRetrain _ => true
  | .fabricTimeout _ => true
  | .peerRead _ => true
  | .peerWrite _ => true
  | .remoteAtomic _ => true
  | .enqueue _ => true
  | .response _ _ => true
  | .refusal _ _ => true
  | .hostRead _ => true
  | .hostWrite _ => true
  | .ethernetFrame _ _ _ => true
  | .getVersion _ => true
  | .getCapabilities _ => true
  | .negotiateAlgorithms _ => true
  | .getDigests _ => true
  | .getCertificate _ => true
  | .challenge _ => true
  | .getMeasurements _ => true
  | .dbgStop _ => true
  | .dbgResume _ => true
  | .dbgStep _ => true
  | .stopWindowWrite _ _ _ => true
  | .sample _ => true
  | .fire => true
  | .haltNEdge => true
  | .halterRearm => true
  | .halterLatch => true
  | .replayArrival _ _ => true
  | .powerOnReset _ => true
  | .upd _ => true
  | .reinHb _ => true
  | .updateRollback => true
  | .reinRestart _ => true
  | .queueBlockApply _ _ => true
  | .platClkWrite _ => true
  | .thermalTrip _ => true
  | .rasClear _ _ _ => true
  | .spillWrite _ _ _ => true
  | .cloakEntryWrite _ _ _ _ => true
  | .exposureWrite _ _ _ => true
  | .peerSlotWrite _ _ => true
  | .fabIdWrite _ => true
  | .fabPortenWrite _ => true
  | .routeWrite _ _ => true
  | .queueW0Write _ _ => true
  | .registerWrite _ _ => true
  | .mSlotEntryExecute _ => true
  | .pageResolved _ => true
  | .contextCreate _ => true
  | .contextActivate _ _ => true
  | .teamChange _ _ => true
  | .preemptionWithdraw _ => true
  | .haltNRelease => true
  | .linkTrainingDone _ _ => true
  | .unassignedOpcode _ => true
  | .vbcFetch _ => true

/-- What guards a slot form; none for NOP, a Vanik form or an event. CINCH has no predicate (R68). -/
def Instr.guard? : Instr → Option Guard
  | .add g _ => some g
  | .sub g _ => some g
  | .mul g _ => some g
  | .mulh g _ => some g
  | .mulhu g _ => some g
  | .div g _ => some g
  | .divu g _ => some g
  | .rem g _ => some g
  | .remu g _ => some g
  | .andR g _ => some g
  | .orR g _ => some g
  | .xorR g _ => some g
  | .andn g _ => some g
  | .shl g _ => some g
  | .shr g _ => some g
  | .sra g _ => some g
  | .minR g _ => some g
  | .maxR g _ => some g
  | .minu g _ => some g
  | .maxu g _ => some g
  | .clz g _ => some g
  | .ctz g _ => some g
  | .popc g _ => some g
  | .ext g _ => some g
  | .sel g _ => some g
  | .cmp g _ => some g
  | .plog g _ => some g
  | .maddr g _ => some g
  | .addi g _ => some g
  | .andi g _ => some g
  | .ori g _ => some g
  | .xori g _ => some g
  | .shli g _ => some g
  | .shri g _ => some g
  | .srai g _ => some g
  | .cmpi g _ => some g
  | .li g _ => some g
  | .lih g _ => some g
  | .movk g _ => some g
  | .br g _ => some g
  | .jmp g _ => some g
  | .call g _ => some g
  | .ret g _ => some g
  | .mark g _ => some g
  | .lset g _ => some g
  | .lstr g _ => some g
  | .exitE g _ => some g
  | .exitS g _ => some g
  | .exitN g _ => some g
  | .trap g _ => some g
  | .brk g _ => some g
  | .hret g _ => some g
  | .hretSkip g _ => some g
  | .phase g _ => some g
  | .preempt g _ => some g
  | .gait g _ => some g
  | .chk g _ => some g
  | .cinch f => some ⟨0, false, f.q, f.lvl⟩
  | .cinchZ g _ => some g
  | .ld g _ => some g
  | .ldS g _ => some g
  | .st g _ => some g
  | .ldsp g _ => some g
  | .stsp g _ => some g
  | .advc g _ => some g
  | .advp g _ => some g
  | .waitc g _ => some g
  | .waitp g _ => some g
  | .hset g _ => some g
  | .hget g _ => some g
  | .amoSwap g _ => some g
  | .amoAdd g _ => some g
  | .amoAnd g _ => some g
  | .amoOr g _ => some g
  | .amoXor g _ => some g
  | .amoMin g _ => some g
  | .amoMax g _ => some g
  | .amoMinu g _ => some g
  | .amoMaxu g _ => some g
  | .amoFadd g _ => some g
  | .cas g _ => some g
  | .cupdAdd g _ => some g
  | .cupdFadd g _ => some g
  | .cupdMin g _ => some g
  | .cupdMax g _ => some g
  | .cupdOr g _ => some g
  | .fence g _ => some g
  | .barcfg g _ => some g
  | .bararr g _ => some g
  | .barwait g _ => some g
  | .sstep g _ => some g
  | .srd g _ => some g
  | .swr g _ => some g
  | .wlnr g _ => some g
  | .rgalloc g _ => some g
  | .rgfree g _ => some g
  | .sbwait g _ => some g
  | .sbpub g _ => some g
  | .trec g _ => some g
  | .hlatArm g _ => some g
  | .hlatCnt g _ => some g
  | .hlatPre g _ => some g
  | .hlatOut g _ => some g
  | .hlatTot g _ => some g
  | .opendDone g _ => some g
  | .opendCancel g _ => some g
  | .opendRepeat g _ => some g
  | .vadd g _ => some g
  | .vsub g _ => some g
  | .vmul g _ => some g
  | .vfma g _ => some g
  | .vfms g _ => some g
  | .vfnma g _ => some g
  | .vmin g _ => some g
  | .vmax g _ => some g
  | .vabs g _ => some g
  | .vneg g _ => some g
  | .vdiv g _ => some g
  | .vsqrt g _ => some g
  | .vrsq g _ => some g
  | .vexp2 g _ => some g
  | .vlog2 g _ => some g
  | .vcvt g _ => some g
  | .vpack g _ => some g
  | .vunpk g _ => some g
  | .vand g _ => some g
  | .vor g _ => some g
  | .vxor g _ => some g
  | .vshl g _ => some g
  | .vshr g _ => some g
  | .vsra g _ => some g
  | .vcmp g _ => some g
  | .vsel g _ => some g
  | .vred g _ => some g
  | .vscan g _ => some g
  | .vclass g _ => some g
  | .vterm g _ => some g
  | .vqsc g _ => some g
  | .vqscEnc g _ => some g
  | .vbcst g _ => some g
  | .vbcstLane g _ => some g
  | .vmovs g _ => some g
  | .vins g _ => some g
  | .viota g _ => some g
  | .vshuf g _ => some g
  | .vrot g _ => some g
  | .vmskLog g _ => some g
  | .vmskSet g _ => some g
  | .vmskFirst g _ => some g
  | .vmskGet g _ => some g
  | .vchk g _ => some g
  | .vldh g _ => some g
  | .vsth g _ => some g
  | .vlds g _ => some g
  | .vsts g _ => some g
  | .mldw g _ => some g
  | .mswap g _ => some g
  | .mpush g _ => some g
  | .mdrain g _ => some g
  | .mzero g _ => some g
  | .mhem g _ => some g
  | .mtclr g _ => some g
  | .mlu g _ => some g
  | .mchol g _ => some g
  | .mqr g _ => some g
  | .mtrsm g _ => some g
  | .mperm g _ => some g
  | .mres g _ => some g
  | .mfwait g _ => some g
  | .xcopy g _ => some g
  | .xcopys g _ => some g
  | .xstore g _ => some g
  | .xpub g _ => some g
  | .xpubNow g _ => some g
  | .xdrop g _ => some g
  | .xwld g _ => some g
  | .xgath g _ => some g
  | .xpermTr g _ => some g
  | .xpermIdx g _ => some g
  | .xftl g _ => some g
  | .xfte g _ => some g
  | .xqnt g _ => some g
  | .xqntFix g _ => some g
  | .xhist g _ => some g
  | .xhlat g _ => some g
  | .xdfnc g _ => some g
  | .xwait g _ => some g
  | .xfill g _ => some g
  | _ => none

/-- A guard that a bundle can hold: the level below 6, and 0 where the slot has no qualifier (R64, R67). -/
def Guard.wf (g : Guard) : Bool := g.lvl.toNat < 6 && (g.q != 0 || g.lvl == 0)

/-- An instruction that an encoding exists for, or an event. -/
def Instr.wf (i : Instr) : Bool := i.fieldsOk && (match i.guard? with
  | some g => g.wf
  | none => true)

end Sys2Proof
end

