-- ==== Sys2Proof/Decode.lean ====
section
/-! DEFINITION. The decoders and encoders: Zamel bundles (R64 to R80), Vanik instructions (R225 to R230, R256), and the words of
the opcode table. Decoding is total and rejects by naming the failing part or byte. -/

namespace Sys2Proof

/-! ## Slot fields (R65, R68, R70, R74, R75) -/

/-- The head of a slot that a bundle gives a qualifier and a level; the level of an unqualified slot is not used (R64, R65). -/
def headOf (pd : BitVec 4) (pn : Bool) (q : BitVec 2) (l : BitVec 3) : Guard := ⟨pd, pn, q, if q = 0 then 0 else l⟩

/-- The fields of format SA. -/
def saOf (w : BitVec 60) : SA :=
  { fn := w.extractLsb' 37 8, c := w.extractLsb' 31 6, b := w.extractLsb' 25 6, a := w.extractLsb' 19 6, d := w.extractLsb' 13 6 }

/-- The bits that format SA leaves zero. -/
def saZero (w : BitVec 60) : Bool := w.extractLsb' 45 15 == 0

/-- The fields of format SI. -/
def siOf (w : BitVec 60) : SI :=
  { imm := w.extractLsb' 28 32, fn := w.extractLsb' 25 3, a := w.extractLsb' 19 6, d := w.extractLsb' 13 6 }

/-- The fields of format SC. -/
def scOf (w : BitVec 60) : SC :=
  { imm := w.extractLsb' 28 32, fn := w.extractLsb' 25 3, b := w.extractLsb' 19 6, a := w.extractLsb' 13 6 }

/-- The fields of format SM. -/
def smOf (w : BitVec 60) : SM :=
  { imm := w.extractLsb' 32 28, h := w.extractLsb' 28 4, sx := w.getLsbD 27, sz := w.extractLsb' 25 2, a := w.extractLsb' 19 6, d := w.extractLsb' 13 6 }

/-- The fields of format SY. -/
def syOf (w : BitVec 60) : SY :=
  { sys := w.extractLsb' 48 12, sz := w.extractLsb' 45 2, scope := w.extractLsb' 41 4, aop := w.extractLsb' 37 4, c := w.extractLsb' 31 6, b := w.extractLsb' 25 6, a := w.extractLsb' 19 6, d := w.extractLsb' 13 6 }

/-- The bits that format SY leaves zero. -/
def syZeroW (w : BitVec 60) : Bool := w.extractLsb' 47 1 == 0

/-- The fields of format VA. -/
def vaOf (w : BitVec 60) : VA :=
  { fn := w.extractLsb' 48 4, swz := w.getLsbD 47, part := w.extractLsb' 43 4, ty := w.extractLsb' 40 3, msk := w.extractLsb' 37 3, c := w.extractLsb' 31 6, b := w.extractLsb' 25 6, a := w.extractLsb' 19 6, d := w.extractLsb' 13 6 }

/-- The bits that format VA leaves zero. -/
def vaZero (w : BitVec 60) : Bool := w.extractLsb' 52 8 == 0

/-- The fields of format VR. -/
def vrOf (w : BitVec 60) : VR :=
  { fn := w.extractLsb' 48 4, swz := w.getLsbD 47, part := w.extractLsb' 43 4, ty := w.extractLsb' 40 3, msk := w.extractLsb' 37 3, rs := w.extractLsb' 19 12, d := w.extractLsb' 13 6 }

/-- The bits that format VR leaves zero. -/
def vrZero (w : BitVec 60) : Bool := w.extractLsb' 52 8 == 0 && w.extractLsb' 31 6 == 0

/-- The fields of format VS. -/
def vsOf (w : BitVec 60) : VS :=
  { imm := w.extractLsb' 40 20, msk := w.extractLsb' 37 3, a := w.extractLsb' 19 6, d := w.extractLsb' 13 6 }

/-- The bits that format VS leaves zero. -/
def vsZero (w : BitVec 60) : Bool := w.extractLsb' 25 12 == 0

/-- The fields of format MF. -/
def mfOf (w : BitVec 40) : MF :=
  { aux := w.extractLsb' 33 7, row := w.extractLsb' 26 7, t := w.getLsbD 25, b := w.extractLsb' 19 6, a := w.extractLsb' 13 6 }

/-- The fields of format XF. -/
def xfOf (w : BitVec 80) : XF :=
  { imm := w.extractLsb' 59 16, tag := w.extractLsb' 55 4, fn := w.extractLsb' 51 4, fmt := w.extractLsb' 43 8, c := w.extractLsb' 37 6, b := w.extractLsb' 31 6, a := w.extractLsb' 25 6, ofs := w.extractLsb' 17 8, h := w.extractLsb' 13 4 }

/-- The bits that format XF leaves zero. -/
def xfZero (w : BitVec 80) : Bool := w.extractLsb' 75 5 == 0

/-- The fields of CINCH, which has no head (R68). -/
def skOf (w : BitVec 60) (q : BitVec 2) (l : BitVec 3) : SK :=
  { q := q, lvl := if q = 0 then 0 else l, count := w.extractLsb' 8 20, crc := w.extractLsb' 28 32 }

/-! ## Opcode maps (R76 to R79) -/

/-- The S-slot form of format SA with an opcode. -/
def rawSA (op : BitVec 8) (g : Guard) (f : SA) : Option Instr :=
  match op.toNat with
  | 0x01 => some (.add g f)
  | 0x02 => some (.sub g f)
  | 0x03 => some (.mul g f)
  | 0x04 => some (.mulh g f)
  | 0x05 => some (.mulhu g f)
  | 0x06 => some (.div g f)
  | 0x07 => some (.divu g f)
  | 0x08 => some (.rem g f)
  | 0x09 => some (.remu g f)
  | 0x0A => some (.andR g f)
  | 0x0B => some (.orR g f)
  | 0x0C => some (.xorR g f)
  | 0x0D => some (.andn g f)
  | 0x0E => some (.shl g f)
  | 0x0F => some (.shr g f)
  | 0x10 => some (.sra g f)
  | 0x11 => some (.minR g f)
  | 0x12 => some (.maxR g f)
  | 0x13 => some (.minu g f)
  | 0x14 => some (.maxu g f)
  | 0x15 => some (.clz g f)
  | 0x16 => some (.ctz g f)
  | 0x17 => some (.popc g f)
  | 0x18 => some (.ext g f)
  | 0x19 => some (.sel g f)
  | 0x1A => some (.cmp g f)
  | 0x1B => some (.plog g f)
  | 0x1C => some (.maddr g f)
  | 0x70 => some (.wlnr g f)
  | 0x71 => some (.rgalloc g f)
  | 0x72 => some (.rgfree g f)
  | 0x73 => some (.sbwait g f)
  | 0x74 => some (.sbpub g f)
  | 0x75 => some (.trec g f)
  | 0x76 => match f.fn.toNat / 16 with | 0 => some (.hlatArm g f) | 1 => some (.hlatCnt g f) | 2 => some (.hlatPre g f) | 3 => some (.hlatOut g f) | 4 => some (.hlatTot g f) | _ => none
  | 0x77 => match f.fn.toNat with | 0 => some (.opendDone g f) | 1 => some (.opendCancel g f) | 2 => some (.opendRepeat g f) | _ => none
  | _ => none

/-- The S-slot form of format SI with an opcode. -/
def rawSI (op : BitVec 8) (g : Guard) (f : SI) : Option Instr :=
  match op.toNat with
  | 0x20 => some (.addi g f)
  | 0x21 => some (.andi g f)
  | 0x22 => some (.ori g f)
  | 0x23 => some (.xori g f)
  | 0x24 => some (.shli g f)
  | 0x25 => some (.shri g f)
  | 0x26 => some (.srai g f)
  | 0x27 => some (.cmpi g f)
  | 0x28 => some (.li g f)
  | 0x29 => some (.lih g f)
  | 0x2A => some (.movk g f)
  | _ => none

/-- The S-slot form of format SC with an opcode. -/
def rawSC (op : BitVec 8) (g : Guard) (f : SC) : Option Instr :=
  match op.toNat with
  | 0x30 => some (.br g f)
  | 0x31 => some (.jmp g f)
  | 0x32 => some (.call g f)
  | 0x33 => some (.ret g f)
  | 0x34 => some (.mark g f)
  | 0x35 => some (.lset g f)
  | 0x36 => some (.lstr g f)
  | 0x37 => match f.fn.toNat with | 0 => some (.exitE g f) | 1 => some (.exitS g f) | 2 => some (.exitN g f) | _ => none
  | 0x38 => some (.trap g f)
  | 0x39 => some (.brk g f)
  | 0x3A => match f.fn.toNat with | 0 => some (.hret g f) | 1 => some (.hretSkip g f) | _ => none
  | 0x3B => some (.phase g f)
  | 0x3C => some (.preempt g f)
  | 0x3D => some (.gait g f)
  | 0x3E => some (.chk g f)
  | 0x41 => some (.cinchZ g f)
  | _ => none

/-- The S-slot form of format SM with an opcode. -/
def rawSM (op : BitVec 8) (g : Guard) (f : SM) : Option Instr :=
  match op.toNat with
  | 0x50 => some (.ld g f)
  | 0x51 => some (.ldS g f)
  | 0x52 => some (.st g f)
  | 0x53 => some (.ldsp g f)
  | 0x54 => some (.stsp g f)
  | 0x55 => some (.advc g f)
  | 0x56 => some (.advp g f)
  | 0x57 => some (.waitc g f)
  | 0x58 => some (.waitp g f)
  | 0x59 => some (.hset g f)
  | 0x5A => some (.hget g f)
  | _ => none

/-- The S-slot form of format SY with an opcode. -/
def rawSY (op : BitVec 8) (g : Guard) (f : SY) : Option Instr :=
  match op.toNat with
  | 0x60 => match f.aop.toNat with | 0 => some (.amoSwap g f) | 1 => some (.amoAdd g f) | 2 => some (.amoAnd g f) | 3 => some (.amoOr g f) | 4 => some (.amoXor g f) | 5 => some (.amoMin g f) | 6 => some (.amoMax g f) | 7 => some (.amoMinu g f) | 8 => some (.amoMaxu g f) | 9 => some (.amoFadd g f) | _ => none
  | 0x61 => some (.cas g f)
  | 0x62 => match f.aop.toNat with | 0 => some (.cupdAdd g f) | 1 => some (.cupdFadd g f) | 2 => some (.cupdMin g f) | 3 => some (.cupdMax g f) | 4 => some (.cupdOr g f) | _ => none
  | 0x63 => some (.fence g f)
  | 0x64 => some (.barcfg g f)
  | 0x65 => some (.bararr g f)
  | 0x66 => some (.barwait g f)
  | 0x67 => some (.sstep g f)
  | 0x68 => some (.srd g f)
  | 0x69 => some (.swr g f)
  | _ => none

/-- The S-slot instruction whose opcode and fields a slot holds, before its fields are checked. -/
def rawS (w : BitVec 60) (q : BitVec 2) (l : BitVec 3) : Option Instr :=
  let op := w.extractLsb' 0 8
  let g := headOf (w.extractLsb' 8 4) (w.getLsbD 12) q l
  match op.toNat / 16 with
  | 0 | 1 | 7 => if saZero w then rawSA op g (saOf w) else none
  | 2 => rawSI op g (siOf w)
  | 3 => rawSC op g (scOf w)
  | 4 => if op = 0x40 then some (.cinch (skOf w q l)) else rawSC op g (scOf w)
  | 5 => rawSM op g (smOf w)
  | 6 => if syZeroW w then rawSY op g (syOf w) else none
  | _ => none

/-- One S slot: NOP is zero in every bit, qualifier included (R65); an unassigned opcode or a field value that the form does not
allow is refused (R67). -/
def decS (w : BitVec 60) (q : BitVec 2) (l : BitVec 3) : Option Instr :=
  if w.extractLsb' 0 8 = 0 then (if w = 0 && q = 0 then some (.nop 0) else none)
  else match rawS w q l with
    | some i => if i.fieldsOk then some i else none
    | none => none

/-- The V-slot form of format VA with an opcode. -/
def rawVA (op : BitVec 8) (g : Guard) (f : VA) : Option Instr :=
  match op.toNat with
  | 0x01 => some (.vadd g f)
  | 0x02 => some (.vsub g f)
  | 0x03 => some (.vmul g f)
  | 0x04 => some (.vfma g f)
  | 0x05 => some (.vfms g f)
  | 0x06 => some (.vfnma g f)
  | 0x07 => some (.vmin g f)
  | 0x08 => some (.vmax g f)
  | 0x09 => some (.vabs g f)
  | 0x0A => some (.vneg g f)
  | 0x0B => some (.vdiv g f)
  | 0x0C => some (.vsqrt g f)
  | 0x0D => some (.vrsq g f)
  | 0x0E => some (.vexp2 g f)
  | 0x0F => some (.vlog2 g f)
  | 0x10 => some (.vcvt g f)
  | 0x11 => some (.vpack g f)
  | 0x12 => some (.vunpk g f)
  | 0x13 => some (.vand g f)
  | 0x14 => some (.vor g f)
  | 0x15 => some (.vxor g f)
  | 0x16 => some (.vshl g f)
  | 0x17 => some (.vshr g f)
  | 0x18 => some (.vsra g f)
  | 0x19 => some (.vcmp g f)
  | 0x1A => some (.vsel g f)
  | 0x1B => some (.vred g f)
  | 0x1C => some (.vscan g f)
  | 0x1D => some (.vclass g f)
  | 0x1E => some (.vterm g f)
  | 0x1F => if f.fn.toNat < 8 then some (.vqsc g f) else some (.vqscEnc g f)
  | 0x20 => match f.fn.toNat with | 0 => some (.vbcst g f) | 1 => some (.vbcstLane g f) | _ => none
  | 0x21 => some (.vmovs g f)
  | 0x22 => some (.vins g f)
  | 0x23 => some (.viota g f)
  | 0x24 => some (.vshuf g f)
  | 0x25 => some (.vrot g f)
  | 0x26 => match f.c.toNat with | 0 => some (.vmskLog g f) | 1 => some (.vmskSet g f) | 2 => some (.vmskFirst g f) | 3 => some (.vmskGet g f) | _ => none
  | 0x27 => some (.vchk g f)
  | _ => none

/-- The V-slot form of format VR with an opcode. -/
def rawVR (op : BitVec 8) (g : Guard) (f : VR) : Option Instr :=
  match op.toNat with
  | 0x30 => some (.vldh g f)
  | 0x31 => some (.vsth g f)
  | _ => none

/-- The V-slot form of format VS with an opcode. -/
def rawVS (op : BitVec 8) (g : Guard) (f : VS) : Option Instr :=
  match op.toNat with
  | 0x32 => some (.vlds g f)
  | 0x33 => some (.vsts g f)
  | _ => none

/-- The V-slot instruction whose opcode and fields a slot holds, before its fields are checked. -/
def rawV (w : BitVec 60) (q : BitVec 2) (l : BitVec 3) : Option Instr :=
  let op := w.extractLsb' 0 8
  let g := headOf (w.extractLsb' 8 4) (w.getLsbD 12) q l
  match op.toNat / 16 with
  | 0 | 1 | 2 => if vaZero w then rawVA op g (vaOf w) else none
  | 3 => if op.toNat < 0x32 then (if vrZero w then rawVR op g (vrOf w) else none)
    else (if vsZero w then rawVS op g (vsOf w) else none)
  | _ => none

/-- One V slot: NOP is zero in every bit, qualifier included (R65); an unassigned opcode or a field value that the form does not
allow is refused (R67). -/
def decV (w : BitVec 60) (q : BitVec 2) (l : BitVec 3) : Option Instr :=
  if w.extractLsb' 0 8 = 0 then (if w = 0 && q = 0 then some (.nop 1) else none)
  else match rawV w q l with
    | some i => if i.fieldsOk then some i else none
    | none => none

/-- The M-slot form of format MF with an opcode. -/
def rawMF (op : BitVec 8) (g : Guard) (f : MF) : Option Instr :=
  match op.toNat with
  | 0x01 => some (.mldw g f)
  | 0x02 => some (.mswap g f)
  | 0x03 => some (.mpush g f)
  | 0x04 => some (.mdrain g f)
  | 0x05 => some (.mzero g f)
  | 0x06 => some (.mhem g f)
  | 0x07 => some (.mtclr g f)
  | 0x10 => some (.mlu g f)
  | 0x11 => some (.mchol g f)
  | 0x12 => some (.mqr g f)
  | 0x13 => some (.mtrsm g f)
  | 0x14 => some (.mperm g f)
  | 0x15 => some (.mres g f)
  | 0x16 => some (.mfwait g f)
  | _ => none

/-- The M-slot instruction whose opcode and fields a slot holds, before its fields are checked. -/
def rawM (w : BitVec 40) (q : BitVec 2) (l : BitVec 3) : Option Instr :=
  let op := w.extractLsb' 0 8
  let g := headOf (w.extractLsb' 8 4) (w.getLsbD 12) q l
  rawMF op g (mfOf w)

/-- One M slot: NOP is zero in every bit, qualifier included (R65); an unassigned opcode or a field value that the form does not
allow is refused (R67). -/
def decM (w : BitVec 40) (q : BitVec 2) (l : BitVec 3) : Option Instr :=
  if w.extractLsb' 0 8 = 0 then (if w = 0 && q = 0 then some (.nop 2) else none)
  else match rawM w q l with
    | some i => if i.fieldsOk then some i else none
    | none => none

/-- The X-slot form of format XF with an opcode. -/
def rawXF (op : BitVec 8) (g : Guard) (f : XF) : Option Instr :=
  match op.toNat with
  | 0x01 => some (.xcopy g f)
  | 0x02 => some (.xcopys g f)
  | 0x03 => some (.xstore g f)
  | 0x04 => match f.fn.toNat with | 0 => some (.xpub g f) | 1 => some (.xpubNow g f) | _ => none
  | 0x05 => some (.xdrop g f)
  | 0x06 => some (.xwld g f)
  | 0x07 => some (.xgath g f)
  | 0x08 => match f.fn.toNat with | 0 => some (.xpermTr g f) | 1 => some (.xpermIdx g f) | _ => none
  | 0x09 => some (.xftl g f)
  | 0x0A => some (.xfte g f)
  | 0x0B => match f.fn.toNat with | 0 => some (.xqnt g f) | 1 => some (.xqntFix g f) | _ => none
  | 0x0C => some (.xhist g f)
  | 0x0D => some (.xhlat g f)
  | 0x0E => some (.xdfnc g f)
  | 0x0F => some (.xwait g f)
  | 0x10 => some (.xfill g f)
  | _ => none

/-- The X-slot instruction whose opcode and fields a slot holds, before its fields are checked. -/
def rawX (w : BitVec 80) (q : BitVec 2) (l : BitVec 3) : Option Instr :=
  let op := w.extractLsb' 0 8
  let g := headOf (w.extractLsb' 8 4) (w.getLsbD 12) q l
  if xfZero w then rawXF op g (xfOf w) else none

/-- One X slot: NOP is zero in every bit, qualifier included (R65); an unassigned opcode or a field value that the form does not
allow is refused (R67). -/
def decX (w : BitVec 80) (q : BitVec 2) (l : BitVec 3) : Option Instr :=
  if w.extractLsb' 0 8 = 0 then (if w = 0 && q = 0 then some (.nop 3) else none)
  else match rawX w q l with
    | some i => if i.fieldsOk then some i else none
    | none => none

/-! ## Bundles (R64, R67) -/

/-- A decoded bundle. -/
structure Bundle where
  rs : Bool
  s  : Instr
  v  : Instr
  m  : Instr
  x  : Instr
deriving DecidableEq, Repr

/-- The header of a bundle: L, the four qualifiers, RS and the zero bits (R64). -/
def hdrOk (w : BitVec 256) : Bool :=
  let l := w.extractLsb' 0 3
  l.toNat < 6 && (l == 0 || w.extractLsb' 3 8 != 0) && w.extractLsb' 12 4 == 0

/-- A bundle, or the first failing part: 0 S, 1 V, 2 M, 3 X, 4 header (R67). -/
def decodeBundle (w : BitVec 256) : Except (BitVec 3) Bundle :=
  let l : BitVec 3 := w.extractLsb' 0 3
  match decS (w.extractLsb' 16 60) (w.extractLsb' 3 2) l with
  | none => .error 0
  | some s => match decV (w.extractLsb' 76 60) (w.extractLsb' 5 2) l with
    | none => .error 1
    | some v => match decM (w.extractLsb' 136 40) (w.extractLsb' 7 2) l with
      | none => .error 2
      | some m => match decX (w.extractLsb' 176 80) (w.extractLsb' 9 2) l with
        | none => .error 3
        | some x => if hdrOk w then .ok { rs := w.getLsbD 11, s := s, v := v, m := m, x := x } else .error 4

/-! ## The encoder of bundles -/

/-- A guard's head below a slot's fields. -/
def headW (g : Guard) (op : BitVec 8) : BitVec 13 := BitVec.ofBool g.pn ++ g.pd ++ op

/-- A slot of format SA. -/
def saW (op : BitVec 8) (g : Guard) (f : SA) : BitVec 60 :=
  0#15 ++ f.fn ++ f.c ++ f.b ++ f.a ++ f.d ++ headW g op

/-- A slot of format SI. -/
def siW (op : BitVec 8) (g : Guard) (f : SI) : BitVec 60 :=
  f.imm ++ f.fn ++ f.a ++ f.d ++ headW g op

/-- A slot of format SC. -/
def scW (op : BitVec 8) (g : Guard) (f : SC) : BitVec 60 :=
  f.imm ++ f.fn ++ f.b ++ f.a ++ headW g op

/-- A slot of format SM. -/
def smW (op : BitVec 8) (g : Guard) (f : SM) : BitVec 60 :=
  f.imm ++ f.h ++ BitVec.ofBool f.sx ++ f.sz ++ f.a ++ f.d ++ headW g op

/-- A slot of format SY. -/
def syW (op : BitVec 8) (g : Guard) (f : SY) : BitVec 60 :=
  f.sys ++ 0#1 ++ f.sz ++ f.scope ++ f.aop ++ f.c ++ f.b ++ f.a ++ f.d ++ headW g op

/-- A slot of format VA. -/
def vaW (op : BitVec 8) (g : Guard) (f : VA) : BitVec 60 :=
  0#8 ++ f.fn ++ BitVec.ofBool f.swz ++ f.part ++ f.ty ++ f.msk ++ f.c ++ f.b ++ f.a ++ f.d ++ headW g op

/-- A slot of format VR. -/
def vrW (op : BitVec 8) (g : Guard) (f : VR) : BitVec 60 :=
  0#8 ++ f.fn ++ BitVec.ofBool f.swz ++ f.part ++ f.ty ++ f.msk ++ 0#6 ++ f.rs ++ f.d ++ headW g op

/-- A slot of format VS. -/
def vsW (op : BitVec 8) (g : Guard) (f : VS) : BitVec 60 :=
  f.imm ++ f.msk ++ 0#12 ++ f.a ++ f.d ++ headW g op

/-- A slot of format MF. -/
def mfW (op : BitVec 8) (g : Guard) (f : MF) : BitVec 40 :=
  f.aux ++ f.row ++ BitVec.ofBool f.t ++ f.b ++ f.a ++ headW g op

/-- A slot of format XF. -/
def xfW (op : BitVec 8) (g : Guard) (f : XF) : BitVec 80 :=
  0#5 ++ f.imm ++ f.tag ++ f.fn ++ f.fmt ++ f.c ++ f.b ++ f.a ++ f.ofs ++ f.h ++ headW g op

/-- CINCH's slot. -/
def skW (f : SK) : BitVec 60 := f.crc ++ f.count ++ 0x40#8

/-- The bits of a S-slot instruction; zero for any other. -/
def encS : Instr → BitVec 60
  | .add g f => saW 0x01 g f
  | .sub g f => saW 0x02 g f
  | .mul g f => saW 0x03 g f
  | .mulh g f => saW 0x04 g f
  | .mulhu g f => saW 0x05 g f
  | .div g f => saW 0x06 g f
  | .divu g f => saW 0x07 g f
  | .rem g f => saW 0x08 g f
  | .remu g f => saW 0x09 g f
  | .andR g f => saW 0x0A g f
  | .orR g f => saW 0x0B g f
  | .xorR g f => saW 0x0C g f
  | .andn g f => saW 0x0D g f
  | .shl g f => saW 0x0E g f
  | .shr g f => saW 0x0F g f
  | .sra g f => saW 0x10 g f
  | .minR g f => saW 0x11 g f
  | .maxR g f => saW 0x12 g f
  | .minu g f => saW 0x13 g f
  | .maxu g f => saW 0x14 g f
  | .clz g f => saW 0x15 g f
  | .ctz g f => saW 0x16 g f
  | .popc g f => saW 0x17 g f
  | .ext g f => saW 0x18 g f
  | .sel g f => saW 0x19 g f
  | .cmp g f => saW 0x1A g f
  | .plog g f => saW 0x1B g f
  | .maddr g f => saW 0x1C g f
  | .addi g f => siW 0x20 g f
  | .andi g f => siW 0x21 g f
  | .ori g f => siW 0x22 g f
  | .xori g f => siW 0x23 g f
  | .shli g f => siW 0x24 g f
  | .shri g f => siW 0x25 g f
  | .srai g f => siW 0x26 g f
  | .cmpi g f => siW 0x27 g f
  | .li g f => siW 0x28 g f
  | .lih g f => siW 0x29 g f
  | .movk g f => siW 0x2A g f
  | .br g f => scW 0x30 g f
  | .jmp g f => scW 0x31 g f
  | .call g f => scW 0x32 g f
  | .ret g f => scW 0x33 g f
  | .mark g f => scW 0x34 g f
  | .lset g f => scW 0x35 g f
  | .lstr g f => scW 0x36 g f
  | .exitE g f => scW 0x37 g f
  | .exitS g f => scW 0x37 g f
  | .exitN g f => scW 0x37 g f
  | .trap g f => scW 0x38 g f
  | .brk g f => scW 0x39 g f
  | .hret g f => scW 0x3A g f
  | .hretSkip g f => scW 0x3A g f
  | .phase g f => scW 0x3B g f
  | .preempt g f => scW 0x3C g f
  | .gait g f => scW 0x3D g f
  | .chk g f => scW 0x3E g f
  | .cinch f => skW f
  | .cinchZ g f => scW 0x41 g f
  | .ld g f => smW 0x50 g f
  | .ldS g f => smW 0x51 g f
  | .st g f => smW 0x52 g f
  | .ldsp g f => smW 0x53 g f
  | .stsp g f => smW 0x54 g f
  | .advc g f => smW 0x55 g f
  | .advp g f => smW 0x56 g f
  | .waitc g f => smW 0x57 g f
  | .waitp g f => smW 0x58 g f
  | .hset g f => smW 0x59 g f
  | .hget g f => smW 0x5A g f
  | .amoSwap g f => syW 0x60 g f
  | .amoAdd g f => syW 0x60 g f
  | .amoAnd g f => syW 0x60 g f
  | .amoOr g f => syW 0x60 g f
  | .amoXor g f => syW 0x60 g f
  | .amoMin g f => syW 0x60 g f
  | .amoMax g f => syW 0x60 g f
  | .amoMinu g f => syW 0x60 g f
  | .amoMaxu g f => syW 0x60 g f
  | .amoFadd g f => syW 0x60 g f
  | .cas g f => syW 0x61 g f
  | .cupdAdd g f => syW 0x62 g f
  | .cupdFadd g f => syW 0x62 g f
  | .cupdMin g f => syW 0x62 g f
  | .cupdMax g f => syW 0x62 g f
  | .cupdOr g f => syW 0x62 g f
  | .fence g f => syW 0x63 g f
  | .barcfg g f => syW 0x64 g f
  | .bararr g f => syW 0x65 g f
  | .barwait g f => syW 0x66 g f
  | .sstep g f => syW 0x67 g f
  | .srd g f => syW 0x68 g f
  | .swr g f => syW 0x69 g f
  | .wlnr g f => saW 0x70 g f
  | .rgalloc g f => saW 0x71 g f
  | .rgfree g f => saW 0x72 g f
  | .sbwait g f => saW 0x73 g f
  | .sbpub g f => saW 0x74 g f
  | .trec g f => saW 0x75 g f
  | .hlatArm g f => saW 0x76 g f
  | .hlatCnt g f => saW 0x76 g f
  | .hlatPre g f => saW 0x76 g f
  | .hlatOut g f => saW 0x76 g f
  | .hlatTot g f => saW 0x76 g f
  | .opendDone g f => saW 0x77 g f
  | .opendCancel g f => saW 0x77 g f
  | .opendRepeat g f => saW 0x77 g f
  | _ => 0

/-- The bits of a V-slot instruction; zero for any other. -/
def encV : Instr → BitVec 60
  | .vadd g f => vaW 0x01 g f
  | .vsub g f => vaW 0x02 g f
  | .vmul g f => vaW 0x03 g f
  | .vfma g f => vaW 0x04 g f
  | .vfms g f => vaW 0x05 g f
  | .vfnma g f => vaW 0x06 g f
  | .vmin g f => vaW 0x07 g f
  | .vmax g f => vaW 0x08 g f
  | .vabs g f => vaW 0x09 g f
  | .vneg g f => vaW 0x0A g f
  | .vdiv g f => vaW 0x0B g f
  | .vsqrt g f => vaW 0x0C g f
  | .vrsq g f => vaW 0x0D g f
  | .vexp2 g f => vaW 0x0E g f
  | .vlog2 g f => vaW 0x0F g f
  | .vcvt g f => vaW 0x10 g f
  | .vpack g f => vaW 0x11 g f
  | .vunpk g f => vaW 0x12 g f
  | .vand g f => vaW 0x13 g f
  | .vor g f => vaW 0x14 g f
  | .vxor g f => vaW 0x15 g f
  | .vshl g f => vaW 0x16 g f
  | .vshr g f => vaW 0x17 g f
  | .vsra g f => vaW 0x18 g f
  | .vcmp g f => vaW 0x19 g f
  | .vsel g f => vaW 0x1A g f
  | .vred g f => vaW 0x1B g f
  | .vscan g f => vaW 0x1C g f
  | .vclass g f => vaW 0x1D g f
  | .vterm g f => vaW 0x1E g f
  | .vqsc g f => vaW 0x1F g f
  | .vqscEnc g f => vaW 0x1F g f
  | .vbcst g f => vaW 0x20 g f
  | .vbcstLane g f => vaW 0x20 g f
  | .vmovs g f => vaW 0x21 g f
  | .vins g f => vaW 0x22 g f
  | .viota g f => vaW 0x23 g f
  | .vshuf g f => vaW 0x24 g f
  | .vrot g f => vaW 0x25 g f
  | .vmskLog g f => vaW 0x26 g f
  | .vmskSet g f => vaW 0x26 g f
  | .vmskFirst g f => vaW 0x26 g f
  | .vmskGet g f => vaW 0x26 g f
  | .vchk g f => vaW 0x27 g f
  | .vldh g f => vrW 0x30 g f
  | .vsth g f => vrW 0x31 g f
  | .vlds g f => vsW 0x32 g f
  | .vsts g f => vsW 0x33 g f
  | _ => 0

/-- The bits of a M-slot instruction; zero for any other. -/
def encM : Instr → BitVec 40
  | .mldw g f => mfW 0x01 g f
  | .mswap g f => mfW 0x02 g f
  | .mpush g f => mfW 0x03 g f
  | .mdrain g f => mfW 0x04 g f
  | .mzero g f => mfW 0x05 g f
  | .mhem g f => mfW 0x06 g f
  | .mtclr g f => mfW 0x07 g f
  | .mlu g f => mfW 0x10 g f
  | .mchol g f => mfW 0x11 g f
  | .mqr g f => mfW 0x12 g f
  | .mtrsm g f => mfW 0x13 g f
  | .mperm g f => mfW 0x14 g f
  | .mres g f => mfW 0x15 g f
  | .mfwait g f => mfW 0x16 g f
  | _ => 0

/-- The bits of a X-slot instruction; zero for any other. -/
def encX : Instr → BitVec 80
  | .xcopy g f => xfW 0x01 g f
  | .xcopys g f => xfW 0x02 g f
  | .xstore g f => xfW 0x03 g f
  | .xpub g f => xfW 0x04 g f
  | .xpubNow g f => xfW 0x04 g f
  | .xdrop g f => xfW 0x05 g f
  | .xwld g f => xfW 0x06 g f
  | .xgath g f => xfW 0x07 g f
  | .xpermTr g f => xfW 0x08 g f
  | .xpermIdx g f => xfW 0x08 g f
  | .xftl g f => xfW 0x09 g f
  | .xfte g f => xfW 0x0A g f
  | .xqnt g f => xfW 0x0B g f
  | .xqntFix g f => xfW 0x0B g f
  | .xhist g f => xfW 0x0C g f
  | .xhlat g f => xfW 0x0D g f
  | .xdfnc g f => xfW 0x0E g f
  | .xwait g f => xfW 0x0F g f
  | .xfill g f => xfW 0x10 g f
  | _ => 0

/-- The qualifier of an instruction's slot. -/
def Instr.qual (i : Instr) : BitVec 2 := match i.guard? with
  | some g => g.q
  | none => 0

/-- The level an instruction's slot names. -/
def Instr.lvl (i : Instr) : BitVec 3 := match i.guard? with
  | some g => g.lvl
  | none => 0

/-- The word of a bundle. -/
def encBundle (b : Bundle) : BitVec 256 :=
  encX b.x ++ encM b.m ++ encV b.v ++ encS b.s ++ 0#4 ++ BitVec.ofBool b.rs ++ b.x.qual ++ b.m.qual ++ b.v.qual ++ b.s.qual ++
    (b.s.lvl ||| b.v.lvl ||| b.m.lvl ||| b.x.lvl)

/-! ## Vanik bytes (R225 to R227) -/

/-- Why a Vanik instruction does not decode: VBC_ILLEGAL at a byte index, with the 32-byte limit marked, or bytes that end
before the instruction does (R227). -/
inductive VFail where
  | illegal (idx : Nat) (limit : Bool)
  | short (idx : Nat)
deriving DecidableEq, Repr

/-- A reader of operand bytes: the bytes left and the index of the next one within the instruction. -/
abbrev Rd (α : Type) := List Byte → Nat → Except VFail (α × List Byte × Nat)

/-- One reader after another. -/
def rdThen {α β : Type} (p : Rd α) (f : α → Rd β) : Rd β := fun l n =>
  match p l n with
  | .error e => .error e
  | .ok (a, l', n') => f a l' n'

/-- The end of an instruction. -/
def rdDone {α : Type} (a : α) : Rd α := fun l n => .ok (a, l, n)

/-- A failure at the byte before the next one. -/
def rdBad {α : Type} : Rd α := fun _ n => .error (.illegal (n - 1) false)

/-- One byte; the 33rd is over the limit (R226). -/
def rdByte : Rd Byte := fun l n =>
  if 32 ≤ n then .error (.illegal 32 true)
  else match l with
    | [] => .error (.short n)
    | b :: l' => .ok (b, l', n + 1)

/-- A byte that must satisfy a condition. -/
def rdIf (ok : Byte → Bool) : Rd Byte := rdThen rdByte (fun b => if ok b then rdDone b else rdBad)

/-- Groups of a LEB128 value up to a limit: each byte adds seven bits; a value over the limit, a last byte 0 of several and a tenth
byte above 1 fail at that byte (R226, R227). -/
def rdGroups (lim : Nat) : Nat → Nat → Nat → Rd Nat
  | 0, _, _ => rdBad
  | k + 1, sh, acc => rdThen rdByte (fun b =>
      let acc' := acc + b.toNat % 128 * 2 ^ sh
      if lim < acc' || (k == 0 && 1 < b.toNat) || (sh != 0 && b == 0) then rdBad
      else if b.toNat < 128 then rdDone acc' else rdGroups lim k (sh + 7) acc')

/-- An unsigned LEB128 value up to a limit (kind U). -/
def rdU (lim : Nat) : Rd Nat := rdGroups lim 10 0 0

/-- The signed value of a zigzag value (R226). -/
def unzig (u : Word) : Word := (u >>> 1) ^^^ (if u.getLsbD 0 then BitVec.allOnes 64 else 0)

/-- The zigzag value of a signed value. -/
def zig (v : Word) : Word := (v <<< 1) ^^^ (if v.msb then BitVec.allOnes 64 else 0)

/-- A signed immediate (kinds Z and O). -/
def rdZ : Rd Word := rdThen (rdU (2 ^ 64 - 1)) (fun u => rdDone (unzig (BitVec.ofNat 64 u)))

/-- A shape register (kind R). -/
def rdR : Rd (BitVec 6) := rdThen (rdIf (fun b => b.toNat < 64)) (fun b => rdDone (b.truncate 6))

/-- A shape operand (kind S). -/
def rdS : Rd SOp := rdThen (rdIf (fun b => b.toNat < 64 || b == 0x80)) (fun b =>
  if b = 0x80 then rdThen rdZ (fun v => rdDone (.imm v)) else rdDone (.reg (b.truncate 6)))

/-- n handles. -/
def rdTs : Nat → Rd (List (BitVec 8))
  | 0 => rdDone []
  | n + 1 => rdThen rdByte (fun t => rdThen (rdTs n) (fun r => rdDone (t :: r)))

/-- n shape operands. -/
def rdSs : Nat → Rd (List SOp)
  | 0 => rdDone []
  | n + 1 => rdThen rdS (fun a => rdThen (rdSs n) (fun r => rdDone (a :: r)))

/-! ## Vanik forms (R229, R230, R256) -/

/-- NALU by its op (R247). -/
noncomputable def naluOf (op : Nat) (d : BitVec 6) (a b : SOp) : Instr :=
  match op with
  | 0 => .naluAdd d a b
  | 1 => .naluSub d a b
  | 2 => .naluMul d a b
  | 3 => .naluFloordiv d a b
  | 4 => .naluCeildiv d a b
  | 5 => .naluMin d a b
  | 6 => .naluMax d a b
  | 7 => .naluAnd d a b
  | 8 => .naluOr d a b
  | 9 => .naluShl d a b
  | _ => .naluShr d a b

/-- Control forms, row 0x0 of R229; none for an unassigned opcode. -/
noncomputable def rdRow0 (op : Nat) : Option (Rd Instr) :=
  match op with
  | 0x00 => some (rdDone .gend)
  | 0x01 => some (rdThen rdZ (fun o => rdDone (.gjmp o)))
  | 0x02 => some (rdThen (rdIf (fun b => b.toNat < 16)) (fun b => rdThen rdZ (fun o =>
      rdDone (.gbr (b.extractLsb' 0 3) (b.getLsbD 3) o))))
  | 0x03 => some (rdThen rdZ (fun o => rdDone (.gcall o)))
  | 0x04 => some (rdDone .gret)
  | 0x05 => some (rdThen rdR (fun c => rdThen rdS (fun n => rdThen rdZ (fun o => rdDone (.gloop c n o)))))
  | 0x06 => some (rdDone .gendl)
  | 0x07 => some (rdThen rdZ (fun o => rdDone (.traph o)))
  | 0x08 => some (rdThen (rdIf (fun b => b.toNat < 3)) (fun b => match b.toNat with
      | 0 => rdDone .trapretRvpc
      | 1 => rdDone .trapretReexec
      | _ => rdThen rdS (fun a => rdDone (.trapretTarget a))))
  | 0x09 => some (rdThen (rdIf (fun b => b.toNat < 16)) (fun b => rdThen (rdU (2 ^ 64 - 1)) (fun v =>
      rdDone (.fmtset (b.extractLsb' 0 4) (BitVec.ofNat 64 v)))))
  | 0x0A => some (rdThen rdByte (fun b => rdDone (.fmtloop (b.extractLsb' 0 3) (b.getLsbD 3) (b.extractLsb' 4 4))))
  | _ => none

/-- Shape arithmetic, row 0x1 of R229. -/
noncomputable def rdRow1 (op : Nat) : Option (Rd Instr) :=
  match op with
  | 0x10 => some (rdThen rdR (fun d => rdThen rdZ (fun v => rdDone (.nli d v))))
  | 0x11 => some (rdThen (rdIf (fun b => b.toNat < 11)) (fun b => rdThen rdR (fun d => rdThen rdS (fun a => rdThen rdS (fun c =>
      rdDone (naluOf b.toNat d a c))))))
  | 0x12 => some (rdThen (rdIf (fun b => b.toNat < 64 && b.toNat % 8 < 6)) (fun b => rdThen rdS (fun a => rdThen rdS (fun c =>
      rdDone (.ncmp (b.extractLsb' 0 3) (b.extractLsb' 3 3) a c)))))
  | 0x13 => some (rdThen (rdIf (fun b => b.toNat < 128)) (fun b =>
      rdThen (rdIf (fun c => c.toNat < 8 && !(b.getLsbD 6 && c.toNat % 4 == 3))) (fun c =>
        if c.getLsbD 2 then rdThen rdByte (fun t => rdThen rdS (fun a =>
          rdDone (.nld (b.extractLsb' 0 6) (b.getLsbD 6) (c.extractLsb' 0 2) (some t) a)))
        else rdThen rdS (fun a => rdDone (.nld (b.extractLsb' 0 6) (b.getLsbD 6) (c.extractLsb' 0 2) none a)))))
  | 0x14 => some (rdThen (rdIf (fun b => b.toNat < 4)) (fun b => rdThen rdS (fun a => rdThen rdS (fun v =>
      rdDone (.nst (b.extractLsb' 0 2) a v)))))
  | 0x15 => some (rdThen rdR (fun d => rdThen (rdIf (fun b => b == 0x1F || (b.toNat < 32 && b.toNat % 8 < 6 && (b.toNat < 16 || b.toNat % 8 == 0))))
      (fun b => if b = 0x1F then rdThen (rdIf (fun t => t == 0)) (fun _ => rdDone (.ndimCsw d))
        else rdThen rdByte (fun t => rdDone (.ndim d (b.extractLsb' 0 3) (b.extractLsb' 3 2) t)))))
  | 0x16 => some (rdThen (rdIf (fun b => b.toNat < 8)) (fun b => rdThen rdS (fun v => rdDone (.nmb (b.extractLsb' 0 3) v))))
  | _ => none

/-- Declarations, memory and kernels, rows 0x2 and 0x3 of R229. -/
noncomputable def rdRow2 (op : Nat) : Option (Rd Instr) :=
  match op with
  | 0x20 => some (rdThen rdByte (fun t => rdThen (rdIf (fun b => b.toNat < 2)) (fun b => rdThen rdS (fun a =>
      rdDone (.tdecl t (b.getLsbD 0) a)))))
  | 0x21 => some (rdThen rdByte (fun v => rdThen rdByte (fun s => rdThen (rdIf (fun b => b.toNat < 8)) (fun b =>
      rdThen rdS (fun a => rdThen rdS (fun n => rdDone (.tview v s (b.extractLsb' 0 3) a n)))))))
  | 0x22 => some (rdThen rdByte (fun t => rdDone (.talloc t)))
  | 0x23 => some (rdThen rdByte (fun t => rdDone (.tfree t)))
  | 0x24 => some (rdThen (rdIf (fun b => b.toNat < 2)) (fun b =>
      if b = 1 then rdDone .rfenceAll else rdThen rdByte (fun t => rdDone (.rfence t))))
  | 0x25 => some (rdThen rdByte (fun d => rdThen rdByte (fun s => rdDone (.wsload d s))))
  | 0x26 => some (rdThen rdR (fun d => rdThen rdS (fun a => rdDone (.kload d a))))
  | 0x27 => some (rdThen (rdU 511) (fun k => rdThen (rdU (2 ^ 32 - 1)) (fun g => rdThen rdS (fun i =>
      rdDone (.kbind (BitVec.ofNat 9 k) (BitVec.ofNat 32 g) i)))))
  | 0x30 => some (rdThen (rdIf (fun b => b.toNat < 2)) (fun b => rdDone (.fuse (b.getLsbD 0))))
  | 0x31 => some (rdDone .fusend)
  | _ => none

/-- Operators, row 0x4 of R229. -/
noncomputable def rdRow4 (op : Nat) : Option (Rd Instr) :=
  match op with
  | 0x40 => some (rdThen rdByte (fun y => rdThen rdByte (fun x => rdThen rdByte (fun w =>
      rdThen (rdIf (fun b => b.extractLsb' 2 2 == 0)) (fun b =>
        if b.getLsbD 1 then rdDone (.matmulGrp y x w (b.getLsbD 0) (b.extractLsb' 4 4))
        else rdDone (.matmul y x w (b.getLsbD 0) (b.extractLsb' 4 4)))))))
  | 0x41 => some (rdThen rdByte (fun y => rdThen rdByte (fun a => rdThen rdByte (fun c =>
      rdThen (rdIf (fun b => b.toNat < 6)) (fun b => rdDone (.ewise y a c (b.extractLsb' 0 4)))))))
  | 0x42 => some (rdThen rdByte (fun y => rdThen rdByte (fun x => rdThen (rdIf (fun b => b.toNat < 16 && b != 14)) (fun b =>
      if b = 15 then rdThen rdS (fun a => rdDone (.unary y x 15 a)) else rdDone (.unary y x (b.extractLsb' 0 4) (.imm 0))))))
  | 0x43 => some (rdThen rdByte (fun y => rdThen rdByte (fun x => rdThen rdByte (fun g => rdThen (rdIf (fun b => b.toNat < 4)) (fun b =>
      if b.getLsbD 1 then rdThen rdS (fun e => rdDone (.norm y x g (b.getLsbD 0) none e))
      else rdThen rdByte (fun t => rdThen rdS (fun e => rdDone (.norm y x g (b.getLsbD 0) (some t) e))))))))
  | 0x44 => some (rdThen rdByte (fun y => rdThen rdByte (fun x => rdThen (rdIf (fun b => b.toNat < 2)) (fun b =>
      rdDone (.softmax y x (b.getLsbD 0))))))
  | 0x45 => some (rdThen rdByte (fun y => rdThen rdByte (fun x =>
      rdThen (rdIf (fun b => b.toNat < 64 && b.toNat % 8 < 5 && b.toNat / 8 < 6)) (fun b =>
        rdDone (.reduce y x (b.extractLsb' 0 3) (b.extractLsb' 3 3))))))
  | 0x46 => some (rdThen rdByte (fun o => rdThen rdByte (fun q => rdThen rdByte (fun k => rdThen rdByte (fun v =>
      rdThen (rdIf (fun b => b.toNat < 2)) (fun b => rdThen rdS (fun s => rdDone (.attn o q k v (b.getLsbD 0) s))))))))
  | 0x47 => some (rdThen rdByte (fun y => rdThen rdByte (fun x => rdThen rdByte (fun i => rdThen (rdIf (fun b => b.toNat < 16)) (fun b =>
      rdDone (.gather y x i (b.extractLsb' 0 3) (b.getLsbD 3)))))))
  | 0x48 => some (rdThen rdByte (fun y => rdThen rdByte (fun x => rdThen rdByte (fun i =>
      rdThen (rdIf (fun b => b.toNat < 64 && b.toNat / 8 % 4 != 3)) (fun b =>
        rdDone (.scatter y x i (b.extractLsb' 0 3) (b.extractLsb' 3 2) (b.getLsbD 5)))))))
  | 0x49 => some (rdThen rdByte (fun v => rdThen rdByte (fun i => rdThen rdByte (fun x => rdThen rdS (fun k =>
      rdDone (.topk v i x k))))))
  | 0x4A => some (rdThen rdByte (fun p => rdThen rdByte (fun x => rdThen (rdIf (fun b => b.toNat < 16)) (fun b =>
      rdDone (.route p x (b.extractLsb' 0 4))))))
  | 0x4B => some (rdThen rdByte (fun y => rdThen rdByte (fun x => rdDone (.castT y x))))
  | 0x4C => some (rdThen rdByte (fun y => rdThen rdByte (fun x => rdThen (rdIf (fun b => b.toNat < 2)) (fun b =>
      if b = 1 then rdThen rdS (fun s => rdDone (.quantFix y x s)) else rdDone (.quant y x)))))
  | 0x4D => some (rdThen rdByte (fun y => rdThen rdByte (fun x => rdDone (.dequant y x))))
  | 0x4E => some (rdThen rdByte (fun y => rdThen rdByte (fun x => rdThen (rdU (2 ^ 18 - 1)) (fun p =>
      rdDone (.transp y x (BitVec.ofNat 18 p))))))
  | 0x4F => some (rdThen rdByte (fun y => rdThen rdByte (fun a => rdThen rdByte (fun c => rdThen (rdIf (fun b => b.toNat < 8)) (fun b =>
      rdDone (.concat y a c (b.extractLsb' 0 3)))))))
  | _ => none

/-- Operators, row 0x5 of R229. -/
noncomputable def rdRow5 (op : Nat) : Option (Rd Instr) :=
  match op with
  | 0x50 => some (rdThen rdByte (fun y => rdThen rdByte (fun x => rdDone (.copyT y x))))
  | 0x51 => some (rdThen rdByte (fun y => rdThen rdS (fun v => rdDone (.fillT y v))))
  | 0x52 => some (rdThen rdByte (fun a => rdThen rdByte (fun p => rdThen rdByte (fun g => rdThen (rdIf (fun b => b.toNat < 2)) (fun b =>
      if b = 1 then rdThen rdS (fun v => rdDone (.luf a p g (some v))) else rdDone (.luf a p g none))))))
  | 0x53 => some (rdThen rdByte (fun a => rdThen rdByte (fun g => rdThen (rdIf (fun b => b.toNat < 2)) (fun b =>
      if b = 1 then rdThen rdS (fun v => rdDone (.cholf a g (some v))) else rdDone (.cholf a g none)))))
  | 0x54 => some (rdThen rdByte (fun a => rdThen rdByte (fun t => rdThen rdByte (fun g => rdDone (.qrf a t g)))))
  | 0x55 => some (rdThen rdByte (fun x => rdThen rdByte (fun l => rdThen (rdIf (fun b => b.toNat < 8)) (fun b =>
      rdDone (.trsm x l (b.getLsbD 0) (b.getLsbD 1) (b.getLsbD 2))))))
  | _ => none

/-- Collectives, signals and OPX: rows 0x8, 0x9 and 0xF of R229. -/
noncomputable def rdRow8 (op : Nat) : Option (Rd Instr) :=
  match op with
  | 0x80 => some (rdThen rdByte (fun y => rdThen rdByte (fun x => rdThen (rdIf (fun b => b.toNat < 3)) (fun b =>
      rdDone (.allred y x (b.extractLsb' 0 2))))))
  | 0x81 => some (rdThen rdByte (fun y => rdThen rdByte (fun x => rdDone (.allgath y x))))
  | 0x82 => some (rdThen rdByte (fun y => rdThen rdByte (fun x => rdThen (rdIf (fun b => b.toNat < 3)) (fun b =>
      rdDone (.redscat y x (b.extractLsb' 0 2))))))
  | 0x83 => some (rdThen rdByte (fun y => rdThen rdByte (fun x => rdDone (.alltoall y x))))
  | 0x84 => some (rdThen rdByte (fun x => rdThen rdS (fun p => rdThen (rdU 65535) (fun t => rdDone (.sendT x p (BitVec.ofNat 16 t))))))
  | 0x85 => some (rdThen rdByte (fun y => rdThen rdS (fun p => rdThen (rdU 65535) (fun t => rdDone (.recv y p (BitVec.ofNat 16 t))))))
  | 0x90 => some (rdThen (rdIf (fun b => b.toNat < 2)) (fun b => rdThen rdS (fun a => rdThen rdS (fun v =>
      if b = 1 then rdDone (.signalAdd a v) else rdDone (.signalSet a v)))))
  | 0x91 => some (rdThen (rdIf (fun b => b.toNat < 6)) (fun b => rdThen rdR (fun d => rdThen rdS (fun a => rdThen rdS (fun v =>
      rdDone (.waitsig (b.extractLsb' 0 3) d a v))))))
  | 0x92 => some (rdThen (rdIf (fun b => 5 ≤ b.toNat && b.toNat < 9)) (fun b => rdDone (.opfence (b.extractLsb' 0 4))))
  | 0xFF => some (rdThen rdByte (fun x => rdThen (rdIf (fun b => b.toNat % 16 < 9 && b.toNat / 16 < 5)) (fun b =>
      rdThen (rdIf (fun c => c.toNat ≤ b.toNat % 16)) (fun c => rdThen (rdTs (b.toNat % 16)) (fun ts =>
        rdThen (rdSs (b.toNat / 16)) (fun ns => rdDone (.opx x (c.extractLsb' 0 4) ts ns)))))))
  | _ => none

/-- The reader of the operands that an opcode byte takes; none for an unassigned opcode (R229). -/
noncomputable def rdOpcode (op : Nat) : Option (Rd Instr) :=
  match op / 16 with
  | 0 => rdRow0 op
  | 1 => rdRow1 op
  | 2 | 3 => rdRow2 op
  | 4 => rdRow4 op
  | 5 => rdRow5 op
  | 8 | 9 | 15 => rdRow8 op
  | _ => none

/-- A Vanik instruction and its length from the bytes at VPC, or how decoding fails first (R227). -/
noncomputable def decodeVanik (l : List Byte) : Except VFail (Instr × Nat) :=
  match rdByte l 0 with
  | .error e => .error e
  | .ok (b, l', n) => match rdOpcode b.toNat with
    | none => .error (.illegal 0 false)
    | some p => match p l' n with
      | .error e => .error e
      | .ok (i, _, k) => .ok (i, k)

/-! ## The encoder of Vanik instructions -/

/-- LEB128 groups in the fewest bytes (R226). -/
def leb : Nat → Nat → List Byte
  | 0, _ => []
  | k + 1, v => if v < 128 then [BitVec.ofNat 8 v] else BitVec.ofNat 8 (v % 128 + 128) :: leb k (v / 128)

/-- An unsigned value. -/
def encU (v : Nat) : List Byte := leb 10 v

/-- A signed immediate. -/
def encZ (v : Word) : List Byte := encU (zig v).toNat

/-- A shape register. -/
def encR (r : BitVec 6) : Byte := r.zeroExtend 8

/-- A shape operand. -/
def encSOp : SOp → List Byte
  | .reg n => [n.zeroExtend 8]
  | .imm v => 0x80 :: encZ v

/-- A field byte with one bit. -/
def bitB (b : Bool) (k : Nat) : Byte := if b then BitVec.ofNat 8 (2 ^ k) else 0

/-- NALU's bytes. -/
def encNalu (op : Byte) (d : BitVec 6) (a b : SOp) : List Byte := 0x11 :: op :: encR d :: (encSOp a ++ encSOp b)

/-- The bytes of a Vanik instruction, every immediate in the fewest bytes (R254); empty for any other. -/
def encVanik : Instr → List Byte
  | .gend => [0x00]
  | .gjmp o => 0x01 :: encZ o
  | .gbr g inv o => 0x02 :: (g.zeroExtend 8 ||| bitB inv 3) :: encZ o
  | .gcall o => 0x03 :: encZ o
  | .gret => [0x04]
  | .gloop c n o => 0x05 :: encR c :: (encSOp n ++ encZ o)
  | .gendl => [0x06]
  | .traph o => 0x07 :: encZ o
  | .trapretRvpc => [0x08, 0]
  | .trapretReexec => [0x08, 1]
  | .trapretTarget a => 0x08 :: 2 :: encSOp a
  | .fmtset i v => 0x09 :: i.zeroExtend 8 :: encU v.toNat
  | .fmtloop l en b => [0x0A, b ++ BitVec.ofBool en ++ l]
  | .nli d v => 0x10 :: encR d :: encZ v
  | .naluAdd d a b => encNalu 0 d a b
  | .naluSub d a b => encNalu 1 d a b
  | .naluMul d a b => encNalu 2 d a b
  | .naluFloordiv d a b => encNalu 3 d a b
  | .naluCeildiv d a b => encNalu 4 d a b
  | .naluMin d a b => encNalu 5 d a b
  | .naluMax d a b => encNalu 6 d a b
  | .naluAnd d a b => encNalu 7 d a b
  | .naluOr d a b => encNalu 8 d a b
  | .naluShl d a b => encNalu 9 d a b
  | .naluShr d a b => encNalu 10 d a b
  | .ncmp cc g a b => 0x12 :: (0#2 ++ g ++ cc) :: (encSOp a ++ encSOp b)
  | .nld d sx sz hw a => 0x13 :: (0#1 ++ BitVec.ofBool sx ++ d) :: (0#5 ++ BitVec.ofBool hw.isSome ++ sz) :: (hw.toList ++ encSOp a)
  | .nst sz a v => 0x14 :: sz.zeroExtend 8 :: (encSOp a ++ encSOp v)
  | .ndim d k f t => [0x15, encR d, 0#3 ++ f ++ k, t]
  | .ndimCsw d => [0x15, encR d, 0x1F, 0]
  | .nmb i v => 0x16 :: i.zeroExtend 8 :: encSOp v
  | .tdecl t r a => 0x20 :: t :: bitB r 0 :: encSOp a
  | .tview v s d a n => 0x21 :: v :: s :: d.zeroExtend 8 :: (encSOp a ++ encSOp n)
  | .talloc t => [0x22, t]
  | .tfree t => [0x23, t]
  | .rfence t => [0x24, 0, t]
  | .rfenceAll => [0x24, 1]
  | .wsload d s => [0x25, d, s]
  | .kload d a => 0x26 :: encR d :: encSOp a
  | .kbind k g i => 0x27 :: (encU k.toNat ++ encU g.toNat ++ encSOp i)
  | .fuse k => [0x30, bitB k 0]
  | .fusend => [0x31]
  | .matmul y x w acc e => [0x40, y, x, w, e ++ 0#3 ++ BitVec.ofBool acc]
  | .matmulGrp y x w acc e => [0x40, y, x, w, e ++ 1#3 ++ BitVec.ofBool acc]
  | .ewise y a c op => [0x41, y, a, c, op.zeroExtend 8]
  | .unary y x fn tb => 0x42 :: y :: x :: fn.zeroExtend 8 :: (if fn = 15 then encSOp tb else [])
  | .norm y x g rms bt e => 0x43 :: y :: x :: g :: (bitB rms 0 ||| bitB bt.isNone 1) :: (bt.toList ++ encSOp e)
  | .softmax y x lg => [0x44, y, x, bitB lg 0]
  | .reduce y x op ax => [0x45, y, x, 0#2 ++ ax ++ op]
  | .attn o q k v c s => 0x46 :: o :: q :: k :: v :: bitB c 0 :: encSOp s
  | .gather y x i ax z => [0x47, y, x, i, 0#4 ++ BitVec.ofBool z ++ ax]
  | .scatter y x i ax m sk => [0x48, y, x, i, 0#2 ++ BitVec.ofBool sk ++ m ++ ax]
  | .topk v i x k => 0x49 :: v :: i :: x :: encSOp k
  | .route p x e => [0x4A, p, x, e.zeroExtend 8]
  | .castT y x => [0x4B, y, x]
  | .quant y x => [0x4C, y, x, 0]
  | .quantFix y x s => 0x4C :: y :: x :: 1 :: encSOp s
  | .dequant y x => [0x4D, y, x]
  | .transp y x p => 0x4E :: y :: x :: encU p.toNat
  | .concat y a c ax => [0x4F, y, a, c, ax.zeroExtend 8]
  | .copyT y x => [0x50, y, x]
  | .fillT y v => 0x51 :: y :: encSOp v
  | .luf a p g none => [0x52, a, p, g, 0]
  | .luf a p g (some v) => 0x52 :: a :: p :: g :: 1 :: encSOp v
  | .cholf a g none => [0x53, a, g, 0]
  | .cholf a g (some v) => 0x53 :: a :: g :: 1 :: encSOp v
  | .qrf a t g => [0x54, a, t, g]
  | .trsm x l lo u t => [0x55, x, l, 0#5 ++ BitVec.ofBool t ++ BitVec.ofBool u ++ BitVec.ofBool lo]
  | .allred y x op => [0x80, y, x, op.zeroExtend 8]
  | .allgath y x => [0x81, y, x]
  | .redscat y x op => [0x82, y, x, op.zeroExtend 8]
  | .alltoall y x => [0x83, y, x]
  | .sendT x p t => 0x84 :: x :: (encSOp p ++ encU t.toNat)
  | .recv y p t => 0x85 :: y :: (encSOp p ++ encU t.toNat)
  | .signalSet a v => 0x90 :: 0 :: (encSOp a ++ encSOp v)
  | .signalAdd a v => 0x90 :: 1 :: (encSOp a ++ encSOp v)
  | .waitsig cc d a v => 0x91 :: cc.zeroExtend 8 :: encR d :: (encSOp a ++ encSOp v)
  | .opfence sc => [0x92, sc.zeroExtend 8]
  | .opx x no ts ns => 0xFF :: x :: (0#1 ++ BitVec.ofNat 3 ns.length ++ BitVec.ofNat 4 ts.length) :: no.zeroExtend 8 ::
      (ts ++ ns.flatMap encSOp)
  | _ => []

/-- A Vanik instruction whose bytes fit the 32-byte limit (R226). -/
def Instr.fits (i : Instr) : Bool := (encVanik i).length ≤ 32

/-! ## Words -/

/-- The n bytes of a word, first byte lowest. -/
def wordBytes (n : Nat) (w : Nat) : List Byte := (List.range n).map (fun k => BitVec.ofNat 8 (w / 256 ^ k))

/-- The bundle that holds one slot instruction and three NOP slots. -/
def soloBundle (i : Instr) : Bundle :=
  { rs := false, s := if encS i = 0 then .nop 0 else i, v := if encV i = 0 then .nop 1 else i,
    m := if encM i = 0 then .nop 2 else i, x := if encX i = 0 then .nop 3 else i }

/-- The bytes of an instruction: a bundle as it lies in the control store, a slot form alone in its bundle, a Vanik form; none for an
event. -/
def encode (i : Instr) : Option (List Byte) :=
  match i with
  | .bundle w => some (wordBytes 32 w.toNat)
  | .nop _ => some (wordBytes 32 0)
  | i => if i.guard?.isSome then some (wordBytes 32 (encBundle (soloBundle i)).toNat)
    else match encVanik i with
      | [] => none
      | l => some l

/-- The bytes of a table word, in the table's order: the first byte of the instruction is the highest of the word, and the operand
bytes the table gives no bits are zero. -/
def tabwordBytes (nbits w : Nat) : List Byte :=
  let n := nbits / 8
  (List.range n).map (fun k => BitVec.ofNat 8 (w / 256 ^ (n - 1 - k))) ++ List.replicate (33 - n) 0

/-- The instruction that the decoder reads from a word of the opcode table: a 256-bit word is a bundle, any other is Vanik bytes. -/
noncomputable def decodeTableWord (nbits w : Nat) : Option Instr :=
  if nbits = 256 then some (.bundle (BitVec.ofNat 256 w))
  else match decodeVanik (tabwordBytes nbits w) with
    | .ok (i, _) => some i
    | .error _ => none

end Sys2Proof
end

