-- ==== Sys2Proof/Config.lean ====
section
/-! DEFINITION. What one part fixes (constants) and the values the manual leaves open (opaque free values: nothing in
Lean can evaluate them, so a statement about one holds whatever the value is). Log entries 2, 5 and 6 name them. -/

namespace Sys2Proof.Config

/-- PWR.LIMIT's maximum and reset value: 1650 W on JX9-P, 1800 W on JX9-M (R455). -/
def maxWatts (m : Bool) : Nat := if m then 1800 else 1650

/-- The most bytes of second-tier memory: 3072 GiB, all of it on JX9-M (R327, R440). -/
def tier2Max : Nat := 3072 * 1024 * 1024 * 1024

/-- A stochastic-rounding draw of the device random source, by its index (R50; log 2). Free value. -/
opaque srDraw : Nat → BitVec 16

/-- A free 64-bit value, by its index (log 2). Free value. -/
opaque freeWord : Nat → BitVec 64

/-- The save-area key K that the security engine draws at boot, by its draw index (R389; log 2). Free value. -/
opaque saveKey : Nat → BitVec 64

/-- SHA-384, by which stages are measured (R445; log 2). Uninterpreted. -/
opaque sha384 : List Byte → BitVec 384

/-- Whether an image's XMSS signature and key digest verify (R446; log 2). Uninterpreted. -/
opaque signatureOk : List Byte → Bool

/-- Whether the signature after a system kernel's image is the vendor's (R241, R242; log 115): the image and the bytes after it. Uninterpreted. -/
opaque kernelSigOk : List Byte → List Byte → Bool

/-- The lines that hold a system kernel's signature after its SIZE bytes, whose length the spec does not give (R241; log 115). Uninterpreted. -/
opaque sigLines : Nat

/-- The boot ROM of the hub die, which is immutable (R445; log 2). Uninterpreted. -/
opaque romImage : List (BitVec 8)

/-- The bytes of a Rein firmware image that Rein core k is loaded with, a format of the firmware's (R444; log 140). Uninterpreted. -/
opaque reinPart : Nat → List (BitVec 8) → List (BitVec 8)

/-- The offset in BAR0 at which FW.STAT shows, which the manual does not give (R446; log 139). Uninterpreted. -/
opaque bar0Stat : Nat

/-- The measurement digest of the fuse state, stage 7, at a security version (R445; log 2). Uninterpreted. -/
opaque fuseDigest : BitVec 32 → BitVec 384

/-- The ECDSA P-384 signature of a transcript by the device key (R447; log 2). Uninterpreted. -/
opaque deviceSign : List Byte → List Byte

/-- The vendor certificate chain of slot 0 (R447; log 2). Uninterpreted. -/
opaque certChain : Nat → List Byte

/-- The fuses' security version as the part was made (R446, R448; log 5). Uninterpreted. -/
opaque fuseVersion : BitVec 32

/-- The A-clock the governor chooses for a die at a window when the clock is free, as a step 0 .. 12 of 100 MHz
above 800 MHz (R456; log 2). Free value: die, window. -/
opaque freeMhzStep : Nat → Nat → Nat

/-- The result of a widening whose exact value the target format does not hold (R149 calls it exact; log 2). Free value:
source code, target code, source contents. -/
opaque openWiden : Nat → Nat → Nat → Nat

/-- The body of a header flit, whose field places the manual does not give, from what it names (R424, R461; log 138): destination, source, context tag, kind
(0 read, 1 write, 2 atomic, 4 response, 5 refusal), operation, size, peer address, byte mask, refusal reason. Uninterpreted. -/
opaque flitHead : List Nat → BitVec 512

/-- The hub SRAM address of the handover structure, which the manual calls fixed and does not give (R451; log 127). Uninterpreted. -/
opaque handoverAt : Nat

/-- The state that Rein firmware hands over and the version of its format, which are the firmware's (R451; log 127). Free values: an index. -/
opaque handoverBody : Nat → List (BitVec 8)
opaque handoverVer : Nat → BitVec 32

/-- Whether an image, by its digest, accepts a format version (R451; log 127). Uninterpreted. -/
opaque acceptsVer : BitVec 384 → Nat → Bool

/-- The set of a translation cache that a leaf falls into (R337 gives 256 sets and no index; log 20). Free value: slot, virtual page. -/
opaque tlbSet : Nat → Nat → BitVec 8

/-- A scratchpad byte that a built-in kernel leaves in a granule it held (R396; log 2). Free value: an index. -/
opaque leftByte : Nat → BitVec 8

end Sys2Proof.Config
end

