-- ==== Sys2Proof/Machine/Num.lean ====
section
/-! DEFINITION. Number formats, rounding and term counts (spec 02): exact values, the codes of R39, decode8 and its
inverse, rnd of R47 to R54, and the exact arithmetic that the vector unit, the array and the operators round once. -/

namespace Sys2Proof.Machine

/-- An exact value: NaN, an infinity, or (-1)^neg x m x 2^e (m = 0 keeps its sign) (R47). -/
inductive Val where
  | nan
  | inf (neg : Bool)
  | fin (neg : Bool) (m : Nat) (e : Int)
deriving DecidableEq, Repr

/-- 2^k as a Nat for a non-negative Int exponent, 1 below. -/
def pow2 (k : Int) : Nat := 2 ^ k.toNat

/-- The number of bits of m, 0 for 0. -/
def bitLen (m : Nat) : Nat := if m = 0 then 0 else Nat.log2 m + 1

/-- The number of non-zero digits of the non-adjacent form of m (R52), with fuel. -/
def nafWeightF : Nat → Nat → Nat
  | 0, _ => 0
  | k + 1, m =>
    if m = 0 then 0
    else if m % 2 = 0 then nafWeightF k (m / 2)
    else if m % 4 = 1 then 1 + nafWeightF k (m / 2)
    else 1 + nafWeightF k ((m + 1) / 2)

/-- The number of non-zero canonical signed digits of m (R52). -/
def nafWeight (m : Nat) : Nat := nafWeightF (bitLen m + 2) m

/-- Trailing zero bits of m, with fuel. -/
def trailZerosF : Nat → Nat → Nat
  | 0, _ => 0
  | k + 1, m => if m % 2 = 1 then 0 else 1 + trailZerosF k (m / 2)

/-- The nearest members below (or at) and above (or at) k of the set of naturals of at most c canonical signed digits;
no member stands above when c = 0 and k > 0 (R54). -/
def capBounds : Nat → Nat → Nat × Option Nat
  | 0, k => (0, if k = 0 then some 0 else none)
  | c + 1, k =>
    if nafWeight k ≤ c + 1 then (k, some k)
    else
      let t := 2 ^ Nat.log2 k
      let a := capBounds c (k - t)
      let b := capBounds c (2 * t - k)
      let lo1 := t + a.1
      let lo := match b.2 with
        | some r => max lo1 (2 * t - r)
        | none => lo1
      let hi2 := 2 * t - b.1
      let hi := match a.2 with
        | some r => min (t + r) hi2
        | none => hi2
      (lo, some hi)

/-- The rounding modes of RM (R47, R55). -/
inductive RMode where
  | rne | rtz | rup | rdn | sr
deriving DecidableEq, Repr

/-- The rounding fields of a format table entry: RM, OVF (saturate) and TCAP (0 none) (R55, R57). -/
structure Rnd where
  rm  : RMode
  sat : Bool
  cap : Nat
deriving DecidableEq, Repr

/-- `rne` of R36: nearest even, overflow to infinity, no cap. -/
def Rnd.rne : Rnd := ⟨.rne, false, 0⟩

/-- The element formats that hold values (R39). -/
inductive Fmt where
  | ieee (ebits tbits : Nat)                  -- FP32, FP16, BF16 (R41)
  | b8 (p : Nat) (signed inf : Bool)          -- binary8 (R43)
  | int (w : Nat)                             -- two's complement (R42)
  | uint (w : Nat)                            -- unsigned (R42)
deriving DecidableEq, Repr

def Fmt.fp32 : Fmt := .ieee 8 23
def Fmt.fp16 : Fmt := .ieee 5 10
def Fmt.bf16 : Fmt := .ieee 8 7

/-- The value format that a format code names; none for a reserved code and for 0x30, 0x40 (R39, R40). -/
def fmtOf (c : BitVec 8) : Option Fmt :=
  match c.toNat with
  | 0x01 => some .fp32
  | 0x02 => some .fp16
  | 0x03 => some .bf16
  | 0x04 => some (.int 32)
  | 0x05 => some (.int 16)
  | 0x06 => some (.int 8)
  | 0x07 => some (.uint 8)
  | 0x08 => some (.int 4)
  | 0x09 => some (.uint 4)
  | n =>
    if 0x10 ≤ n ∧ n ≤ 0x2E ∧ n % 8 ≠ 7 then
      some (.b8 (n % 8 + 1) (n < 0x20) (n / 8 % 2 = 1))
    else none

/-- The width in bits of an element (R39). -/
def Fmt.width : Fmt → Nat
  | .ieee e t => 1 + e + t
  | .b8 _ _ _ => 8
  | .int w => w
  | .uint w => w

/-- The width in bits that a code gives an element; 8 for the scale byte, 0 where no width is given (R39). -/
def codeWidth (c : BitVec 8) : Nat :=
  match fmtOf c with
  | some f => f.width
  | none => if c = 0x30 then 8 else 0

/-- The code is known to R39 at all (not reserved). -/
def codeKnown (c : BitVec 8) : Bool := (fmtOf c).isSome || c == 0x30 || c == 0x40

/-- Array A column of R39: every value format but INT32. -/
def isAFmt (c : BitVec 8) : Bool := (fmtOf c).isSome && c != 0x04

/-- Array B column of R39 says yes (0x40 is storage only). -/
def isBFmt (c : BitVec 8) : Bool := isAFmt c

/-- Admitted as a vector type: 0x01 .. 0x09 and the binary8 codes (R39). -/
def isVecFmt (c : BitVec 8) : Bool := (fmtOf c).isSome

/-- A `.q` target: INT8, UINT8 and the binary8 codes (R39). -/
def isQFmt (c : BitVec 8) : Bool := c == 0x06 || c == 0x07 || ((fmtOf c).isSome && 0x10 ≤ c.toNat)

def Fmt.isFloat : Fmt → Bool
  | .ieee _ _ => true
  | .b8 _ _ _ => true
  | _ => false

def Fmt.isInt (f : Fmt) : Bool := !f.isFloat

/-- The precision P of a floating format (R47). -/
def Fmt.prec : Fmt → Nat
  | .ieee _ t => t + 1
  | .b8 p _ _ => p
  | .int w => w
  | .uint w => w

/-- The exponent bias: 2^(W-1) for binary8, 2^(ebits-1) - 1 for IEEE (R41, R43). -/
def Fmt.bias : Fmt → Int
  | .ieee e _ => (2 ^ (e - 1) - 1 : Nat)
  | .b8 p s _ => (2 ^ ((if s then 8 - p else 9 - p) - 1) : Nat)
  | _ => 0

/-- The exponent of the smallest normal (R47). -/
def Fmt.emin (f : Fmt) : Int := 1 - f.bias

/-- The code magnitude of the largest finite value: significand and exponent fields joined (R41, R44, R45). -/
def Fmt.maxMag : Fmt → Nat
  | .ieee e t => (2 ^ e - 1) * 2 ^ t - 1
  | .b8 _ true inf => if inf then 0x7E else 0x7F
  | .b8 _ false inf => if inf then 0xFD else 0xFE
  | .int w => 2 ^ (w - 1) - 1
  | .uint w => 2 ^ w - 1

/-- The value of a floating code magnitude (exponent and significand fields): significand integer and quantum
exponent (R43, R47). -/
def Fmt.magVal (f : Fmt) (mag : Nat) : Nat × Int :=
  let t := f.prec - 1
  let ex := mag / 2 ^ t
  let tr := mag % 2 ^ t
  if ex = 0 then (tr, f.emin - t) else (2 ^ t + tr, (ex : Int) - f.bias - t)

/-- The code magnitude of the value k x 2^q, where q is the quantum of its exponent and k < 2^P (R43). -/
def Fmt.magOf (f : Fmt) (k : Nat) (q : Int) : Nat :=
  let t := f.prec - 1
  if k < 2 ^ t then k
  else (q + f.bias + t).toNat * 2 ^ t + (k - 2 ^ t)

/-- The canonical NaN of a format; 0 for integers (R41, R47 step 1). -/
def Fmt.nanCode : Fmt → Nat
  | .ieee e t => (2 ^ e - 1) * 2 ^ t + 2 ^ (t - 1)
  | .b8 _ true _ => 0x80
  | .b8 _ false _ => 0xFF
  | _ => 0

/-- The bits of a sign and a finite code magnitude: zero of binary8 is 0x00 (R43, R47 step 6). -/
def Fmt.signed (f : Fmt) (neg : Bool) (mag : Nat) : Nat :=
  match f with
  | .ieee e t => (if neg then 2 ^ (e + t) else 0) + mag
  | .b8 _ true _ => if neg && mag ≠ 0 then 0x80 + mag else mag
  | _ => mag

/-- The bits of an infinity, where the format has one (R41, R43). -/
def Fmt.infCode (f : Fmt) (neg : Bool) : Nat :=
  match f with
  | .ieee e t => f.signed neg ((2 ^ e - 1) * 2 ^ t)
  | .b8 _ true _ => if neg then 0xFF else 0x7F
  | _ => 0xFE

def Fmt.hasInf : Fmt → Bool
  | .ieee _ _ => true
  | .b8 _ _ i => i
  | _ => false

/-- The value that w-bit contents c decode to (R41, R42, decode8 of R43). -/
def Fmt.decode (f : Fmt) (c : Nat) : Val :=
  match f with
  | .ieee e t =>
    let neg := c / 2 ^ (e + t) % 2 = 1
    let mag := c % 2 ^ (e + t)
    if mag = (2 ^ e - 1) * 2 ^ t then .inf neg
    else if mag > (2 ^ e - 1) * 2 ^ t then .nan
    else let v := f.magVal mag; .fin neg v.1 v.2
  | .b8 _ true inf =>
    if c = 0x80 then .nan
    else if inf && c = 0x7F then .inf false
    else if inf && c = 0xFF then .inf true
    else let v := f.magVal (c % 128); .fin (decide (c ≥ 128)) v.1 v.2
  | .b8 _ false inf =>
    if c = 0xFF then .nan
    else if inf && c = 0xFE then .inf false
    else let v := f.magVal c; .fin false v.1 v.2
  | .int w => if c ≥ 2 ^ (w - 1) then .fin true (2 ^ w - c) 0 else .fin false c 0
  | .uint _ => .fin false c 0

/-- The rounding step of R47 on the grid of multiples of 2^q: the chosen multiple of m x 2^e, and whether the value was
already on the grid. `draw` is the SR draw (R50); `p` is the precision, at which a carry out renormalises the significand (0 for integers). At
precision 1 no cap has an effect, Tmax being 1 (R54), and a tie between two powers of two, whose significands are both 1, goes to the even multiple
of the quantum, the larger power (DESIGN CHOICE, log 116). -/
def roundGrid (r : Rnd) (p : Nat) (neg : Bool) (m : Nat) (e q : Int) (draw : Nat) : Nat :=
  -- x = k + rem / den in units of 2^q
  let num := m * pow2 (e - q)
  let den := pow2 (q - e)
  let k := num / den
  let rem := num % den
  let capped := r.cap ≠ 0 ∧ p ≠ 1
  let b := capBounds r.cap k
  let b' := capBounds r.cap (k + 1)
  let lo := if capped then b.1 else k
  let hi := if capped then
      (if rem = 0 ∧ b.1 = k then k else if rem = 0 then b.2.getD k else b'.2.getD (k + 1))
    else if rem = 0 then k else k + 1
  if lo = hi then lo
  else
    let dlo := num - lo * den          -- distance to lo, in units of 2^q / den
    let dhi := hi * den - num
    match r.rm with
    | .rtz => lo
    | .rup => if neg then lo else hi
    | .rdn => if neg then hi else lo
    | .sr =>
      let span := (hi - lo) * den
      -- phi measures from the lower real neighbour
      if neg then (if draw < dhi * 65536 / span then lo else hi)
      else (if draw < dlo * 65536 / span then hi else lo)
    | .rne =>
      if dlo < dhi then lo
      else if dhi < dlo then hi
      else if capped then
        let tl := nafWeight lo
        let th := nafWeight hi
        if tl < th then lo else if th < tl then hi
        else
          let zl := trailZerosF 64 lo
          let zh := trailZerosF 64 hi - (if p ≠ 0 ∧ hi = 2 ^ p then 1 else 0)
          if zl > zh then lo else if zh > zl then hi else lo
      else if lo % 2 = 0 then lo else hi

/-- The contents of the largest finite magnitude under the cap (M or Mc of R47 step 5, R54). -/
def Fmt.maxVal (f : Fmt) (cap : Nat) : Nat × Int :=
  let v := f.magVal f.maxMag
  if cap = 0 then v else ((capBounds cap v.1).1, v.2)

/-- Puts a rounded magnitude k x 2^q into normal position: k < 2^P with q its quantum (a carry out moves the
exponent). -/
def normMag (p : Nat) (k : Nat) (q : Int) : Nat × Int :=
  if k = 2 ^ p then (2 ^ (p - 1), q + 1) else (k, q)

/-- k1 x 2^q1 > k2 x 2^q2. -/
def magGt (k1 : Nat) (q1 : Int) (k2 : Nat) (q2 : Int) : Bool :=
  decide (k1 * pow2 (q1 - q2) > k2 * pow2 (q2 - q1))

/-- The result of R48 for an overflowing or infinite value of sign `neg`: whether an infinity (else plus or minus M)
is asked for. -/
def overflowToInf (r : Rnd) (neg isInf : Bool) : Bool :=
  if r.sat then false
  else if isInf then true
  else match r.rm with
    | .rne => true
    | .sr => true
    | .rtz => false
    | .rup => !neg
    | .rdn => neg

/-- The contents that R48 and R47 step 7 give an overflow: M, an infinity, or NaN. -/
def Fmt.overflow (f : Fmt) (r : Rnd) (neg isInf : Bool) : Nat :=
  let m := f.maxVal r.cap
  match f with
  | .b8 _ false _ =>
    if neg then (if r.sat then 0x00 else 0xFF)
    else if overflowToInf r neg isInf then (if f.hasInf then f.infCode neg else f.nanCode)
    else f.magOf m.1 m.2
  | _ =>
    if overflowToInf r neg isInf then (if f.hasInf then f.infCode neg else f.nanCode)
    else f.signed neg (f.magOf m.1 m.2)

/-- The w-bit contents of an integer (R42). -/
def intBits (w : Nat) (x : Int) : Nat := (x % (2 ^ w : Nat)).toNat

/-- The range of an integer format (R49). -/
def Fmt.intRange : Fmt → Int × Int
  | .int w => (-(2 ^ (w - 1) : Nat), (2 ^ (w - 1) : Nat) - 1)
  | .uint w => (0, (2 ^ w : Nat) - 1)
  | _ => (0, 0)

/-- Clamps an exact integer to an integer format's range and gives its contents (R49). -/
def Fmt.clampInt (f : Fmt) (x : Int) : Nat :=
  let (lo, hi) := f.intRange
  intBits f.width (if x < lo then lo else if x > hi then hi else x)

/-- R49: rounds to an integer in the mode, then clamps; infinities clamp to the ends and NaN gives 0. A term cap
restricts the grid of integers (R54; DEDUCED, log 10). -/
def Fmt.rndInt (f : Fmt) (r : Rnd) (draw : Nat) : Val → Nat
  | .nan => 0
  | .inf neg => let (lo, hi) := f.intRange; intBits f.width (if neg then lo else hi)
  | .fin neg m e =>
    let k := roundGrid r 0 neg m e 0 draw
    let x : Int := if neg then -(k : Int) else k
    let (lo, hi) := f.intRange
    let clamped := if x < lo then lo else if x > hi then hi else x
    let c := if r.cap ≠ 0 ∧ clamped ≠ x then
        (let a := (capBounds r.cap clamped.natAbs).1; if clamped < 0 then -(a : Int) else a)
      else clamped
    intBits f.width c

/-- `rnd(mode, f, x)` of R47: the contents of x rounded to format f. -/
def Fmt.rnd (f : Fmt) (r : Rnd) (draw : Nat) (x : Val) : Nat :=
  if f.isInt then f.rndInt r draw x
  else match x with
  | .nan => f.nanCode
  | .inf neg => f.overflow r neg true
  | .fin neg m e =>
    if m = 0 then f.signed neg 0
    else
      let p := f.prec
      let ex := e + bitLen m - 1
      let q := max ex f.emin - p + 1
      let k := roundGrid r p neg m e q draw
      let (k, q) := normMag p k q
      let mx := f.maxVal r.cap
      if magGt k q mx.1 mx.2 then f.overflow r neg false
      else if k = 0 then f.signed neg 0
      else match f with
        | .b8 _ false _ => if neg then (if r.sat then 0x00 else 0xFF) else f.magOf k q
        | _ => f.signed neg (f.magOf k q)

/-- `rne(x)` of R36 as FP32 bits. -/
def rneF32 (x : Val) : Lane := BitVec.ofNat 32 (Fmt.fp32.rnd Rnd.rne 0 x)

/-- The value of FP32 bits. -/
def f32Val (x : Lane) : Val := Fmt.fp32.decode x.toNat

/-! Exact arithmetic on values (IEEE 754 special cases; R36, R61). -/

def Val.neg : Val → Val
  | .nan => .nan
  | .inf s => .inf !s
  | .fin s m e => .fin (!s) m e

def Val.abs : Val → Val
  | .nan => .nan
  | .inf _ => .inf false
  | .fin _ m e => .fin false m e

def Val.isZero : Val → Bool
  | .fin _ 0 _ => true
  | _ => false

def Val.isNan : Val → Bool
  | .nan => true
  | _ => false

def Val.isInf : Val → Bool
  | .inf _ => true
  | _ => false

def Val.isNeg : Val → Bool
  | .nan => false
  | .inf s => s
  | .fin s _ _ => s

/-- A finite value as an exact integer multiple of 2^q (q at or below its exponent). -/
def scaled (neg : Bool) (m : Nat) (e q : Int) : Int :=
  let k : Int := (m * pow2 (e - q) : Nat)
  if neg then -k else k

/-- Exact sum; a zero sum of operands of unlike sign is +0 (IEEE nearest); equal signs keep the sign. -/
def Val.add : Val → Val → Val
  | .nan, _ => .nan
  | _, .nan => .nan
  | .inf a, .inf b => if a = b then .inf a else .nan
  | .inf a, _ => .inf a
  | _, .inf b => .inf b
  | .fin sa ma ea, .fin sb mb eb =>
    if ma = 0 ∧ mb = 0 then .fin (sa && sb) 0 0
    else
      let q := min ea eb
      let x := scaled sa ma ea q + scaled sb mb eb q
      .fin (decide (x < 0)) x.natAbs q

def Val.sub (a b : Val) : Val := a.add b.neg

/-- Exact product; infinity times zero is NaN. -/
def Val.mul : Val → Val → Val
  | .nan, _ => .nan
  | _, .nan => .nan
  | .inf a, .inf b => .inf (a != b)
  | .inf a, .fin sb mb _ => if mb = 0 then .nan else .inf (a != sb)
  | .fin sa ma _, .inf b => if ma = 0 then .nan else .inf (sa != b)
  | .fin sa ma ea, .fin sb mb eb => .fin (sa != sb) (ma * mb) (ea + eb)

/-- Scaling by a power of two, exact (R46). -/
def Val.scale (x : Val) (k : Int) : Val :=
  match x with
  | .fin s m e => .fin s m (e + k)
  | v => v

/-- A value whose low bit is sticky: n parts of 2^e, with one more bit below that is set when inexact. Rounding any mode
at least two bits above it gives what the exact value gives. -/
def sticky (neg : Bool) (n : Nat) (inexact : Bool) (e : Int) : Val :=
  .fin neg (2 * n + (if inexact then 1 else 0)) (e - 1)

/-- The quotient a / b with a sticky bit below at least 96 quotient bits; 0/0 and inf/inf are NaN, x/0 an infinity. -/
def Val.div : Val → Val → Val
  | .nan, _ => .nan
  | _, .nan => .nan
  | .inf _, .inf _ => .nan
  | .inf a, .fin sb _ _ => .inf (a != sb)
  | .fin sa _ _, .inf b => .fin (sa != b) 0 0
  | .fin sa ma ea, .fin sb mb eb =>
    if mb = 0 then (if ma = 0 then .nan else .inf (sa != sb))
    else if ma = 0 then .fin (sa != sb) 0 0
    else
      let sh := 96 + bitLen mb
      let n := ma * 2 ^ sh
      sticky (sa != sb) (n / mb) (n % mb ≠ 0) (ea - eb - (sh : Nat))

/-- The integer square root by bits from bit i down. -/
def isqrtF : Nat → Nat → Nat → Nat
  | 0, n, r => if (r + 1) * (r + 1) ≤ n then r + 1 else r
  | i + 1, n, r =>
    let c := r + 2 ^ (i + 1)
    isqrtF i n (if c * c ≤ n then c else r)

/-- The integer square root of n. -/
def isqrt (n : Nat) : Nat := isqrtF (bitLen n / 2 + 1) n 0

/-- The square root with a sticky bit; negative non-zero values give NaN, and -0 gives -0 (R147). -/
def Val.sqrt : Val → Val
  | .nan => .nan
  | .inf s => if s then .nan else .inf false
  | .fin s m e =>
    if m = 0 then .fin s 0 0
    else if s then .nan
    else
      -- an even exponent and at least 128 root bits
      let e' := e - 256
      let sh : Nat := if e' % 2 = 0 then 256 else 257
      let n := m * 2 ^ sh
      let e'' := e - (sh : Int)
      let r := isqrt n
      sticky false r (r * r ≠ n) (e'' / 2)

/-- An ordering of values, with -0 below +0 when `zeros` is set: a < b. NaN never compares. -/
def Val.lt (zeros : Bool) : Val → Val → Bool
  | .nan, _ => false
  | _, .nan => false
  | .inf a, .inf b => a && !b
  | .inf a, _ => a
  | _, .inf b => !b
  | .fin sa ma ea, .fin sb mb eb =>
    if ma = 0 ∧ mb = 0 then zeros && sa && !sb
    else
      let q := min ea eb
      decide (scaled sa ma ea q < scaled sb mb eb q)

/-- Numerical equality; -0 equals +0, and NaN equals nothing. -/
def Val.eq (a b : Val) : Bool := !a.isNan && !b.isNan && !Val.lt false a b && !Val.lt false b a

/-- Minimum with -0 below +0; NaN if either is NaN (R146). -/
def Val.min (a b : Val) : Val := if a.isNan || b.isNan then .nan else if Val.lt true b a then b else a

/-- Maximum with -0 below +0; NaN if either is NaN (R146). -/
def Val.max (a b : Val) : Val := if a.isNan || b.isNan then .nan else if Val.lt true a b then b else a

/-- The term count of contents c in format f (R52): NaN and infinities have one term. -/
def Fmt.terms (f : Fmt) (c : Nat) : Nat :=
  match f.decode c with
  | .nan => 1
  | .inf _ => 1
  | .fin _ m _ => nafWeight m

/-- The greatest term count of a B format (R53). -/
def Fmt.tmax : Fmt → Nat
  | .ieee 8 23 => 13
  | .ieee 5 10 => 6
  | .ieee _ _ => 5
  | .int 16 => 8
  | .int 8 => 4
  | .int _ => 2
  | .uint 8 => 5
  | .uint _ => 3
  | .b8 1 _ _ => 1
  | .b8 2 _ _ => 2
  | .b8 3 _ _ => 2
  | .b8 4 _ _ => 3
  | .b8 5 _ _ => 3
  | .b8 _ _ _ => 4

/-- The floor of an exact finite value, as an integer. -/
def floorVal (neg : Bool) (m : Nat) (e : Int) : Int :=
  let n := m * pow2 e
  let d := pow2 (-e)
  if neg then -((n + d - 1) / d : Nat) else (n / d : Nat)

/-- A scale byte as a factor exponent; 0xFF is NaN (R46). -/
def scaleOf (b : BitVec 8) : Option Int := if b = 0xFF then none else some ((b.toNat : Int) - 127)

/-- An element's value times its block's factor; a NaN factor makes it NaN (R46, R58). -/
def scaleVal (x : Val) (b : BitVec 8) : Val :=
  match scaleOf b with
  | none => .nan
  | some k => x.scale k

/-- `rne(acc + a x b)` in FP32, the fused step of the array and the factorisations (R60, R63). -/
def fmaF32 (acc : Lane) (a b : Val) : Lane := rneF32 ((f32Val acc).add (a.mul b))

def addF32 (a b : Lane) : Lane := rneF32 ((f32Val a).add (f32Val b))
def mulF32 (a b : Lane) : Lane := rneF32 ((f32Val a).mul (f32Val b))
def divF32 (a b : Lane) : Lane := rneF32 ((f32Val a).div (f32Val b))

end Sys2Proof.Machine
end

