-- ==== Sys2Proof/Machine/Sparse.lean ====
section
/-! DEFINITION. Sparse tables in one canonical form: a list of (key, value) pairs with keys strictly rising and no value
equal to the default that an unlisted key reads as. Memories and register tables are such lists. -/

namespace Sys2Proof.Machine

/-- The value at key k; the default d where nothing is listed. -/
def spGet {α : Type} (d : α) : List (Nat × α) → Nat → α
  | [], _ => d
  | (a, v) :: l, k => if a = k then v else if k < a then d else spGet d l k

/-- Writes v at key k, keeping the canonical form: writing the default removes the entry. -/
def spSet {α : Type} [DecidableEq α] (d : α) : List (Nat × α) → Nat → α → List (Nat × α)
  | [], k, v => if v = d then [] else [(k, v)]
  | (a, w) :: l, k, v =>
    if k < a then (if v = d then (a, w) :: l else (k, v) :: (a, w) :: l)
    else if k = a then (if v = d then l else (k, v) :: l)
    else (a, w) :: spSet d l k v

/-- Every key of the list is above k. -/
def spAbove {α : Type} (k : Nat) : List (Nat × α) → Bool
  | [] => true
  | (a, _) :: l => decide (k < a) && spAbove k l

/-- The canonical form: keys strictly rising, no default listed. -/
def spWf {α : Type} [DecidableEq α] (d : α) : List (Nat × α) → Bool
  | [] => true
  | (a, v) :: l => decide (v ≠ d) && spAbove a l && spWf d l

/-- A byte memory: an unlisted byte reads as 0 (log 3). -/
abbrev Mem := List (Nat × BitVec 8)

/-- One byte of a memory. -/
def Mem.get (m : Mem) (a : Nat) : Byte := spGet 0 m a

/-- Writes one byte. -/
def Mem.set (m : Mem) (a : Nat) (b : Byte) : Mem := spSet 0 m a b

/-- The canonical form of a memory. -/
def Mem.wf (m : Mem) : Bool := spWf 0 m

/-- The n bytes at a, little-endian, as one number (R36). -/
def Mem.read (m : Mem) (a : Nat) : Nat → Nat
  | 0 => 0
  | n + 1 => (m.get a).toNat + 256 * Mem.read m (a + 1) n

/-- Writes the n low bytes of x at a, little-endian (R36). -/
def Mem.write (m : Mem) (a : Nat) (x : Nat) : Nat → Mem
  | 0 => m
  | n + 1 => Mem.write (m.set a (BitVec.ofNat 8 x)) (a + 1) (x / 256) n

/-- Fills n bytes at a with zero. -/
def Mem.clear (m : Mem) (a n : Nat) : Mem := m.filter (fun c => c.1 < a || a + n ≤ c.1)

/-- Memory with n bytes from a on given by a function of the address. -/
def Mem.lay (m : Mem) (a n : Nat) (f : Nat → BitVec 8) : Mem :=
  m.filter (fun c => c.1 < a) ++ ((List.range n).map (fun i => (a + i, f (a + i)))).filter (fun c => c.2 != 0) ++ m.filter (fun c => a + n ≤ c.1)

/-- A table of 64-bit registers by number; an unlisted one reads as 0. -/
abbrev Regs := List (Nat × BitVec 64)

def Regs.get (r : Regs) (a : Nat) : Word := spGet 0 r a
def Regs.set (r : Regs) (a : Nat) (v : Word) : Regs := spSet 0 r a v
def Regs.wf (r : Regs) : Bool := spWf 0 r

/-- A set of naturals as a strictly rising list. -/
abbrev NSet := List Nat

def NSet.has (s : NSet) (k : Nat) : Bool := s.contains k

def NSet.insert : NSet → Nat → NSet
  | [], k => [k]
  | a :: l, k => if k < a then k :: a :: l else if k = a then a :: l else a :: NSet.insert l k

def NSet.erase (s : NSet) (k : Nat) : NSet := s.filter (· != k)

end Sys2Proof.Machine
end

