-- ==== Sys2Proof/Machine/State.lean ====
section
/-! DEFINITION. The state of the part as plain data (R11, R14, R28, R295 and the tables of chapters 13, 14, 19, 20, 22),
the reasons a step can stop, and the state after reset. INVENTORY.md lists every field with its rule and reset value. -/

namespace Sys2Proof.Machine

/-- Why a step stops with a fault. No meaning of this model raises one: every trap of the manual is a next state. -/
inductive Fault where
  /-- Raised by no definition; the type needs one constructor. Safe. -/
  | none
deriving DecidableEq, Repr

/-- Why a step is refused. -/
inductive Refusal where
  /-- Raised by the dispatcher for an instruction that has no meaning in the model. Safe. -/
  | notModelled (mnemonic : String)
deriving DecidableEq, Repr

/-- The cause codes of R369. -/
inductive Cause where
  | illegalBundle | priv | extentMiss | extentPerm | misalign | poison | memrace | zeroPivot | notPd | divZero
  | handle | regionAlloc | hemEscalated | cinchEscalated | ueEscalated | watch | break_ | step | watchdog
  | matrixInHandler | extentOverflow | shape | record | kernelMissing | vbcFetch | vbcIllegal | stack
  | signalAccess | format | saveIntegrity | fatalHw
deriving DecidableEq, Repr

/-- The code of a cause (R369). -/
def Cause.code : Cause → BitVec 8
  | .illegalBundle => 0x01 | .priv => 0x02 | .extentMiss => 0x03 | .extentPerm => 0x04 | .misalign => 0x05
  | .poison => 0x06 | .memrace => 0x07 | .zeroPivot => 0x08 | .notPd => 0x09 | .divZero => 0x0A | .handle => 0x0B
  | .regionAlloc => 0x0C | .hemEscalated => 0x0D | .cinchEscalated => 0x0E | .ueEscalated => 0x0F | .watch => 0x10
  | .break_ => 0x11 | .step => 0x12 | .watchdog => 0x13 | .matrixInHandler => 0x14 | .extentOverflow => 0x15
  | .shape => 0x16 | .record => 0x17 | .kernelMissing => 0x18 | .vbcFetch => 0x19 | .vbcIllegal => 0x1A
  | .stack => 0x1B | .signalAccess => 0x1C | .format => 0x1D | .saveIntegrity => 0x1E | .fatalHw => 0x1F

/-- A trap as a meaning reports it: cause, TRAP.INFO, the slot (none for the header or no slot), the ring and the tensor
handle involved, whether it is asynchronous (R367 to R371), for a watch match the records it appends with their HALT
bits (R413), the phase of the command that raised it (R379), the virtual address whose walk it leaves behind (R331), and the kind and address of
the refused request that ends with it (R431), and the access to a doorbell line that it counts: address, bytes, right (R430, R433). -/
structure Trap where
  cause  : Cause
  info   : Word
  slot   : Option (BitVec 2)
  ring   : Option (BitVec 4)
  tensor : Option (BitVec 8)
  async  : Bool
  note   : List (List Byte × Bool)
  phase  : Option Nat := none
  walk   : Option Nat := none
  refused : Option (BitVec 4 × Nat) := none
  door   : Option (Nat × Nat × Nat) := none
deriving DecidableEq, Repr

/-- Where a fixed-latency result goes, and the result (R81, R405). A vector result writes the bits of `msk`. -/
inductive Dest where
  | s (r : BitVec 6) (v : Word) (psn : Bool)
  | p (r : BitVec 4) (v : Bool)
  | m (r : BitVec 3) (v : Word)
  | v (r : BitVec 6) (val msk : Lanes) (psn : BitVec 64)
deriving DecidableEq, Repr

/-- A result in flight with its position, 1 being the next bundle to issue (R374), and its place in the unit's issue order (R82). -/
structure Flight where
  pos : Nat
  dst : Dest
  at_ : Nat := 0
deriving DecidableEq, Repr

/-- An outstanding LD, LD.S, AMO or CAS: destination, the value to deliver, and whether it was issued by a handler
(so that s56 .. s63 name its bank) (R83, R17), and its place in the unit's issue order (R82). -/
structure Outst where
  d    : BitVec 6
  val  : Word
  psn  : Bool
  hnd  : Bool
  at_  : Nat := 0
deriving DecidableEq, Repr

/-- The scalar front that a tile core and an expansion routine share (R14, R294); `nb` counts the bundles that issued, which orders their results
(R82). -/
structure Front where
  s    : Vector Word 64
  sp   : BitVec 64
  p    : BitVec 16
  img  : BitVec 16
  pc   : Nat
  rtn  : Nat
  scyc : Word
  ret  : List Nat
  fl   : List Flight
  outs : List Outst
  nb   : Nat := 0
deriving DecidableEq, Repr

/-- A ring handle with its side state: slots consumed and produced by the core in the open phase (R124), slots wholly written and
wholly read ahead of the engine index (R194), the loop offset (R102), and how many slots PROD and CONS have stepped past, from which the place of a
command's slots is counted (R194). -/
structure Ring where
  h     : Word
  pendC : Nat
  pendP : Nat
  doneW : NSet
  doneR : NSet
  lofs  : Nat
  adP   : Nat := 0
  adC   : Nat := 0
deriving DecidableEq, Repr

/-- What a bundle does once all its slots have issued: a system register write (R35), a loop start (R103), a new cinch segment (R110), a commit (R107), the end of an SSTEP (R137), the end or
succession of the task (R105), a return from a handler (R99), the end of an expansion routine (R224), a pre-emption stop
(R108). -/
inductive Post where
  | none
  | swr (n : Nat) (v : Word)
  | mark (n m : Nat)
  | cinch
  | phase
  | sstep
  | exit (k : BitVec 2) (target : Nat)
  | hret (skip : Bool)
  | opend (k : BitVec 2)
  | stop (live : BitVec 16)
deriving DecidableEq, Repr

/-- A request to a peer or the host (R424, R426, R431): who waits for it, destination, line or word address, kind (0 read, 1 write, 2
atomic, 3 an engine's read), operation, size, tick of sending, invocation, byte mask (of an engine's read, the command's number) and data (the reply once
answered), whether it is blocked, its state (0 waiting, 1 answered, 2 refused), refusal reason, the timeout in force when it left, whether it still waits at the
source for a change of route or for room in the port's buffer (with `blocked`: for good), whether nobody waits for it any more, whether a handler's bundle sent it, and the
handle of the extent that granted it (R371). -/
structure FReq where
  unit  : UnitId
  dev   : BitVec 12
  addr  : Nat
  kind  : BitVec 4
  op    : BitVec 4
  n     : Nat
  tick  : Nat
  uid   : Nat
  osq   : Fin 16
  mask  : BitVec 64
  data  : BitVec 512
  blocked : Bool
  st    : BitVec 2
  reason : BitVec 2
  lim    : Nat := 0
  held   : Bool := false
  gone   : Bool := false
  hm     : Bool := false
  hnd    : Option (BitVec 8) := none
deriving DecidableEq, Repr

/-- The issue latch of the bundle in hand: whether slots are being issued as a bundle, the trap or stall a slot reported
(the stall with its reason of R411 and detail, and the request it sends), the transfer it asked for, what it does after the bundle, the handles and
the outstanding loads as they stood at issue (R82, R83), the phase the bundle belongs to, and the number of its first beat-queue entry or command. -/
structure Issue where
  bundle : Bool
  trap   : Option Trap
  stall  : Option (BitVec 8 × BitVec 8)
  send   : Option (FReq × Bool)
  next   : Option Nat
  post   : Post
  rings0 : Option (Vector Ring 16)
  outs0  : Option (List Outst)
  phase0 : Option Nat
  seq0   : Option Nat := none
deriving DecidableEq, Repr

/-- A stride binding: level, target (a scalar or a ring), stride (R101). -/
structure Binding where
  lvl    : Nat
  ring   : Bool
  tgt    : Nat
  stride : Word
deriving DecidableEq, Repr

/-- A running loop-buffer nest (R103): first body bundle, body length, levels, trips, bindings with their bases. -/
structure Nest where
  start : Nat
  n     : Nat
  m     : Nat
  trip  : List Nat
  binds : List (Binding × Word)
  first : Bool
deriving DecidableEq, Repr

/-- Loop state (R14, R100 to R103). -/
structure Loops where
  lc    : Vector (BitVec 32) 6
  trips : List Nat
  binds : List Binding
  run   : Option Nest
deriving DecidableEq, Repr

/-- A weight plane: values as element codes b[k][j] (row k, column j), the kept format, scale mode and cap, the block scale
bytes of each column, term counts, hem column (R58, R167, R171, R175). -/
structure Plane where
  vals  : Vector (Vector (BitVec 32) 128) 128
  fmt   : BitVec 8
  scB   : Bool
  cap   : Nat
  scl   : Vector (BitVec 32) 128
  tg    : Vector Nat 8
  terms : Vector Nat 8
  hem   : Vector Lane 128
deriving DecidableEq, Repr

/-- The hem state of a tile (R175): column, row, valid bits, whether an epoch is open and its mode, OVR, rows written in the epoch. -/
structure Hem where
  col   : Vector Lane 128
  row   : Vector Lane 128
  valid : BitVec 128
  epoch : Option (BitVec 2)
  ovr   : Bool
  hit   : BitVec 128
deriving DecidableEq, Repr

/-- What an M-slot entry does, with the operands read at issue (R164 to R178). -/
inductive MOp where
  | mldw (off : Nat) (fmt : BitVec 8) (scB : Bool) (cap : Nat)
  | mswap
  | mpush (h : BitVec 4) (slot : Nat) (t : Bool) (row : Nat) (acc : Bool) (fmt : BitVec 8) (scA : Bool)
  | mdrain (h : BitVec 4) (slot : Nat) (t : Bool) (row rows : Nat) (ft : Word)
  | mzero (t : Bool)
  | mhem (mode : BitVec 2)
  | mtclr (mask : BitVec 9)
  | fact (op : BitVec 3) (t : Bool) (n c : Nat) (low unit trn : Bool) (h : BitVec 4) (slot : Nat)
  | mperm (t : Bool)
deriving DecidableEq, Repr

/-- A beat-queue entry: its operation, whether it started (a factorisation) or a core advance passed its slot (R166), the phase it was
issued in, whether its asynchronous failure has been reported, its place in the core's issue order (R164, R190). -/
structure MEnt where
  op    : MOp
  run   : Bool
  phase : Nat
  fail  : Bool
  seq   : Nat
deriving DecidableEq, Repr

/-- The running factorisation (R178, R186, R189): the replacement that MRES gave for the step to come, whether MRES resumed it in the
handler that runs, whether it stops at the next step boundary (R190), whether MQR's tau slot has been free (R181). -/
structure Fact where
  repl : Option Lane
  hres : Bool
  halt : Bool
  free : Bool
deriving DecidableEq, Repr

/-- The array of a core (R14, R164). -/
structure MArr where
  tiles : Vector Tile 2
  cur   : Plane
  back  : Plane
  perm  : Vector (BitVec 8) 128
  g     : Lane
  fs    : Word
  termc : Vector (BitVec 48) 8
  beatc : Word
  queue : List MEnt
  fact  : Option Fact
  hmode : BitVec 2
  hems  : Vector Hem 2
  hstat : Word
deriving DecidableEq, Repr

/-- An engine command's operation (R198): the X-slot opcode and FN, handles with physical first slots and effective offsets, operands read at issue, and
the format table entry in force at issue; `at1` and `at2` place its first slots in the count of slots that their sides have stepped past. -/
structure Cmd where
  op    : BitVec 8
  fn    : BitVec 4
  h     : BitVec 4
  slot  : Nat
  eff   : Nat
  h2    : BitVec 4
  slot2 : Nat
  eff2  : Nat
  a     : Word
  b     : Word
  c     : Word
  imm   : Nat
  fmt   : BitVec 8
  tag   : BitVec 4
  ft    : Word
  phase : Nat
  seq   : Nat
  pc    : Nat
  scyc  : Word
  ss    : Nat
  -- progress
  run   : Bool
  unit  : Nat
  moved : Nat
  fin   : Bool
  acc   : Mem
  got   : Nat
  at1   : Nat := 0
  at2   : Nat := 0
deriving DecidableEq, Repr

/-- A refetch descriptor of a phased ring's slot (R380), with the fields of the handle that place its slots. -/
structure Refetch where
  h    : BitVec 4
  geo  : Word
  slot : Nat
  cmd  : Cmd
  unit : Nat
deriving DecidableEq, Repr

/-- The engines of a core (R192): queue, classes, completion counts of R196, and a watch match that stops the copy engine (R413): whether
it has reached the core, the watchpoint, the bytes matched. -/
structure Engines where
  queue : List Cmd
  cls   : Vector (List Cmd) 9
  ntag  : Vector Nat 16
  watch : Option (Bool × BitVec 2 × BitVec 16)
deriving DecidableEq, Repr

/-- A phase store buffer entry: physical line, byte mask, bytes, virtual line (R118). -/
structure SbEnt where
  line : Nat
  mask : BitVec 64
  data : BitVec 512
  va   : Nat
  ilv  : Nat
deriving DecidableEq, Repr

/-- An update partial: physical word, fold, size in bytes, value, virtual address, and whether it was moved into the store buffer (R130). -/
structure Upd where
  word : Nat
  op   : BitVec 4
  n    : Nat
  val  : Nat
  va   : Nat
  ilv  : Nat
  inSb : Bool
deriving DecidableEq, Repr

/-- A checkpoint (R107). -/
structure Ckpt where
  pc    : Nat
  rtn   : Nat
  s     : Vector Word 64
  sp    : BitVec 64
  fl    : List Flight
  rings : Vector Ring 16
  loops : Loops
deriving DecidableEq, Repr

/-- The open phase (R107, R118, R130, R203, R381): its number, store buffer, update partials, enrolled cloaks, back-copy bytes landed,
checkpoint, attempts, irrevocability, whether it has met a cinch (bit 0) and a hem (bit 1) mismatch (R415). -/
structure Phase where
  num    : Nat
  sb     : List SbEnt
  upds   : List Upd
  enrol  : List Nat
  landed : List (Nat × Nat)
  races  : List Trap
  ckpt   : Ckpt
  att    : Nat
  irrev  : Bool
  fired  : BitVec 2
  refetch : List Refetch
  redo   : List Refetch
deriving DecidableEq, Repr

/-- What a handler saved (R372, R374): the trapping bundle, the task's routine, its in-flight results, the stack depth at
entry, and the task's bank of s56 .. s63. -/
structure HSave where
  pc    : Nat
  rtn   : Nat
  fl    : List Flight
  depth : Nat
  bank  : Vector Word 8
  bankp : BitVec 8
deriving DecidableEq, Repr

/-- The task on a core (R309, R313): sequencer, invocation, record, ordinal, ordinals left after this one, indices, whether parked
in place by a shootdown, frozen by a hard pre-emption, stopping at a PREEMPT with its live mask, ending at an EXIT, the superstep in which
it has arrived, the refresh groups that a task of a built-in kernel has been through (R325). -/
structure Task where
  osq   : Fin 16
  inv   : Nat
  wrec  : Nat
  ord   : Nat
  left  : Nat
  idx   : List Nat
  entry : Nat
  parked : Bool
  frozen : Bool
  stopping : Option (BitVec 16)
  exiting : Bool
  arrived : Option Nat
  ws : BitVec 16 := 0
deriving DecidableEq, Repr

/-- The debug block of a core (R401 to R411): DBG.CTL, DBG.STAT, the cause of the stop that the core resumed from with the pc, SCYC and mode of the bundle
B that has yet to issue (R406, R407), step mode, the interlock
trace with the run of stalled clocks in hand, the other registers by their offset, the tick of the stop, the ticks a standing request for
pre-emption spent stopped (R403), the sampling exponent in force (R409), the stop-window words that await resume by save-area offset, a stop that the
halter asked for and that the core's next bundle meets (R416), the tick of the last sample. -/
structure Dbg where
  ctl   : Word
  stat  : Word
  supp  : Option (BitVec 8 × Nat × Word × Bool)
  step  : Bool
  trace : Bool
  run   : Nat
  why   : BitVec 8 × BitVec 8
  shadow : Regs
  since  : Nat
  lost   : Nat
  sper   : Nat
  win    : List (Nat × Word)
  halt   : Bool
  last   : Nat := 0
deriving DecidableEq, Repr

/-- A line of memory as it stood before a write that comes after the reads of the engine commands numbered below `seq`: those that have yet to read it
read this (R347, R350, R353). -/
structure OldLine where
  seq  : Nat
  line : Nat
  img  : BitVec 512
deriving DecidableEq, Repr

/-- A tile core (R14, R28). `gon`: the first bundle of its routine has issued, so GCLK counts (R410). -/
structure Core where
  fr     : Front
  v      : Vector Lanes 64
  vp     : Vector (BitVec 64) 64
  m      : Vector Word 8
  rings  : Vector Ring 16
  e      : Vector (BitVec 128) 16
  eop    : List Nat
  k      : Vector Word 8
  loops  : Loops
  arr    : MArr
  mbox   : Vector Word 8
  gclk   : Word
  gon    : Bool := false
  ft     : Vector Word 16
  ftab   : Vector (List Byte) 4
  bins   : Vector (BitVec 32) 256
  binOut : BitVec 32
  scr    : Mem
  marks  : NSet
  wbuf   : Mem
  eng    : Engines
  ph     : Phase
  hs     : Option HSave
  held   : List Trap
  async  : List Trap
  sys    : Regs
  mode   : Word
  task   : Option Task
  idle   : Nat
  gens   : List (Nat × Nat × Nat)
  gran   : List (Nat × BitVec 16)
  sk     : List (Nat × Option (BitVec 512))
  l1     : List (Nat × List Nat)
  cinchN : Nat
  cinchC : BitVec 32
  dbg    : Dbg
  snap   : Regs
  tilectx : BitVec 16
  revoked : Bool
  issued : Nat
  lastInv : Nat × Nat
  wper   : Nat
  old    : List OldLine := []
deriving DecidableEq, Repr

/-- A saved task (R384 to R387): its core save area, whether it is a soft save with the state named live, and the core as saved. -/
structure Saved where
  area : Nat
  soft : Bool
  live : BitVec 16
  k    : Core
deriving DecidableEq, Repr

/-- A fault that strikes while its context is dumped: cause, core, timebase, and the slots of the contexts that it strikes (R392). -/
structure Strike where
  cause : BitVec 8
  core  : Option (BitVec 9)
  tb    : Word
  slots : List (BitVec 6) := []
deriving DecidableEq, Repr

/-- A shootdown that has been broadcast, with the clusters that have acknowledged it (R340). -/
structure Shoot where
  slot : BitVec 6
  va   : Nat
  len  : Nat
  acks : BitVec 40
deriving DecidableEq, Repr

/-- A tensor shape record as cached (R231). -/
structure TRec where
  base  : Nat
  fmt   : BitVec 8
  rank  : Nat
  scl   : Bool
  shd   : Bool
  ro    : Bool
  dim   : List Nat
  str   : List Int
  sbase : Nat
  mesh  : Nat
  axis  : Nat
  index : Nat
  count : Nat
deriving DecidableEq, Repr

/-- A bound handle: record address (none for a view), root handle, cache, owned allocation (R233, R236, R237). -/
structure THnd where
  addr : Option Nat
  root : Nat
  tr   : TRec
  own  : Option (Nat × Nat)
deriving DecidableEq, Repr

/-- A latch entry (R214): 0 idle, 1 armed, 2 latched. -/
structure Latch where
  st  : BitVec 2
  n   : Nat
  got : Nat
  cnt : Vector (BitVec 32) 256
  pre : Vector (BitVec 32) 256
  out : BitVec 32
deriving DecidableEq, Repr

/-- An operand of an invocation (R257, R295): handle, root, role (0 input, 1 output, 2 in place), captured record, published. -/
structure Opnd where
  hnd  : BitVec 8
  root : Nat
  role : BitVec 2
  tr   : TRec
  pub  : Bool
deriving DecidableEq, Repr

/-- An operator form as decoded (R256, R257, R295): the instruction, its VPC, opcode and OPX number, its T operands with their roles, the B bytes, the S
and U values, the latch entries it reads and writes. -/
structure OpForm where
  ins    : Instr
  vpc    : BitVec 48
  op     : BitVec 8
  opx    : BitVec 8
  ts     : List (BitVec 8 × BitVec 2)
  fld    : Word
  args   : List Word
  latchR : Option Nat
  latchW : Option Nat
deriving DecidableEq, Repr

/-- An open fused group (R280): KEEP, VPC of FUSE, members. -/
structure FGroup where
  keep : Bool
  vpc  : BitVec 48
  mem  : List OpForm
deriving DecidableEq, Repr

/-- An invocation in flight (R293, R294, R299, R300): the members of a fused group are its stages; `inter` holds the group's intermediate outputs with
0 undecided, 1 to be written, 2 dropped (R281); `conc` the invocations concurrent with it; `wsDone` the refresh groups of the weight store that its built-in
kernel has been through (R325). -/
structure Inv where
  num    : BitVec 16
  uid    : Nat
  stages : List OpForm
  keep   : Bool
  inter  : List (BitVec 8 × BitVec 2)
  opcode : BitVec 8
  opx    : BitVec 8
  vpc    : BitVec 48
  fld    : Word
  args   : List Word
  opnds  : List Opnd
  nout   : Nat
  ft     : Vector Word 16
  ftb    : BitVec 8
  mbox   : Vector Word 8
  sealed : Bool
  img    : Option (BitVec 16)
  area   : Nat
  regions : Vector (Option (Nat × Nat)) 16
  nrec   : Nat
  reps   : Nat
  sstep  : Nat
  opened : Bool
  ended  : Bool
  cancel : Bool
  aborted : Bool
  latchW : Option Nat
  latchR : Option Nat
  coll   : Option (BitVec 16 × Nat)
  conc   : List Nat
  wsDone : BitVec 16 := 0
deriving DecidableEq, Repr

/-- A loop-nest record in the walker (R302 to R305): its 128 bytes, constants, latched copy, hand-out progress, remainders put back, the tick from which
it waits for its next chunk (R310) and the tick at which it became ready (R312), deferred windows. -/
structure WRec where
  inv   : Nat
  ord   : Nat
  raw   : Mem
  consts : Mem
  latch : Option (List Nat × List Nat)
  total : Option Nat
  next  : Nat
  back  : List (Nat × Nat)
  out   : Nat
  ready : Option Nat
  first : Nat
  defer : Nat
  defWin : Nat
deriving DecidableEq, Repr

/-- The scoreboard and kernel-fault report held for delivery (R252, R253). -/
structure Report where
  cause : Cause
  kind  : Bool
  fvpc  : Word
  info  : Word
  tile  : Word
  hnd   : Option (BitVec 8)
  core  : Option (BitVec 9)
  num   : BitVec 16
  uid   : Option Nat
  tb    : Word
deriving DecidableEq, Repr

/-- The expansion routine that runs (R294). -/
structure Exp where
  fr   : Front
  uid  : Nat
  code : Nat
  handledPage : Bool
deriving DecidableEq, Repr

/-- A contribution on its way to a latch entry (R214): the core and issue number of the XHLAT, the entry, the bins and OUT. -/
structure Contrib where
  core  : Fin 320
  seq   : Nat
  entry : Fin 16
  bins  : List Nat
  out   : Nat
deriving DecidableEq, Repr

/-- A race stamp of a line (R351): line location, core, access kind of R370, invocation and context, superstep, several readers. -/
structure Stamp where
  line : Nat
  core : Nat
  kind : BitVec 3
  inv  : Nat
  osq  : Fin 16
  ss   : Nat
  many : Bool
  scope : BitVec 4
deriving DecidableEq, Repr

/-- A barrier of a cluster or team (R134, R135): the slot, its owner (cluster number, or 40 + sequencer), configured count, latched count, arrivals, generation. -/
structure Barr where
  slot : Nat
  own  : Nat
  conf : Nat
  n    : Nat
  arr  : Nat
  gen  : Nat
  pkg  : Bool
deriving DecidableEq, Repr

/-- A cluster's committed partial of one core (R131): word, fold, size, core, invocation, value. -/
structure Part where
  word : Nat
  op   : BitVec 4
  n    : Nat
  core : Nat
  osq  : Fin 16
  inv  : Nat
  val  : Nat
  ilv  : Nat
deriving DecidableEq, Repr

/-- A graph context (R11, R291 to R295, R388). `nvpc` is where decoding goes on after the instruction at VPC, `avpc` the address behind it; `sigHit`: the
value of the signal word that satisfied a WAITSIG (R288). While it is not active it keeps its partials, race stamps and barriers here. `reexec` holds where
decoding goes after the repeated instruction at VPC (R253 MODE 1), `rsave` what it held at TRAPH entry; `awaits`: parked until a launch packet
comes (R435); `lazyw`: intermediate outputs of completed fused groups that are written only if an operator comes to name them, as (bit
address, width, code) (R281). -/
structure Ctx where
  tag    : BitVec 16
  slot   : BitVec 6
  root   : BitVec 40
  proc   : Nat
  entry  : BitVec 48
  sysv   : Bool
  dbgOk  : Bool
  dumps  : Bool
  team   : BitVec 40
  quota  : BitVec 8
  vpc    : BitVec 48
  nvpc   : BitVec 48
  avpc   : BitVec 48
  n      : Vector Word 64
  g      : BitVec 8
  hnds   : List (Nat × THnd)
  ft     : Vector Word 16
  ftb    : BitVec 8
  loops  : List (BitVec 6 × Word × BitVec 48)
  ldepth : Nat
  calls  : List (BitVec 48 × Nat)
  th     : BitVec 48
  kt     : List (BitVec 9 × BitVec 32 × BitVec 16)
  parked : Bool
  intrap : Bool
  lcause : BitVec 8
  trapD  : Nat × Nat
  trapUid : Option Nat
  trap0  : Nat
  held   : List Report
  frep   : Option Report
  rvpc   : BitVec 48
  fvpc   : BitVec 48
  reexec : List (BitVec 48)
  rsave  : List (BitVec 48)
  mboxP  : Vector Word 8
  ninv   : Nat
  ncoll  : List (BitVec 16 × Nat)
  heap   : Nat × Nat
  allocs : List (Nat × Nat)
  fuse   : Option FGroup
  lazyw  : List (BitVec 8 × List (Nat × Nat × Nat))
  pageWait : Bool
  sigWait : Option (BitVec 3 × BitVec 6 × Nat × Word)
  sigHit : Option Word
  sigFence : Bool
  invs   : List Inv
  recs   : List WRec
  latch  : Vector Latch 16
  contrib : List Contrib
  exp    : Option Exp
  preReq : Option Nat
  saved  : List (BitVec 52)
  area   : BitVec 52
  reply  : Word
  awaits : Bool
  done   : Bool
  parts  : List Part
  stamps : List Stamp
  barrs  : List Barr
deriving DecidableEq, Repr

/-- A core dump (R390 to R392): the cut context, its records so far as kind and body, the pages that are still to be written once it is the one
being written, the faults that struck meanwhile, and whether it is written. -/
structure Dump where
  ctx    : Ctx
  recs   : List (Nat × List Byte)
  todo   : Option (List (Nat × Nat))
  second : List Strike
  done   : Bool
deriving DecidableEq, Repr

/-- An operator sequencer (R292): its active context, its snapshot, the context trace ring's BASE and CTL (R417). -/
structure Osq where
  ctx   : Option Ctx
  snap  : Regs
  trace : Word × Word
deriving DecidableEq, Repr

/-- A Harness port (R424, R425): link up, training, next SEQ sent and expected, unacknowledged flits, replays in a row and since reset, the sequence
replayed, the body received last, the sequence number of the last negative acknowledgement returned, the snapshot (R417), and the receive buffers that
are to be returned to the far side. -/
structure Port where
  up     : Bool
  train  : Bool
  seqTx  : BitVec 12
  seqRx  : BitVec 12
  unack  : List (BitVec 576)
  replays : Nat
  total  : Nat
  last   : BitVec 12
  pend   : Option (BitVec 512)
  nak    : Option (BitVec 12)
  snap   : Regs
  cred   : Nat := 0
deriving DecidableEq, Repr

/-- A base or compute die: translation cache (leaf tags), MSC selectors, sets and LFSRs, surface table and compressed copy, clock, governor (R311, R333, R334, R337, R343, R456). -/
structure Die where
  tlb    : List (BitVec 6 × Nat × Nat × Word)
  sel    : Vector (BitVec 10) 64
  lfsr   : Vector (BitVec 16) 16
  msc    : List (Nat × List Nat)
  cloak  : List (Nat × BitVec 128)
  surf   : List (Nat × Nat × Nat × Nat)
  comp   : Mem
  compV  : NSet
  pendC  : List (Nat × Byte)
  mhz    : BitVec 16
  budget : Nat
  snap   : Regs
deriving DecidableEq, Repr

/-- A cluster's L2: tags of the lines it holds by set, with dirty marks (R323). -/
structure Clu where
  l2 : List (Nat × List (Nat × Bool))
deriving DecidableEq, Repr

/-- A loaded kernel image: number, control store bytes, dies that hold it, offset (R241, R242). -/
structure Img where
  num  : BitVec 16
  code : Mem
  size : Nat
  dies : BitVec 4
  ofs  : Nat
  sysv : Bool
deriving DecidableEq, Repr

/-- The platform block and the fabric tables (chapters 20, 22). Tables are sparse by their address offset. `upd` is a live update that waits for its
heartbeat: the old digest and the tick; `blocks` the queue control blocks that the Rein firmware knows, by queue; `key` the save-area key where a replay
gave it; `surfW` the words of a surface entry being written; `rlog` the recorder's records of ticks not yet over,
`rseq` and `logAt` the number and place of the next one it writes, `logCrc` the CRC-64 of those written and `logDone` that the log has ended (R419). `isM` says which of the two forms of R2 the package is, `cxl` that the x16 port
trained as CXL, `hdm` base and length of its HDM decoder (R440), `tier2` the bytes of the second tier (R327); `hub` is the Rein cores' hub SRAM (R451),
`wlog` the watch records of the tick in hand (R414), `thermN` that the output THERM_N is asserted (R457, R460),
`shoots` the shootdowns that some cluster has not acknowledged (R340), `spillRq` the base dies whose home asks for a larger spill table (R336),
`ccFault` the address of the last write of a control core that was reported to it as an access fault (R324, R342), `outq` the answers that wait for a
route or for room in a port's buffer, by device (R425, R426), `hostCpl` the last completion that the host got: address, status (0 data, 1 Unsupported
Request, 2 poisoned data), data (R431, R439, R440), `bar2` the size of BAR2 (R439), `flash` the images in boot flash by stage and slot (R445), `srams` the
hub SRAM that each Rein core runs from and `ctlW` the word that each control core loaded last, Rein 0 .. 5 and Bridle (R444), `spdmPeer` the device
that SPDM answers over the fabric (R447). -/
structure Plat where
  fabId   : Word
  noexp   : Word
  fabTo   : Nat
  porten  : BitVec 16
  slots   : Regs
  expo    : Regs
  acl     : Regs
  queues  : Regs
  mesh    : Regs
  routes  : Regs
  routeW  : Regs
  ports   : Vector Port 16
  reqs    : List FReq
  fwctl   : Word
  fwstat  : Word
  hb      : Word
  hbTick  : Vector Nat 6
  upd     : Option (BitVec 384 × Nat)
  blocks  : Regs
  key     : Option Word
  surfW   : Regs
  wakes   : List (Fin 64)
  wakesH  : List (Fin 64)
  meas    : Vector (BitVec 384) 8
  recov   : Bool
  off     : Bool
  pwr     : Word
  excess  : Bool
  govCls  : Word
  govBud  : Vector Word 4
  window  : Nat
  overlog : List (BitVec 16 × BitVec 16 × Nat)
  lpt     : BitVec 2
  clkErr  : Bool
  clkPend : Option (BitVec 2)
  therm   : Vector Word 5
  ce      : Vector Word 12
  ue      : Vector Word 12
  wdog    : Nat
  spill   : Regs
  rgrp    : Nat
  hsrc    : Word
  hstat   : Word
  hpend   : Option (Nat × BitVec 7 × BitVec 9)
  hpin    : Option Nat
  hstop   : List Nat
  hall    : Option Nat
  rlog    : List (BitVec 8 × BitVec 8 × Nat × List Byte)
  rseq    : Nat
  logAt   : Nat
  rmode   : Bool
  replay  : List RepRec
  rstat   : Word
  spdm    : List Byte
  spdmOut : List Byte
  isM     : Bool
  cxl     : Bool
  hdm     : Nat × Nat
  tier2   : Nat
  hub     : Mem
  inbuf   : List (BitVec 8 × List Byte)
  dumps   : List Dump
  shoots  : List Shoot
  spillRq : BitVec 4
  ccFault : Option Nat
  sv      : BitVec 32
  wlog    : List (Fin 320 × List Byte) := []
  thermN  : Bool := false
  outq    : List (BitVec 12 × List (BitVec 512)) := []
  hostCpl : Option (Nat × BitVec 2 × BitVec 512) := none
  logCrc  : Word := 0
  logDone : Bool := false
  bar2    : Nat := 2 ^ 39
  flash   : List (Nat × Bool × List Byte) := []
  srams   : Vector Mem 6 := Vector.replicate 6 []
  ctlW    : Vector Word 7 := Vector.replicate 7 0
  spdmPeer : Option (BitVec 12) := none
deriving DecidableEq, Repr

/-- One access of a control core (R444, log 140): an aligned 8-byte load or store, a write of a whole line, an 8-byte load or store of a Rein core's
own hub SRAM. -/
inductive CtlOp where
  | load (a : Nat)
  | store (a : Nat) (v : Word)
  | line (a : Nat) (data : BitVec 512)
  | sramLoad (a : Nat)
  | sramStore (a : Nat) (v : Word)
deriving DecidableEq, Repr

/-- One item of the schedule (log 1), with the ticks that pass before it: a unit's turn, an event, the resident kernel's judgement that a process's context is
broken (R377), a security version that it asks the security engine to raise the fuses to (R446), an access of a control core (Bridle, or Rein core k;
R444), the peer that it asks SPDM to answer (R447), or the end of the replay log (R419). -/
inductive Turn where
  | unit (dt : Nat) (u : UnitId)
  | event (dt : Nat) (i : Instr)
  | judge (dt : Nat) (proc : Nat)
  | fuse (dt : Nat) (sv : BitVec 32)
  | ctl (dt : Nat) (rein : Option (Fin 6)) (op : CtlOp)
  | spdm (dt : Nat) (peer : Option (BitVec 12))
  | logEnd (dt : Nat)
deriving DecidableEq, Repr

/-- The machine. -/
structure State where
  tb      : Word
  agenda  : List Turn
  free    : Nat
  cur     : UnitId
  iss     : Issue
  cores   : Vector Core 320
  osqs    : Vector Osq 16
  dorm    : List Ctx
  dies    : Vector Die 4
  clus    : Vector Clu 40
  mem     : List Host.Cell
  frames  : List (Nat × BitVec 4)
  cwrit   : List (Nat × Nat × Nat × Nat)
  stamps  : List Stamp
  barrs   : List Barr
  parts   : List Part
  imgs    : List Img
  saves   : List Saved
  plat    : Plat
  rec_    : Bool
  phases  : Nat
  ueMarks : NSet
deriving DecidableEq, Repr

/-! The state after reset: every value the manual states; where it states none, the value log entries 3 to 8 name. -/

/-- A front at the start of a routine (R14). -/
def Front.reset : Front :=
  { s := Vector.replicate 64 0, sp := 0, p := 1, img := 0, pc := 0, rtn := 0, scyc := 0, ret := [], fl := [], outs := [] }

def Ring.reset : Ring := { h := 0, pendC := 0, pendP := 0, doneW := [], doneR := [], lofs := 0 }

def Loops.reset : Loops := { lc := Vector.replicate 6 0, trips := [1, 1, 1, 1, 1, 1], binds := [], run := none }

/-- Nothing is being issued. -/
def Issue.idle : Issue :=
  { bundle := false, trap := none, stall := none, send := none, next := none, post := .none, rings0 := none, outs0 := none, phase0 := none }

def Plane.zero : Plane :=
  { vals := Vector.replicate 128 (Vector.replicate 128 0), fmt := 0x01, scB := false, cap := 0,
    scl := Vector.replicate 128 0x7F7F7F7F, tg := Vector.replicate 8 0, terms := Vector.replicate 8 0,
    hem := Vector.replicate 128 0 }

def Hem.reset : Hem :=
  { col := Vector.replicate 128 0, row := Vector.replicate 128 0, valid := 0, epoch := none, ovr := false, hit := 0 }

def Tile.zero : Tile := Vector.replicate 128 (Vector.replicate 128 0)

def MArr.reset : MArr :=
  { tiles := Vector.replicate 2 Tile.zero, cur := Plane.zero, back := Plane.zero,
    perm := Vector.ofFn (fun i => BitVec.ofNat 8 i.val), g := 0, fs := 0, termc := Vector.replicate 8 0, beatc := 0,
    queue := [], fact := none, hmode := 0, hems := Vector.replicate 2 Hem.reset, hstat := 0 }

def Engines.reset : Engines :=
  { queue := [], cls := Vector.replicate 9 [], ntag := Vector.replicate 16 0, watch := none }

def Ckpt.reset : Ckpt :=
  { pc := 0, rtn := 0, s := Vector.replicate 64 0, sp := 0, fl := [], rings := Vector.replicate 16 Ring.reset,
    loops := Loops.reset }

def Phase.reset : Phase :=
  { num := 0, sb := [], upds := [], enrol := [], landed := [], races := [], ckpt := Ckpt.reset, att := 0, irrev := false,
    fired := 0, refetch := [], redo := [] }

def Dbg.reset : Dbg :=
  { ctl := 0, stat := 0, supp := none, step := false, trace := false, run := 0, why := (0, 0), shadow := [],
    since := 0, lost := 0, sper := 0, win := [], halt := false }

/-- The zero image of a function table (R210). -/
def ftabZero : List Byte := List.replicate 1152 0

/-- A core at reset (R14, R28): HEM.TOL 0x3980_0000, GAIT.THR 0xFFFF_FFFF, every format table entry 0x101. -/
def Core.reset : Core :=
  { fr := Front.reset, v := Vector.replicate 64 (Vector.replicate 64 0), vp := Vector.replicate 64 0,
    m := (Vector.replicate 8 0).set 0 (BitVec.allOnes 64), rings := Vector.replicate 16 Ring.reset,
    e := Vector.replicate 16 0, eop := [], k := Vector.replicate 8 0, loops := Loops.reset, arr := MArr.reset,
    mbox := Vector.replicate 8 0, gclk := 0, ft := Vector.replicate 16 0x101, ftab := Vector.replicate 4 ftabZero,
    bins := Vector.replicate 256 0, binOut := 0, scr := [], marks := [], wbuf := [], eng := Engines.reset,
    ph := Phase.reset, hs := none, held := [], async := [],
    sys := [(0x018, 0x39800000), (0x01A, 0xFFFFFFFF)], mode := 0, task := none, idle := 0, gens := [], gran := [], sk := [], l1 := [],
    cinchN := 0, cinchC := 0xFFFFFFFF, dbg := Dbg.reset, snap := [], tilectx := 0, revoked := false, issued := 0, lastInv := (65536, 0), wper := 10000000 }

def Port.reset : Port :=
  { up := false, train := false, seqTx := 0, seqRx := 0, unack := [], replays := 0, total := 0, last := 0, pend := none, nak := none,
    snap := [] }

/-- A die at reset: selectors 512, LFSRs 0xACE1 (R334), 2.0 GHz (R2, log 5), the class-0 budget of R455. -/
def Die.reset : Die :=
  { tlb := [], sel := Vector.replicate 64 512, lfsr := Vector.replicate 16 0xACE1, msc := [], cloak := [], surf := [],
    comp := [], compV := [], pendC := [], mhz := 2000, budget := 0xFFFFFFFF, snap := [] }

/-- The platform block and fabric at reset (R421 to R459). -/
def Plat.reset : Plat :=
  { fabId := 0, noexp := 0, fabTo := 10000000, porten := 0, slots := [], expo := [], acl := [], queues := [], mesh := [],
    routes := [], routeW := [], ports := Vector.replicate 16 Port.reset, reqs := [], fwctl := 0, fwstat := 0,
    hb := 0, hbTick := Vector.replicate 6 0, upd := none, blocks := [], key := none, surfW := [], wakes := [], wakesH := [], meas := Vector.replicate 8 0,
    recov := false, off := false, pwr := BitVec.ofNat 64 (Config.maxWatts false), excess := false, govCls := 0x0706050403020100,
    govBud := Vector.replicate 4 0xFFFFFFFF, window := 0, overlog := [], lpt := 0, clkErr := false, clkPend := none,
    therm := Vector.replicate 5 (BitVec.ofNat 64 (115 * 2 ^ 40 + 100 * 2 ^ 32)), ce := Vector.replicate 12 0,
    ue := Vector.replicate 12 0, wdog := 10000000, spill := [], rgrp := 0, hsrc := 0, hstat := 0, hpend := none, hpin := none,
    hstop := [], hall := none, rlog := [], rseq := 0, logAt := 0, rmode := false, replay := [], rstat := 0, spdm := [], spdmOut := [], isM := false, cxl := false, hdm := (0, 0), tier2 := 0,
    hub := [], inbuf := [], dumps := [], shoots := [], spillRq := 0, ccFault := none, sv := 0 }

/-- The machine right after reset: TB 0 (R460), nothing running, memory with nothing listed. -/
def State.reset : State :=
  { tb := 0, agenda := [], free := 0, cur := .core 0, iss := Issue.idle, cores := Vector.replicate 320 Core.reset,
    osqs := Vector.replicate 16 { ctx := none, snap := [], trace := (0, 0) }, dorm := [], dies := Vector.replicate 4 Die.reset,
    clus := Vector.replicate 40 { l2 := [] }, mem := [], frames := [], cwrit := [], stamps := [], barrs := [], parts := [],
    imgs := [], saves := [], plat := Plat.reset, rec_ := false, phases := 0, ueMarks := [] }

end Sys2Proof.Machine
end

