-- ==== Sys2Proof/Machine/Ops.lean ====
section
/-! DEFINITION. The named operations over registers that every meaning shares: fields of words, scalar registers with
their poison and banks (R16 to R18), predicates, masks, vectors, ring handles (R19 to R22), results in flight (R81, R82,
R374), and the outcome of one slot. -/

namespace Sys2Proof.Machine

abbrev Out := Host.Outcome State Fault Refusal

/-- Bits h down to l of a word, as a number (R36). -/
def bits (x : Word) (h l : Nat) : Nat := x.toNat / 2 ^ l % 2 ^ (h + 1 - l)

/-- One bit of a word. -/
def bit (x : Word) (i : Nat) : Bool := x.getLsbD i

/-- x with bits h .. l replaced by v. -/
def setBits (x : Word) (h l : Nat) (v : Nat) : Word :=
  let m := (2 ^ (h + 1 - l) - 1) * 2 ^ l
  (x &&& ~~~ (BitVec.ofNat 64 m)) ||| BitVec.ofNat 64 (v % 2 ^ (h + 1 - l) * 2 ^ l)

/-- x with the bits that mask selects taken from v. -/
def blend (x v mask : Word) : Word := (x &&& ~~~ mask) ||| (v &&& mask)

def b2n (b : Bool) : Nat := if b then 1 else 0

/-- The n-bit vector whose bit i is f i. -/
def bvOf (n : Nat) (f : Nat → Bool) : BitVec n :=
  BitVec.ofNat n ((List.range n).foldr (fun i a => 2 * a + b2n (f i)) 0)

/-- A w-bit field as a two's complement integer. -/
def sintOf (w x : Nat) : Int := if x % 2 ^ w < 2 ^ (w - 1) then (x % 2 ^ w : Nat) else (x % 2 ^ w : Nat) - (2 ^ w : Nat)

/-- A number as the word that holds it modulo 2^64. -/
def wordOf (x : Int) : Word := BitVec.ofInt 64 x

/-- CRC-32C of R110: reflected polynomial 0x82F6_3B78, register c. -/
def crc32cByte (c : BitVec 32) (b : Byte) : BitVec 32 :=
  (List.range 8).foldl (fun r _ => if r.getLsbD 0 then (r >>> 1) ^^^ 0x82F63B78 else r >>> 1) (c ^^^ b.zeroExtend 32)

/-- CRC-64 of R389 in reflected form, register c. -/
def crc64Byte (c : Word) (b : Byte) : Word :=
  (List.range 8).foldl (fun r _ => if r.getLsbD 0 then (r >>> 1) ^^^ 0xC96C5795D7870F42 else r >>> 1) (c ^^^ b.zeroExtend 64)

/-- CRC-32C with initial value and final XOR of all ones (R110). -/
def crc32c (l : List Byte) : BitVec 32 := ~~~ (l.foldl crc32cByte 0xFFFFFFFF)

/-- CRC-64 with an initial value and final XOR 0 (R389). -/
def crc64 (k : Word) (l : List Byte) : Word := l.foldl crc64Byte k

/-- n bytes of a number, little-endian. -/
def leBytes : Nat → Nat → List Byte
  | 0, _ => []
  | n + 1, x => BitVec.ofNat 8 x :: leBytes n (x / 256)

/-- The number that little-endian bytes hold. -/
def leNat : List Byte → Nat
  | [] => 0
  | b :: l => b.toNat + 256 * leNat l

/-! ## Units -/

def State.core (s : State) (c : Fin 320) : Core := s.cores[c]
def State.setCore (s : State) (c : Fin 320) (k : Core) : State := { s with cores := s.cores.set c k }
def State.modCore (s : State) (c : Fin 320) (f : Core → Core) : State := s.setCore c (f (s.core c))

def State.ctx (s : State) (q : Fin 16) : Option Ctx := (s.osqs[q]).ctx
def State.setCtx (s : State) (q : Fin 16) (x : Ctx) : State :=
  { s with osqs := s.osqs.set q { (s.osqs[q]) with ctx := some x } }
def State.modCtx (s : State) (q : Fin 16) (f : Ctx → Ctx) : State :=
  match s.ctx q with
  | some x => s.setCtx q (f x)
  | none => s

/-- The core number of the current unit; 0 on a sequencer. -/
def State.curCore (s : State) : Fin 320 :=
  match s.cur with
  | .core c => c
  | .seq _ => 0

/-- The sequencer of the current unit: its own, or that of the task on the core. -/
def State.curSeq (s : State) : Fin 16 :=
  match s.cur with
  | .seq q => q
  | .core c => match (s.core c).task with
    | some t => t.osq
    | none => 0

def State.isSeq (s : State) : Bool :=
  match s.cur with
  | .seq _ => true
  | .core _ => false

/-- The scalar front of the current unit (R14, R294). -/
def State.front (s : State) : Front :=
  match s.cur with
  | .core c => (s.core c).fr
  | .seq q => match (s.ctx q).bind (·.exp) with
    | some e => e.fr
    | none => Front.reset

def State.setFront (s : State) (f : Front) : State :=
  match s.cur with
  | .core c => s.modCore c (fun k => { k with fr := f })
  | .seq q => s.modCtx q (fun x => { x with exp := x.exp.map (fun e => { e with fr := f }) })

/-- Handler mode (R29, R372). -/
def State.inHandler (s : State) : Bool :=
  match s.cur with
  | .core c => (s.core c).hs.isSome
  | .seq _ => false

/-! ## Registers -/

/-- A scalar register with its poison: s0 reads 0 clean (R16). -/
def Front.getS (f : Front) (r : BitVec 6) : Word × Bool :=
  if r = 0 then (0, false) else (f.s[r.toFin], f.sp.getLsbD r.toNat)

/-- Writes a scalar register with its poison: a write of s0 is discarded (R16). -/
def Front.putS (f : Front) (r : BitVec 6) (v : Word) (p : Bool) : Front :=
  if r = 0 then f
  else { f with s := f.s.set r.toFin v,
                sp := if p then f.sp ||| (1#64 <<< r.toNat) else f.sp &&& ~~~ (1#64 <<< r.toNat) }

/-- A predicate: p0 reads true (R16). -/
def Front.getP (f : Front) (r : BitVec 4) : Bool := if r = 0 then true else f.p.getLsbD r.toNat

def Front.putP (f : Front) (r : BitVec 4) (v : Bool) : Front :=
  if r = 0 then f
  else { f with p := if v then f.p ||| (1#16 <<< r.toNat) else f.p &&& ~~~ (1#16 <<< r.toNat) }

/-- A mask: m0 reads all ones (R16). -/
def Core.getM (k : Core) (r : BitVec 3) : Word := if r = 0 then BitVec.allOnes 64 else k.m[r.toFin]
def Core.putM (k : Core) (r : BitVec 3) (v : Word) : Core := if r = 0 then k else { k with m := k.m.set r.toFin v }

/-- Lands a vector result: the bits of the mask are written; a lane written whole takes the result's poison, a lane
written in part adds it (R72, R140, R405). -/
def Core.putV (k : Core) (r : BitVec 6) (val msk : Lanes) (psn : BitVec 64) : Core :=
  let old := k.v[r.toFin]
  let full := bvOf 64 (fun i => (msk.toList.getD i 0) == BitVec.allOnes 32)
  let part := bvOf 64 (fun i => (msk.toList.getD i 0) != 0#32)
  let new : Lanes := Vector.ofFn (fun i => (old[i] &&& ~~~ msk[i]) ||| (val[i] &&& msk[i]))
  let vp := k.vp[r.toFin]
  { k with v := k.v.set r.toFin new, vp := k.vp.set r.toFin ((vp &&& ~~~ full) ||| (psn &&& part)) }

/-- Lands one result in a core. -/
def Core.land (k : Core) : Dest → Core
  | .s r v p => { k with fr := k.fr.putS r v p }
  | .p r v => { k with fr := k.fr.putP r v }
  | .m r v => k.putM r v
  | .v r v m p => k.putV r v m p

/-- Lands one result in a scalar front (an expansion routine has scalars and predicates only). -/
def Front.land (f : Front) : Dest → Front
  | .s r v p => f.putS r v p
  | .p r v => f.putP r v
  | .m _ _ => f
  | .v _ _ _ _ => f

/-- The results of position 1, in issue order, and the rest one position nearer (R81, R82). -/
def stepFlights (l : List Flight) : List Dest × List Flight :=
  ((l.filter (fun x => x.pos ≤ 1)).map (·.dst), (l.filter (fun x => 1 < x.pos)).map (fun x => { x with pos := x.pos - 1 }))

/-- Lands in the current unit the results readable at the bundle about to issue (R81). -/
def State.landDue (s : State) : State :=
  match s.cur with
  | .core c => s.modCore c (fun k =>
      let (d, r) := stepFlights k.fr.fl
      d.foldl Core.land { k with fr := { k.fr with fl := r, nb := k.fr.nb + 1 } })
  | .seq q => s.modCtx q (fun x => { x with exp := x.exp.map (fun e =>
      let (d, r) := stepFlights e.fr.fl
      { e with fr := d.foldl Front.land { e.fr with fl := r, nb := e.fr.nb + 1 } }) })

/-- Adds a result in flight: latency l makes it readable by the l-th bundle after this one (R81). -/
def State.fly (s : State) (l : Nat) (d : Dest) : State :=
  let f := s.front
  s.setFront { f with fl := f.fl ++ [{ pos := l, dst := d, at_ := f.nb }] }

/-- A scalar result of latency l. -/
def State.flyS (s : State) (l : Nat) (r : BitVec 6) (v : Word) (p : Bool) : State := s.fly l (.s r v p)

/-! ## The outcome of one slot -/

/-- What an enabled slot does: completes, raises a trap and does nothing, stalls with a reason and detail of R411, or sends a request
and stalls until its answer. -/
inductive Eff where
  | ok (s : State)
  | trap (t : Trap)
  | stall (reason detail : BitVec 8)
  | send (r : FReq) (data : Bool)
deriving DecidableEq, Repr

/-- A trap report of a slot. -/
def mkTrap (c : Cause) (info : Word) (slot : BitVec 2) : Trap :=
  { cause := c, info := info, slot := some slot, ring := none, tensor := none, async := false, note := [] }

/-- PRIV with the slot in [2:0] (R370). -/
def privTrap (slot : BitVec 2) (sys : Nat) : Trap := mkTrap .priv (BitVec.ofNat 64 (slot.toNat + 16 * sys)) slot

/-- PRIV because of handler mode (R370, R373). -/
def hmTrap (slot : BitVec 2) : Trap := mkTrap .priv (BitVec.ofNat 64 (slot.toNat + 8)) slot

/-- HANDLE for a ring, the slot in [14:12] (R370). -/
def handleTrap (slot : BitVec 2) (h : BitVec 4) : Trap :=
  { (mkTrap .handle (BitVec.ofNat 64 (h.toNat + 4096 * slot.toNat)) slot) with ring := some h }

/-- FORMAT with the refused value (R370). -/
def formatTrap (slot : BitVec 2) (v : Nat) : Trap := mkTrap .format (BitVec.ofNat 64 (v % 256 + 4096 * slot.toNat)) slot

/-- POISON of a scalar register (R370). -/
def poisonTrap (slot : BitVec 2) (r : BitVec 6) : Trap :=
  mkTrap .poison (BitVec.ofNat 64 (slot.toNat + 65536 * r.toNat)) slot

/-- POISON of a vector lane (R370). -/
def poisonLane (slot : BitVec 2) (r : BitVec 6) (lane : Nat) : Trap :=
  mkTrap .poison (BitVec.ofNat 64 (slot.toNat + 8 + 65536 * r.toNat + 2 ^ 24 * lane)) slot

/-- SHAPE naming a level or operand in the low bits. -/
def shapeTrap (slot : BitVec 2) (v : Nat) : Trap := mkTrap .shape (BitVec.ofNat 64 v) slot

/-- STACK (R97, R101). -/
def stackTrap (slot : BitVec 2) : Trap := mkTrap .stack 0 slot

/-- ILLEGAL_BUNDLE of a transfer out of the image (R96, R105). -/
def xferTrap : Trap := mkTrap .illegalBundle 8 0

/-- An address fault of R370: flags [8] scratchpad, [9] weight buffer, [12] the last byte. -/
def addrTrap (c : Cause) (slot : BitVec 2) (flags : Nat) (a : Nat) : Trap :=
  mkTrap c (BitVec.ofNat 64 (slot.toNat + flags + 65536 * (a % 2 ^ 48))) slot

/-- The loads and atomics outstanding when the bundle in hand issued: one that an earlier slot of the bundle issues is not among them, so a later
slot reads the register as it stood (R82, R83). -/
def State.outs0 (s : State) : List Outst := s.iss.outs0.getD s.front.outs

/-- Whether register r, as the code in hand names it, awaits an outstanding load or atomic (R83, R17). -/
def State.waits (s : State) (r : BitVec 6) : Bool :=
  r != 0 && s.outs0.any (fun o => o.d == r && (r.toNat < 56 || o.hnd == s.inHandler))

/-- Reads scalar r at issue and goes on with its value and poison; stalls on an outstanding load (R83). -/
def withS (r : BitVec 6) (s : State) (k : Word → Bool → Eff) : Eff :=
  if s.waits r then .stall 1 0 else k (s.front.getS r).1 (s.front.getS r).2

/-- Reads scalar r and consumes its poison: POISON at the slot (R112). -/
def withC (slot : BitVec 2) (r : BitVec 6) (s : State) (k : Word → Eff) : Eff :=
  withS r s (fun v p => if p then .trap (poisonTrap slot r) else k v)

/-! ## Ring handles (R19 to R22) -/

def hEn (h : Word) : Bool := bit h 54
def hPh (h : Word) : Bool := bit h 55
def hFmt (h : Word) : BitVec 8 := BitVec.ofNat 8 (bits h 63 56)
def hFill (h : Word) : Nat := bits h 53 45
def hCons (h : Word) : Nat := bits h 44 37
def hProd (h : Word) : Nat := bits h 36 29
/-- The number of slots, CNT + 1. -/
def hSlots (h : Word) : Nat := bits h 28 21 + 1
/-- The slot size in bytes. -/
def hSize (h : Word) : Nat := 64 * 2 ^ bits h 20 18
def hBase (h : Word) : Nat := bits h 13 0 * 64
/-- The scratchpad byte of a slot. -/
def hByte (h : Word) (slot : Nat) : Nat := hBase h + slot * hSize h

/-- The fields of a handle that an HSET alone changes: all but PROD, CONS and FILL (R19, R22). -/
def hGeo (h : Word) : Word := h &&& 0xFFC000001FFFFFFF

/-- CONS forward by n with FILL down (R122). -/
def hAdvC (h : Word) (n : Nat) : Word :=
  setBits (setBits h 44 37 ((hCons h + n) % hSlots h)) 53 45 (hFill h - n)

/-- PROD forward by n with FILL up (R122). -/
def hAdvP (h : Word) (n : Nat) : Word :=
  setBits (setBits h 36 29 ((hProd h + n) % hSlots h)) 53 45 (hFill h + n)

/-- The handle operand of a slot, as it stood at the bundle's issue (R82). -/
def State.ringAt (s : State) (h : BitVec 4) : Ring :=
  let r : Ring := match s.iss.rings0 with
    | some r => r[h.toFin]
    | none => (s.core s.curCore).rings[h.toFin]
  if s.inHandler then { r with lofs := 0 } else r

def State.modRing (s : State) (h : BitVec 4) (f : Ring → Ring) : State :=
  s.modCore s.curCore (fun k => { k with rings := k.rings.set h.toFin (f k.rings[h.toFin]) })

/-- The effective offset of a slot operand (R102). -/
def effOff (r : Ring) (off : Nat) : Nat := (off + r.lofs) % hSlots r.h

/-! ## Format table entries (R55 to R57) -/

def ftA (w : Word) : BitVec 8 := BitVec.ofNat 8 (bits w 7 0)
def ftB (w : Word) : BitVec 8 := BitVec.ofNat 8 (bits w 15 8)
def ftQ (w : Word) : BitVec 8 := BitVec.ofNat 8 (bits w 23 16)
def ftSat (w : Word) : Bool := bit w 27
def ftScA (w : Word) : Bool := bit w 28
def ftScB (w : Word) : Bool := bit w 29
def ftCap (w : Word) : Nat := bits w 35 32

def ftRm (w : Word) : RMode :=
  match bits w 26 24 with
  | 1 => .rtz
  | 2 => .rup
  | 3 => .rdn
  | 4 => .sr
  | _ => .rne

/-- The rounding of an entry (R51). -/
def ftRnd (w : Word) : Rnd := ⟨ftRm w, ftSat w, ftCap w⟩

/-- The check of R56 on an entry's own fields: the first offending value, none if the entry is sound. -/
def ftBad (w : Word) : Option Nat :=
  if bits w 63 36 ≠ 0 then some (bits w 63 36)
  else if bits w 31 30 ≠ 0 then some (bits w 31 30)
  else if 13 < ftCap w then some (ftCap w)
  else if 4 < bits w 26 24 then some (bits w 26 24)
  else if !isAFmt (ftA w) then some (ftA w).toNat
  else if !isBFmt (ftB w) then some (ftB w).toNat
  else if ftQ w ≠ 0 ∧ !isQFmt (ftQ w) then some (ftQ w).toNat
  else if ftScA w ∧ 8 < codeWidth (ftA w) then some (ftA w).toNat
  else if ftScB w ∧ 8 < codeWidth (ftB w) then some (ftB w).toNat
  else none

/-- The iteration number of loop level l as R33 reads it; a handler's bundles stand outside every body. -/
def Core.lcOf (k : Core) (l : Nat) : Nat :=
  match k.loops.run with
  | none => 0
  | some r => if l < r.m && k.hs.isNone then (k.loops.lc.toList.getD l 0).toNat else 0

/-- The number of the format table entry in force (R33). -/
def Core.ftIndex (k : Core) : Nat :=
  let lvl := k.sys.get 0x01B
  let base := bits (k.sys.get 0x01C) 3 0
  if bit lvl 3 then (k.lcOf (bits lvl 2 0) + base) % 16 else base

/-- The format table entry in force at issue (R57). -/
def Core.ftNow (k : Core) : Word := k.ft.toList.getD k.ftIndex 0

/-- The entry in force after the check of R56. -/
def withFt (slot : BitVec 2) (s : State) (k : Word → Eff) : Eff :=
  let w := (s.core s.curCore).ftNow
  match ftBad w with
  | some v => .trap (formatTrap slot v)
  | none => k w

/-- Draws a free 64-bit value (log 2). -/
def State.draw (s : State) : Nat × State := (s.free, { s with free := s.free + 1 })

/-- Where stochastic draws come from: the number of the next draw of the device random source, or in replay the draws the log holds
(R50, R420). -/
structure Rand where
  base : Nat
  log  : Option (List Nat)

/-- The i-th draw from here on. -/
def srAt (r : Rand) (i : Nat) : Nat :=
  match r.log with
  | none => (Config.srDraw (r.base + i)).toNat
  | some l => l.getD i 0

/-- The source after n draws. -/
def Rand.adv (r : Rand) (n : Nat) : Rand := { base := r.base + n, log := r.log.map (·.drop n) }

/-- The entropy records of a replay log that are still to come (R419). -/
def entropyOf (l : List RepRec) : List RepRec := l.filter (fun r => r.typ == 3)

/-- The draws that come next. -/
def State.sr (s : State) : Rand :=
  { base := s.free, log := if s.plat.rmode then some ((entropyOf s.plat.replay).map (fun r => leNat (r.payload.take 2))) else none }

/-- A record of the replay log (R419). -/
def State.logRec (s : State) (typ src : BitVec 8) (payload : List Byte) : State :=
  if s.rec_ && !s.plat.rmode && !s.plat.logDone then
    { s with plat := { s.plat with rlog := s.plat.rlog ++ [(typ, src, s.tb.toNat, payload)] } }
  else s

/-- The bundle about to issue on a core, by its pc, SCYC and mode. -/
def Core.bun (k : Core) : Nat × Word × Bool := (k.fr.pc, k.fr.scyc, k.hs.isSome)

/-- The bundle about to issue is the one before which a stop of the given cause, or of any, was resumed (R406, R407). -/
def Core.resumed (k : Core) (cause : Option (BitVec 8)) : Bool := k.dbg.supp.any (fun x => cause.all (· == x.1) && x.2 == k.bun)

/-- DBG.STAT.STOP (R402). -/
def Core.stopped (k : Core) : Bool := bit k.dbg.stat 0

/-- The watchdog's count rests: `idle` holds the ticks counted so far (R317, R403, R340). -/
def Core.counting (k : Core) : Bool := !k.stopped && !k.task.any (·.parked)
def Core.pauseIdle (k : Core) (tb : Nat) : Core := if k.counting then { k with idle := tb - k.idle } else k

/-- A precise stop before the bundle about to issue: DBG.STAT with the cause, BPN and IDX; HELD follows HALL (R404). -/
def State.stopCore (s : State) (c : Fin 320) (cause : BitVec 8) (bpn : Bool) (idx : Nat) : State :=
  s.modCore c (fun k => { k.pauseIdle s.tb.toNat with dbg := { k.dbg with
    stat := BitVec.ofNat 64 (1 + 2 * b2n (bit k.dbg.ctl 4) + 4 * (idx % 4) + 16 * b2n bpn + 256 * cause.toNat + 65536 * b2n (bit k.dbg.stat 16)),
    step := false, halt := false, since := s.tb.toNat } })

/-- A firing with its source bit (7 for HALTER.CMD) and core (0x1FF for none). -/
def State.fire (s : State) (cause : BitVec 7) (core : BitVec 9) : State :=
  let p := s.plat
  let p := if bit p.hsrc 6 then { p with hpin := some (s.tb.toNat + 100) } else p
  let p := if bit p.hsrc 5 then { p with hstop := p.hstop ++ [s.tb.toNat + 64] } else p
  let p := if bit p.hstat 63 || p.hpend.isSome then p else { p with hpend := some (s.tb.toNat + 64, cause, core) }
  { s with plat := p }

/-- A divergence of a replay (R420): the halter trigger fires with cause 7, every core is to stop as with STOP (R416), and the recorder status takes the
sequence number of the record reached: the one in question, else the first that has not been used, else the number after the last one. -/
def State.noteDiverge (s : State) (r : Option RepRec := none) : State :=
  let n := (((r.or s.plat.replay.head?)).map (·.seq)).getD s.plat.rseq
  let s := s.fire 7 0x1FF
  { s with plat := { s.plat with rstat := BitVec.ofNat 64 n, hall := some (s.plat.hall.getD (s.tb.toNat + 64)) } }

/-- One draw by unit number u in replay: the next entropy record must be one of the random source for that unit (R420). -/
def State.useLogged (s : State) (u : Nat) : State :=
  match entropyOf s.plat.replay with
  | [] => s.noteDiverge
  | r :: _ =>
    let s' := { s with plat := { s.plat with replay := s.plat.replay.erase r } }
    if r.src == 1 && leNat (r.payload.drop 2) == u then s' else s'.noteDiverge (some r)

/-- Advances the draws by n when the entry rounds stochastically; record mode logs them, a replay takes them from its log (R50, R419, R420). -/
def State.useDraws (s : State) (rm : RMode) (n : Nat) : State :=
  if rm = .sr then
    let s' := { s with free := s.free + n }
    if s.plat.rmode then (List.range n).foldl (fun s _ => s.useLogged s.curCore.val) s'
    else (List.range n).foldl (fun (t : State) i => t.logRec 3 1 (leBytes 2 (srAt s.sr i) ++ leBytes 2 s.curCore.val)) s'
  else s

end Sys2Proof.Machine
end

