-- ==== Sys2Proof/Machine/Memory.lean ====
section
/-! DEFINITION. Device memory: the physical map (R327), placement (R332), the caches' tags (R322, R323, R333 to R335),
cloaked buffers (R341, R342), compressed views (R343, R344), race stamps (R349, R351), page tables and the translation
cache (R328 to R331, R337), extents (R24). -/

namespace Sys2Proof.Machine

/-! ## The physical map -/

def isHbm (pa : Nat) : Bool := pa < 2 ^ 39
def isTier2 (pa : Nat) : Bool := 0x10000000000 ≤ pa && pa < 0x40000000000
/-- The weight store (R324). -/
def isWs (pa : Nat) : Bool := 0x80000000000 ≤ pa && pa < 0x80180000000
/-- A weight-store byte's refresh group is refreshing: its readers and WSLOAD's write wait (R325). -/
def State.wsBusy (s : State) (pa : Nat) : Bool := isWs pa && pa / 4096 % 16 == s.tb.toNat / 2000 % 16
def isSysSpace (pa : Nat) : Bool := 0xFF0000000000 ≤ pa && pa < 0x1000000000000
def isHostWin (pa : Nat) : Bool := 2 ^ 50 ≤ pa && pa < 2 ^ 51
def isPeerWin (pa : Nat) : Bool := 2 ^ 51 ≤ pa && pa < 2 ^ 52
/-- Addresses that are reached by requests: the windows of other devices and the register space (R327, R364; log 125). -/
def isWin (pa : Nat) : Bool := isHostWin pa || isPeerWin pa || isSysSpace pa
/-- The peer slot of a peer-window address (R423). -/
def peerSlotOf (pa : Nat) : Nat := pa / 2 ^ 43 % 256
def peerAddrOf (pa : Nat) : Nat := pa % 2 ^ 43

/-- Whether a byte of the physical map is populated for a context (R327). -/
def State.populated (s : State) (sysv : Bool) (pa : Nat) : Bool :=
  isHbm pa || (isTier2 pa && pa - 0x10000000000 < s.plat.tier2) || isWs pa || (isSysSpace pa && sysv) || isHostWin pa ||
  (isPeerWin pa && bit (s.plat.slots.get (peerSlotOf pa)) 63)

/-- Bits h .. l of a number. -/
def nbits (x h l : Nat) : Nat := x / 2 ^ l % 2 ^ (h + 1 - l)

/-- A device location of HBM as one key: die, stack within die, channel, channel offset W (R332). -/
def hbmKey (die sw ch w : Nat) : Nat := ((die * 2 + sw) * 32 + ch) * 2 ^ 31 + w

/-- The location that scheme ilv gives an HBM address (R332). -/
def hbmLoc (ilv pa : Nat) : Nat :=
  let home := nbits pa 38 37
  let viaC6 (c6 w : Nat) := hbmKey home (c6 % 2) (c6 / 2) w
  let via8 (c8 w : Nat) := hbmKey (c8 % 4) (c8 / 4 % 2) (c8 / 8) w
  match ilv with
  | 0 => via8 (nbits pa 15 8) (nbits pa 38 16 * 2 ^ 8 + nbits pa 7 0)
  | 1 => viaC6 (nbits pa 13 8) (nbits pa 36 14 * 2 ^ 8 + nbits pa 7 0)
  | 2 => via8 (nbits pa 17 10) (nbits pa 38 18 * 2 ^ 10 + nbits pa 9 0)
  | 3 => viaC6 (nbits pa 17 12) (nbits pa 36 18 * 2 ^ 12 + nbits pa 11 0)
  | 4 => hbmKey home (nbits pa 36 36) (nbits pa 16 12) (nbits pa 35 17 * 2 ^ 12 + nbits pa 11 0)
  | 5 => viaC6 (nbits pa 21 16) (nbits pa 36 22 * 2 ^ 16 + nbits pa 15 0)
  | 6 => hbmKey home (nbits pa 36 36) (nbits pa 20 16) (nbits pa 35 21 * 2 ^ 16 + nbits pa 15 0)
  | _ => hbmKey home (nbits pa 36 36) (nbits pa 35 31) (nbits pa 30 0)

/-- The key of a byte of device memory: its location in HBM, its address elsewhere. -/
def locKey (ilv pa : Nat) : Nat := if isHbm pa then hbmLoc ilv pa else pa

/-- The bank coordinates of a channel offset (R332): column, pseudo-channel, row, bank group, bank. -/
def bankOf (w : Nat) : Nat × Nat × Nat × Nat × Nat :=
  let row := nbits w 30 15
  (nbits w 9 0, nbits w 10 10, row, nbits w 12 11 ^^^ nbits row 1 0, nbits w 14 13 ^^^ nbits row 3 2)

/-- The home die and MSC set of a line key (R333); none for a line that is never allocated. -/
def mscHome (key : Nat) : Option (Fin 4 × Nat) :=
  if isHbm key then
    let die := key / 2 ^ 37
    let sw := key / 2 ^ 36 % 2
    let ch := key / 2 ^ 31 % 32
    let w := key % 2 ^ 31
    let c6 := 2 * ch + sw
    some (Fin.ofNat 4 die, c6 % 16 * 2 ^ 14 + (nbits w 19 6 ^^^ nbits w 30 20 ^^^ (c6 / 16 * 2 ^ 12)))
  else if isTier2 key then
    some (Fin.ofNat 4 (nbits key 9 8), nbits key 13 10 * 2 ^ 14 + (nbits key 27 14 ^^^ nbits key 41 28))
  else none

/-- The scheme under which agents that name physical addresses reach a frame: the one it is mapped under (R332, log 4). -/
def State.frameIlv (s : State) (pa : Nat) : Nat := (spGet 0 s.frames (pa / 4096)).toNat % 8
/-- Whether the frame is mapped as not allocating (R335, log 4). -/
def State.frameNa (s : State) (pa : Nat) : Bool := (spGet 0 s.frames (pa / 4096)).getLsbD 3

/-! ## Cloaked buffers (R341, R342) -/

def clV (w : BitVec 128) : Bool := w.getLsbD 40
def clFront (w : BitVec 128) : Bool := w.getLsbD 41
def clName (w : BitVec 128) : Nat := w.toNat / 2 ^ 48 % 2 ^ 40 * 4096
def clBack1 (w : BitVec 128) : Nat := w.toNat / 2 ^ 88 % 2 ^ 40 * 4096
def clBytes (w : BitVec 128) : Nat := (w.toNat / 2 ^ 42 % 64 + 1) * 4096
def clIlv (w : BitVec 128) : Nat := w.toNat % 8
def clSlot (w : BitVec 128) : Nat := w.toNat / 2 ^ 34 % 64

/-- The cloak entries of the package with their numbers die x 8192 + i. -/
def State.cloaks (s : State) : List (Nat × BitVec 128) :=
  (List.range 4).flatMap (fun d => (s.dies.toList.getD d Die.reset).cloak.map (fun e => (d * 8192 + e.1, e.2)))

/-- The valid cloak entry whose name range holds a physical address. -/
def State.cloakAt (s : State) (pa : Nat) : Option (Nat × BitVec 128) :=
  s.cloaks.find? (fun e => clV e.2 && clName e.2 ≤ pa && pa < clName e.2 + clBytes e.2)

/-- The key of the byte that a read of a name range reaches (the front) or an XSTORE landing reaches (the back). -/
def cloakKey (w : BitVec 128) (pa : Nat) (front : Bool) : Nat :=
  let off := pa - clName w
  let base := if clFront w == front then clBack1 w else clName w
  locKey (clIlv w) (base + off)

def State.setCloak (s : State) (i : Nat) (w : BitVec 128) : State :=
  let d : Fin 4 := Fin.ofNat 4 (i / 8192)
  let x := s.dies[d]
  { s with dies := s.dies.set d { x with cloak := spSet 0 x.cloak (i % 8192) w } }

/-! ## Compressed views (R343) -/

/-- The surface entry whose compressed backing holds an address: die, compressed base, uncompressed base, size. -/
def State.surfAt (s : State) (pa : Nat) : Option (Fin 4 × Nat × Nat × Nat) :=
  (List.finRange 4).findSome? (fun d => ((s.dies[d]).surf.find? (fun e => e.2.1 ≤ pa && pa < e.2.1 + e.2.2.2)).map
    (fun e => (d, e.2.1, e.2.2.1, e.2.2.2)))

/-! ## Bytes at their homes -/

/-- The key of the byte that a read of physical address pa under a scheme reaches: a cloak's front, else its own. -/
def State.readKey (s : State) (ilv pa : Nat) : Nat :=
  match s.cloakAt pa with
  | some (_, w) => cloakKey w pa true
  | none => locKey ilv pa

/-- One byte as a read at its home returns it (R342, R343). -/
def State.readByte (s : State) (ilv pa : Nat) : Byte :=
  match s.surfAt pa with
  | some (d, cb, ub, _) =>
    let x := s.dies[d]
    if x.compV.has pa then x.comp.get pa else Mem.get s.mem (locKey (s.frameIlv (ub + (pa - cb))) (ub + (pa - cb)))
  | none => Mem.get s.mem (s.readKey ilv pa)

/-- n bytes, little-endian (R36). -/
def State.readPA (s : State) (ilv pa : Nat) : Nat → Nat
  | 0 => 0
  | n + 1 => (s.readByte ilv pa).toNat + 256 * State.readPA s ilv (pa + 1) n

/-- A CV read makes the compressed copy hold what it returned (R343). -/
def State.noteCv (s : State) (pa n : Nat) : State :=
  match s.surfAt pa with
  | none => s
  | some (d, _, _, _) =>
    (List.range n).foldl (fun t i =>
      let x := t.dies[d]
      if x.compV.has (pa + i) then t
      else { t with dies := t.dies.set d { x with compV := x.compV.insert (pa + i), comp := x.comp.set (pa + i) (t.readByte 0 (pa + i)) } }) s

/-- The line of a physical address carries an uncorrectable mark (R378, code 2): every read of it meets an error of code 0. -/
def State.ueAt (s : State) (ilv pa : Nat) : Bool := !s.ueMarks.isEmpty && s.ueMarks.has (s.readKey ilv (pa / 64 * 64))

/-- Counts an uncorrectable error of a structure code (R458). -/
def State.countUe (s : State) (code : Nat) : State :=
  let i : Fin 12 := Fin.ofNat 12 code
  let w := s.plat.ue[i]
  { s with plat := { s.plat with ue := s.plat.ue.set i (if w = BitVec.allOnes 64 then w else w + 1) } }

/-- Writes one byte at its home: a compressed backing takes it as a pending compressed write (R344). -/
def State.writeByte (s : State) (ilv pa : Nat) (b : Byte) : State :=
  match s.surfAt pa with
  | some (d, _, _, _) =>
    let x := s.dies[d]
    { s with dies := s.dies.set d { x with comp := x.comp.set pa b, compV := x.compV.insert pa, pendC := spSet 0 x.pendC pa 1 } }
  | none => { s with mem := Mem.set s.mem (locKey ilv pa) b }

/-- Writes n bytes of x, little-endian. -/
def State.writePA (s : State) (ilv pa x : Nat) : Nat → State
  | 0 => s
  | n + 1 => State.writePA (s.writeByte ilv pa (BitVec.ofNat 8 x)) ilv (pa + 1) (x / 256) n

/-- Reads by physical address under the frame's own scheme (log 4). -/
def State.readP (s : State) (pa n : Nat) : Nat := s.readPA (s.frameIlv pa) pa n
def State.writeP (s : State) (pa x n : Nat) : State := s.writePA (s.frameIlv pa) pa x n

/-- Writes a list of bytes by physical address. -/
def State.writeL (s : State) (pa : Nat) : List Byte → State
  | [] => s
  | b :: l => State.writeL (s.writeByte (s.frameIlv pa) pa b) (pa + 1) l

/-- A list of n bytes by physical address. -/
def State.readL (s : State) (pa n : Nat) : List Byte := (List.range n).map (fun i => s.readByte (s.frameIlv (pa + i)) (pa + i))

/-! ## Cache tags -/

/-- Moves x to the front of a set of at most `ways` entries; answers the set and what fell out. -/
def lruTouch (ways : Nat) (l : List Nat) (x : Nat) : List Nat × Option Nat :=
  let l' := x :: l.filter (· != x)
  if ways < l'.length then (l'.take ways, l'.getLast?) else (l', none)

/-- An L1 line is touched: an evicted SK line loses its bytes, an evicted update-only line moves its partials into the
store buffer (R130, R322). -/
def Core.l1Touch (k : Core) (line : Nat) : Core :=
  let set := line % 256
  let r := lruTouch 8 (spGet [] k.l1 set) line
  let k := { k with l1 := spSet [] k.l1 set r.1 }
  match r.2 with
  | none => k
  | some x => { k with sk := spSet none k.sk x none,
                       ph := { k.ph with upds := k.ph.upds.map (fun u => if u.word / 64 = x then { u with inSb := true } else u) } }

/-- A cluster's L2 takes a line, dirty when written (R323). -/
def State.l2Touch (s : State) (cl : Nat) (line : Nat) (dirty : Bool) : State :=
  if ¬ (isHbm line ∨ isTier2 line) then s
  else
    let i : Fin 40 := Fin.ofNat 40 cl
    let c := s.clus[i]
    let set := line / 64 % 4096
    let old := spGet [] c.l2 set
    let was := old.any (fun e => e.1 = line && e.2)
    let l := ((line, dirty || was) :: old.filter (fun e => e.1 != line)).take 16
    { s with clus := s.clus.set i { l2 := spSet [] c.l2 set l } }

/-- One step of a slice's LFSR (R334). -/
def lfsrStep (x : BitVec 16) : BitVec 16 :=
  let b := (x.getLsbD 15 ^^ x.getLsbD 13) ^^ (x.getLsbD 12 ^^ x.getLsbD 10)
  (x <<< 1) ||| (if b then 1 else 0)

/-- An access by context slot q to a line at its home MSC (R334, R335): `na` inserts at LRU without stepping the LFSR,
`alloc` clear never allocates. -/
def State.mscTouch (s : State) (q : Nat) (line : Nat) (na alloc : Bool) : State :=
  match mscHome line with
  | none => s
  | some (d, set) =>
    let x := s.dies[d]
    let ways := spGet [] x.msc set
    if ways.contains line then
      { s with dies := s.dies.set d { x with msc := spSet [] x.msc set (line :: ways.filter (· != line)) } }
    else if !alloc then s
    else
      let qi : Fin 64 := Fin.ofNat 64 q
      let sl : Fin 16 := Fin.ofNat 16 (set / 2 ^ 14)
      let mru := set / 128 % 64 = q ∧ set % 128 = 0
      let lru := set / 128 % 64 = q ∧ set % 128 = 1
      let sv := x.sel[qi]
      let sel := if mru then (if sv = 1023 then sv else sv + 1) else if lru then (if sv = 0 then sv else sv - 1) else sv
      let bip := if mru then false else if lru then true else decide (512 ≤ sv.toNat)
      let keep := if ways.length < 16 then ways else ways.dropLast
      let atMru := !na && (!bip || (x.lfsr[sl]).toNat % 32 = 0)
      let new := if atMru then line :: keep else keep ++ [line]
      let lf := if bip && !na then x.lfsr.set sl (lfsrStep x.lfsr[sl]) else x.lfsr
      { s with dies := s.dies.set d { x with msc := spSet [] x.msc set new, sel := x.sel.set qi sel, lfsr := lf } }

/-- A line reaches its home MSC by a write-back or a recall: it moves there and no selector changes (R323, R334). -/
def State.mscMove (s : State) (line : Nat) : State :=
  match mscHome line with
  | none => s
  | some (d, set) =>
    let x := s.dies[d]
    let ways := spGet [] x.msc set
    let l := line :: ways.filter (· != line)
    { s with dies := s.dies.set d { x with msc := spSet [] x.msc set (l.take 16) } }

/-- The clusters whose L2 holds a line: the presence bits of its home (R323). -/
def State.present (s : State) (line : Nat) : BitVec 40 :=
  bvOf 40 (fun i => (spGet [] (s.clus.toList.getD i { l2 := [] }).l2 (line / 64 % 4096)).any (fun e => e.1 == line))

/-- Before another agent reads or operates on a line, the home recalls a dirty copy from every L2 but cluster own's (R323, R127). -/
def State.recall (s : State) (own : Option Nat) (line : Nat) : State :=
  let set := line / 64 % 4096
  let dirty (c : Clu) : Bool := (spGet [] c.l2 set).any (fun e => e.1 == line && e.2)
  let hit (i : Nat) (c : Clu) : Bool := own != some i && c.l2 != [] && dirty c
  if (List.range 40).any (fun i => hit i (s.clus.toList.getD i { l2 := [] })) then
    { s with clus := s.clus.mapFinIdx (fun i c _ => if hit i c then
        { l2 := spSet [] c.l2 set ((spGet [] c.l2 set).map (fun (e : Nat × Bool) => if e.1 = line then (line, false) else e)) } else c) }.mscMove line
  else s

/-- The dirty line that falls out of cluster cl's L2 when it takes a line. -/
def State.l2Victim (s : State) (cl line : Nat) : Option Nat :=
  let old := spGet [] (s.clus[Fin.ofNat 40 cl]).l2 (line / 64 % 4096)
  if ¬ (isHbm line ∨ isTier2 line) ∨ old.any (fun e => e.1 = line) then none
  else (old[15]?).bind (fun (e : Nat × Bool) => if e.2 then some e.1 else none)

/-- A core of cluster cl reads or commits a line: other clusters' dirty copies are recalled, its L2 takes the line and writes a dirty victim back, and
the home MSC, where the line's tag is that of its backing, is touched (R323, R334, R335, R342). -/
def State.cacheLine (s : State) (cl q line home : Nat) (dirty na alloc : Bool) : State :=
  let s := s.recall (some cl) line
  let v := s.l2Victim cl line
  let s := (s.l2Touch cl line dirty).mscTouch q home na alloc
  match v with
  | some x => s.mscMove x
  | none => s

/-- Another agent than a core reads or operates on a line at its home (R323, R334, R335). -/
def State.homeLine (s : State) (q line home : Nat) (na : Bool) : State := (s.recall none line).mscTouch q home na (!na)

/-! ## Race stamps (R349, R351) -/

/-- An access for race detection: line key, core (320 + q for a sequencer), kind (0 read, 1 write, 2 update, 3 atomic),
invocation, sequencer, superstep, scope of an atomic. -/
abbrev Acc := Stamp

/-- Whether a scope names core b from core a (R127). -/
def scopeHas (scope a b : Nat) : Bool :=
  match scope with
  | 0 => a == b
  | 1 => a == b
  | 2 => a / 8 == b / 8
  | 3 => a / 80 == b / 80
  | _ => true

/-- Two accesses fall under one superstep relation (R346): one invocation and superstep, or concurrent invocations. -/
def State.ssRel (s : State) (a b : Stamp) : Bool :=
  a.osq == b.osq &&
  ((a.inv == b.inv && a.ss == b.ss) ||
   (a.inv != b.inv && match s.ctx a.osq with
    | some x => x.invs.any (fun i => (i.uid == a.inv && i.conc.contains b.inv) || (i.uid == b.inv && i.conc.contains a.inv))
    | none => false))

/-- An atomic executes at the line's home: of scope DIE or wider, or a sequencer's (R127). -/
def atHome (a : Stamp) : Bool := 3 ≤ a.scope.toNat || 320 ≤ a.core

/-- The kinds race (R349): a write against anything, an update against a read, an atomic against a read or a write or an
update, two atomics that are not indivisible. Two atomics at the home are indivisible there (R127). -/
def kindsRace (a b : Stamp) : Bool :=
  let w (x : Stamp) := x.kind == 1
  if a.kind == 3 && b.kind == 3 then !((atHome a && atHome b) || (scopeHas a.scope.toNat a.core b.core && scopeHas b.scope.toNat b.core a.core))
  else if w a || w b then true
  else if a.kind == 3 || b.kind == 3 then true
  else (a.kind == 2 && b.kind == 0) || (a.kind == 0 && b.kind == 2)

/-- The stamps an access races with. -/
def State.rivals (s : State) (a : Stamp) : List Stamp :=
  s.stamps.filter (fun b => b.line == a.line && b.core != a.core && s.ssRel a b && kindsRace a b)

/-- Records an access's stamp at its home (R351). -/
def State.stamp (s : State) (a : Stamp) : State := if s.stamps.contains a then s else { s with stamps := s.stamps ++ [a] }

/-! ## Stamp spill tables (R336) -/

/-- The live stamps of die d whose line its MSC does not hold: the entries of its spill table in use (R335, R336). -/
def State.spilled (s : State) (d : Fin 4) : Nat :=
  s.stamps.countP (fun a => match mscHome a.line with
    | some (h, set) => h == d && !(spGet [] (s.dies[d]).msc set).contains a.line
    | none => false)

/-- The base die whose table has no room for the stamps that an access from s to t spills: such an access waits at the home (R336). -/
def State.spillOver (s t : State) : Option (Fin 4) :=
  (List.finRange 4).find? (fun d => s.spilled d < t.spilled d && bits (s.plat.spill.get (2 * d.val + 1)) 31 0 * 4096 < 16 * t.spilled d)

/-- The home raises its request to the Bridle core (R336); raising SIZE takes it back. -/
def State.askSpill (s : State) (d : Fin 4) : State := { s with plat := { s.plat with spillRq := s.plat.spillRq ||| BitVec.ofNat 4 (2 ^ d.val) } }

/-- What an access from s leaves at its home: t, or while its stamps do not fit, the request (R336). -/
def State.spillOr (s t : State) : State := match s.spillOver t with
  | some d => s.askSpill d
  | none => t

/-- An agent other than a core, with the context slot q, acts on the line of a physical address under the frame's own scheme (R323, R334, R335). -/
def State.lineAt (s : State) (q pa : Nat) : State :=
  let ilv := s.frameIlv pa
  s.homeLine q (locKey ilv (pa / 64 * 64)) (s.readKey ilv (pa / 64 * 64)) (s.frameNa pa)

/-- A request from the host or a peer acts on a line (R334, R335): as an access of context slot 0, since the manual names none (DESIGN CHOICE, log 126). -/
def State.inLine (s : State) (pa : Nat) : State := s.lineAt 0 pa

/-- A slot's access from s to t: the core waits, as for an outstanding load, where its stamps do not fit (R336). -/
def spillWait (s t : State) (e : Eff) : Eff := match s.spillOver t with
  | some d => .stall 0xF1 (BitVec.ofNat 8 d.val)
  | none => e

/-- MEMRACE of an access against its first rival (R370): slot, this kind, the other's kind and core, the line. -/
def State.raceTrap (s : State) (slot : BitVec 2) (a : Stamp) (b : Stamp) (va : Nat) : Trap :=
  let k (x : Stamp) := if 320 ≤ x.core then 5 else x.kind.toNat
  let many := b.kind == 0 && (s.rivals a).any (fun x => x.kind == 0 && x.core != b.core)
  mkTrap .memrace (BitVec.ofNat 64 (slot.toNat + 8 * k a + 64 * k b + 512 * b2n many + 1024 * (if many then 0 else b.core) +
    va / 64 % 2 ^ 42 * 2 ^ 22)) slot

/-! ## Page tables (R328 to R331) -/

inductive Walk where
  | absent
  | notResident
  | leaf (w : Word) (entry : Nat)
deriving DecidableEq, Repr

def lfR (w : Word) : Bool := bit w 2
def lfW (w : Word) : Bool := bit w 3
def lfSk (w : Word) : Bool := bit w 4
def lfCv (w : Word) : Bool := bit w 5
def lfNa (w : Word) : Bool := bit w 6
def lfIlv (w : Word) : Nat := bits w 11 9
def lfSz (w : Word) : Nat := bits w 15 12
def lfPfn (w : Word) : Nat := bits w 55 16
def lfMig (w : Word) : Bool := bit w 63
/-- The physical address that a leaf gives a virtual one (R329). -/
def lfPa (w : Word) (va : Nat) : Nat := lfPfn w * 4096 + va % 2 ^ (12 + lfSz w)

/-- The rules of R330 on a leaf's own fields. -/
def State.leafOk (s : State) (sysv : Bool) (level : Nat) (w : Word) : Bool :=
  let sz := lfSz w
  let pa := lfPfn w * 4096
  let last := pa + 2 ^ (12 + sz) - 1
  (if level = 3 then sz ≤ 8 else level = 2 && 9 ≤ sz) &&
  lfPfn w % 2 ^ sz = 0 && bits w 62 56 = 0 && (isHbm pa || lfIlv w = 0) && s.populated sysv pa && s.populated sysv last &&
  (!lfCv w || (s.surfAt pa).isSome)

/-- The walk from one table down (levels left as fuel); `va` is the address, `pa` the table. With `mig` a leaf that is migrating answers too. -/
def State.walkAt (s : State) (sysv : Bool) (va : Nat) (mig : Bool) : Nat → Nat → Walk
  | 0, _ => .absent
  | fuel + 1, pa =>
    let level := 3 - fuel
    let sh := 12 + 9 * fuel
    let idx := va / 2 ^ sh % 512
    let w := BitVec.ofNat 64 (s.readP (pa + 8 * idx) 8)
    if w = 0 then .absent
    else if !bit w 0 then .notResident
    else if !bit w 1 then
      if level = 3 ∨ bits w 63 56 ≠ 0 ∨ bits w 15 2 ≠ 0 then (if lfMig w then .notResident else .absent)
      else State.walkAt s sysv va mig fuel (lfPfn w * 4096)
    else if level < 2 then (if lfMig w then .notResident else .absent)
    else
      let sz := lfSz w
      if ¬ (if level = 3 then sz ≤ 8 else 9 ≤ sz) then (if lfMig w then .notResident else .absent)
      else
        let grp := if level = 3 then 2 ^ sz else 2 ^ (sz - 9)
        let first := idx / grp * grp
        let ea := pa + 8 * first
        let g := if first = idx then w else BitVec.ofNat 64 (s.readP ea 8)
        if !bit g 0 || !bit g 1 || lfSz g != sz then .absent
        else if lfMig g && !mig then .notResident
        else if s.leafOk sysv level g then .leaf g ea
        else .absent

/-- A page walk from a root, with no effect yet. -/
def State.walk (s : State) (root : BitVec 40) (sysv : Bool) (va : Nat) (mig : Bool := false) : Walk :=
  if 2 ^ 48 ≤ va then .absent else s.walkAt sysv va mig 4 (root.toNat * 4096)

/-- The table entries that a walk reads, in order (R329). -/
def State.walkPath (s : State) (va : Nat) : Nat → Nat → List Nat
  | 0, _ => []
  | fuel + 1, pa =>
    let idx := va / 2 ^ (12 + 9 * fuel) % 512
    let w := BitVec.ofNat 64 (s.readP (pa + 8 * idx) 8)
    let sz := lfSz w
    let grp := if fuel = 0 then 2 ^ sz else 2 ^ (sz - 9)
    let first := idx / grp * grp
    let leaf := bit w 0 && bit w 1 && fuel ≤ 1 && (if fuel = 0 then decide (sz ≤ 8) else decide (9 ≤ sz))
    let table := bit w 0 && !bit w 1 && fuel != 0 && bits w 63 56 == 0 && bits w 15 2 == 0
    (pa + 8 * idx) :: (if table then State.walkPath s va fuel (lfPfn w * 4096) else if leaf && first != idx then [pa + 8 * first] else [])

/-- Sets A, and D when asked, in a leaf's first entry, and notes the frames' scheme and NA (R331, log 4); a change is an access of context slot q to the
entry's line. -/
def State.touchLeaf (s : State) (q : Nat) (w : Word) (entry : Nat) (d : Bool) : State :=
  let old := s.readP entry 8
  let new := old ||| 128 ||| (if d then 256 else 0)
  let s := if old = new then s else (s.lineAt q entry).writeP entry new 8
  let pf := lfPfn w
  let as : BitVec 4 := BitVec.ofNat 4 (lfIlv w + 8 * b2n (lfNa w))
  if (isHbm (pf * 4096) || isTier2 (pf * 4096)) && as != spGet 0 s.frames pf then
    { s with frames := (List.range (2 ^ lfSz w)).foldl (fun f i => spSet 0 f (pf + i) as) s.frames }
  else s

/-- Caches a leaf in its set of 16 ways; the least recently used leaf of a full set falls out (R337). The list is in order of use. -/
def tlbPut (e : BitVec 6 × Nat × Nat × Word) (l : List (BitVec 6 × Nat × Nat × Word)) : List (BitVec 6 × Nat × Nat × Word) :=
  if l.length < 16 then e :: l
  else
    let set (y : BitVec 6 × Nat × Nat × Word) : BitVec 8 := Config.tlbSet y.1.toNat (y.2.1 / 4096)
    match (l.filter (fun y => set y == set e))[15]? with
    | none => e :: l
    | some y => e :: l.erase y

/-- A translation through the die's cache of 4,096 leaves (R337): a hit uses the cached leaf, a miss walks and caches; a walk's reads meet the home MSCs of
its table entries (R334). -/
def State.translate (s : State) (q : Fin 16) (x : Ctx) (va : Nat) (d : Bool) : Walk × State :=
  let die : Fin 4 := Fin.ofNat 4 (q.val / 4)
  let dd := s.dies[die]
  let hit := dd.tlb.find? (fun e => e.1 == x.slot && va / 2 ^ (12 + lfSz e.2.2.2) == e.2.1 / 2 ^ (12 + lfSz e.2.2.2))
  match hit with
  | some e =>
    let s := { s with dies := s.dies.set die { dd with tlb := e :: dd.tlb.filter (fun y => y != e) } }
    (.leaf e.2.2.2 e.2.2.1, if d then s.touchLeaf x.slot.toNat e.2.2.2 e.2.2.1 true else s)
  | none =>
    let r := s.walk x.root x.sysv va
    let s := (if 2 ^ 48 ≤ va then [] else s.walkPath va 4 (x.root.toNat * 4096)).foldl (fun s a => s.lineAt x.slot.toNat a) s
    match r with
    | .leaf w ea =>
      let s := s.touchLeaf x.slot.toNat w ea d
      let dd := s.dies[die]
      let e := (x.slot, va / 2 ^ (12 + lfSz w) * 2 ^ (12 + lfSz w), ea, w)
      (.leaf w ea, { s with dies := s.dies.set die { dd with tlb := tlbPut e dd.tlb } })
    | r => (r, s)

/-! ## Extents (R23, R24) -/

def exLo (e : BitVec 128) : Word := e.extractLsb' 0 64
def exHi (e : BitVec 128) : Word := e.extractLsb' 64 64
def exV (e : BitVec 128) : Bool := bit (exLo e) 63
def exRd (e : BitVec 128) : Bool := bit (exLo e) 62
def exWr (e : BitVec 128) : Bool := bit (exLo e) 61
def exSk (e : BitVec 128) : Bool := bit (exLo e) 60
def exCv (e : BitVec 128) : Bool := bit (exLo e) 59
def exNa (e : BitVec 128) : Bool := bit (exLo e) 58
def exIlv (e : BitVec 128) : Nat := bits (exLo e) 57 55
def exBase (e : BitVec 128) : Nat := bits (exLo e) 47 0
def exLen (e : BitVec 128) : Nat := (bits (exHi e) 63 40 + 1) * 4096
def exPa (e : BitVec 128) (va : Nat) : Nat := bits (exHi e) 39 0 * 4096 + (va - exBase e)

/-- The lowest-numbered extent that a virtual address hits (R24). -/
def Core.hit (k : Core) (va : Nat) : Option (Fin 16) :=
  (List.finRange 16).find? (fun i => exV k.e[i] && exBase k.e[i] ≤ va && va < exBase k.e[i] + exLen k.e[i])

/-- The tensor handle whose operand's extent an address hit (R307, R371). -/
def State.hndOf (s : State) (c : Fin 320) (va : Nat) : Option (BitVec 8) :=
  let k := s.core c
  (k.hit va).bind (fun i => (k.eop[i.val]?).bind (fun j => k.task.bind (fun t => (s.ctx t.osq).bind (fun x =>
    (x.invs.find? (fun v => v.uid == t.inv)).bind (fun v => (v.opnds[j]?).map (·.hnd))))))

/-- One end of an access: none where it passes the extent check, else the cause (R24, R338 steps 4 and 5). -/
inductive Need where
  | read | write | atomic | update
deriving DecidableEq, Repr

def State.permBad (s : State) (e : BitVec 128) (va : Nat) (need : Need) : Bool :=
  let pa := exPa e va
  match need with
  | .read => !exRd e
  | .write => !exWr e || exSk e || exCv e || isWs pa || (s.cloakAt pa).isSome
  | .atomic => !exWr e || exSk e || exCv e || isWs pa || (s.cloakAt pa).isSome
  | .update => !exWr e || exSk e || exCv e || isWs pa || (s.cloakAt pa).isSome || isWin pa

/-- The checks of an access of n bytes at va (R24): both ends hit, then both ends permitted; flag bit 12 names the last byte. -/
def State.exCheck (s : State) (c : Fin 320) (va n : Nat) (need : Need) : Option (Cause × Nat × Nat) :=
  let k := s.core c
  match k.hit va with
  | none => some (.extentMiss, 0, va)
  | some i =>
    match k.hit (va + n - 1) with
    | none => some (.extentMiss, 4096, va + n - 1)
    | some j =>
      if s.permBad k.e[i] va need then some (.extentPerm, 0, va)
      else if s.permBad k.e[j] (va + n - 1) need then some (.extentPerm, 4096, va + n - 1)
      else none

/-- The extent and physical address of a checked byte. -/
def State.exOf (s : State) (c : Fin 320) (va : Nat) : BitVec 128 × Nat :=
  match (s.core c).hit va with
  | some i => ((s.core c).e[i], exPa (s.core c).e[i] va)
  | none => (0, va)

end Sys2Proof.Machine
end

