-- ==== Sys2Proof/Machine/Convert.lean ====
section
/-! DEFINITION. Elements of bit strings (R42, R71) and their conversion between formats (R47 to R51, R149), blocks and the
quantiser (R58, R59), function tables (R210, R211), TCW segments (R206). -/

namespace Sys2Proof.Machine

/-- Element i of width w of a bit string (little-endian, R42). -/
def elem (blob w i : Nat) : Nat := blob / 2 ^ (w * i) % 2 ^ w

/-- The bit string of a list of w-bit elements. -/
def packEl (w : Nat) : List Nat → Nat
  | [] => 0
  | x :: l => x % 2 ^ w + 2 ^ w * packEl w l

/-- The elements 0 .. n-1 of a bit string. -/
def elems (blob w n : Nat) : List Nat := (List.range n).map (elem blob w)

/-- The value of an element of a format code; NaN for a code with no values. -/
def valOf (c : BitVec 8) (x : Nat) : Val :=
  match fmtOf c with
  | some f => f.decode x
  | none => .nan

/-- Rounds a value into a format code under an entry's RM, OVF and TCAP (R51). -/
def rndTo (ft : Word) (c : BitVec 8) (draw : Nat) (x : Val) : Nat :=
  match fmtOf c with
  | some f => f.rnd (ftRnd ft) draw x
  | none => 0

/-- The value of a code rounded by RNE with overflow to infinity and no cap. -/
def rneTo (c : BitVec 8) (x : Val) : Nat :=
  match fmtOf c with
  | some f => f.rnd Rnd.rne 0 x
  | none => 0

/-- Whether a conversion is one that R149 calls exact: wider, from floating to floating or between integers. -/
def isWidening (src dst : BitVec 8) : Bool :=
  match fmtOf src, fmtOf dst with
  | some a, some b => a.width < b.width && ((a.isFloat && b.isFloat) || (a.isInt && b.isInt))
  | _, _ => false

/-- Converts one element (R149): a widening keeps the value, whatever RM, OVF and TCAP say; a floating value into a wider integer
format rounds by R49 without a cap; anything else rounds. -/
def cvtElem (ft : Word) (src dst : BitVec 8) (draw x : Nat) : Nat :=
  let v := valOf src x
  if isWidening src dst then
    let r := rneTo dst v
    match fmtOf dst with
    | some d => if d.isFloat && !v.isNan && !(Val.eq (d.decode r) v) then Config.openWiden src.toNat dst.toNat x % 2 ^ d.width else r
    | none => r
  else match fmtOf src, fmtOf dst with
  | some a, some b => if a.isFloat && b.isInt && a.width < b.width then b.rnd { ftRnd ft with cap := 0 } draw v else b.rnd (ftRnd ft) draw v
  | _, _ => rndTo ft dst draw v

/-- Converts the elements of a list, drawing in ascending element order (R50). -/
def cvtList (ft : Word) (src dst : BitVec 8) (n0 : Rand) (l : List Nat) : List Nat :=
  (List.range l.length).map (fun i => cvtElem ft src dst (srAt n0 i) (l.getD i 0))

/-! ## The quantiser (R59) -/

/-- The ceiling of log2(a / b) of two positive values. -/
def ceilLog2 (ma : Nat) (ea : Int) (mb : Nat) (eb : Int) : Int :=
  let s : Int := (bitLen ma : Int) + ea - (bitLen mb : Int) - eb      -- a/b lies within a factor of two of 2^s
  let fits (t : Int) : Bool :=                                         -- a <= b x 2^t
    let e := eb + t
    decide (ma * pow2 (ea - e) ≤ mb * pow2 (e - ea))
  if fits (s - 1) then (if fits (s - 2) then s - 2 else s - 1) else if fits s then s else s + 1

/-- The error E(s) of R59 step 4 over a block. -/
def quantErr (f : Fmt) (cap : Nat) (xs : List Val) (s : Int) : Lane :=
  xs.foldl (fun e x =>
    let q := f.decode (f.rnd ⟨.rne, true, cap⟩ 0 (x.scale (-s)))
    let d := rneF32 (x.sub (q.scale s))
    addF32 e (mulF32 d d)) 0

/-- The scale byte that R59 steps 1 to 5 choose for a block of values. -/
def quantScale (c : BitVec 8) (cap : Nat) (xs : List Val) : BitVec 8 :=
  match fmtOf c with
  | none => 0xFF
  | some f =>
    if xs.any (fun x => x.isNan || x.isInf) then 0xFF
    else
      let a := xs.foldl (fun m x => if Val.lt false m x.abs then x.abs else m) (.fin false 0 0)
      match a with
      | .fin _ m e =>
        if m = 0 then 0x7F
        else
          let mq : Nat × Int := if f.isInt then ((if cap = 0 then f.maxMag else (capBounds cap f.maxMag).1), 0) else f.maxVal cap
          let s0 := ceilLog2 m e mq.1 mq.2
          let clamp (t : Int) : Int := if t < -127 then -127 else if 127 < t then 127 else t
          let cs := [clamp (s0 - 1), clamp s0, clamp (s0 + 1)]
          let best := cs.foldl (fun (b : Option (Int × Val)) t =>
            let e := f32Val (quantErr f cap xs t)
            match b with
            | none => some (t, e)
            | some (u, eu) => if Val.lt false e eu || (!(Val.lt false eu e) && u < t) then some (t, e) else b) none
          match best with
          | some (t, _) => BitVec.ofInt 8 (t + 127)
          | none => 0x7F
      | _ => 0xFF

/-- The code of one value under a scale byte (R59 step 6, R160, R212). `sat` forces saturation. -/
def quantCode (ft : Word) (c : BitVec 8) (sat : Bool) (b : BitVec 8) (draw : Nat) (x : Val) : Nat :=
  match fmtOf c with
  | none => 0
  | some f =>
    if b = 0xFF then f.nanCode
    else
      let r := ftRnd ft
      f.rnd { r with sat := sat || r.sat } draw (x.scale (127 - (b.toNat : Int)))

/-! ## Correctly rounded functions (R147, R265) -/

/-- Fractional bits of the fixed-point arithmetic of exp2 and log2. -/
def fxBits : Nat := 320

/-- 2^(2^-i) in fixed point, by repeated integer square roots. -/
def expRoots : Nat → Nat → List Nat
  | 0, _ => []
  | n + 1, x => let r := isqrt (x * 2 ^ fxBits); r :: expRoots n r

/-- 2^f for a fraction f in [0, 1) of `n` bits (numerator k), in fixed point. -/
def exp2Frac (n k : Nat) : Nat :=
  let rs := expRoots n (2 * 2 ^ fxBits)
  (List.range n).foldl (fun p i => if k / 2 ^ (n - 1 - i) % 2 = 1 then p * rs.getD i 0 / 2 ^ fxBits else p) (2 ^ fxBits)

/-- 2^x: exact for an integer, else with a sticky bit far below every rounding position (R147). -/
def Val.exp2 : Val → Val
  | .nan => .nan
  | .inf s => if s then .fin false 0 0 else .inf false
  | .fin s m e =>
    if m = 0 then .fin false 1 0
    else
      let big := bitLen m + e
      if 12 < big then (if s then .fin false 1 (-100000) else .fin false 1 100000)
      else if big < -200 then sticky false (if s then 2 ^ 250 - 1 else 2 ^ 250) true (-250)
      else
        let i := floorVal s m e
        let n : Nat := (-e).toNat
        let fr : Nat := (scaled s m e (-(n : Int)) - i * (2 ^ n : Nat)).toNat
        if fr = 0 then .fin false 1 i else sticky false (exp2Frac n fr / 2 ^ 64) true (i - 256)

/-- Fractional bits of log2 of y / 2^fxBits in [1, 2), bit by bit by squaring. -/
def log2Frac : Nat → Nat → Nat → Nat
  | 0, _, acc => acc
  | n + 1, y, acc =>
    let y2 := y * y / 2 ^ fxBits
    if 2 * 2 ^ fxBits ≤ y2 then log2Frac n (y2 / 2) (2 * acc + 1) else log2Frac n y2 (2 * acc)

/-- log2(x): exact for a power of two, else with a sticky bit (R147). -/
def Val.log2 : Val → Val
  | .nan => .nan
  | .inf s => if s then .nan else .inf false
  | .fin s m e =>
    if m = 0 then .inf true
    else if s then .nan
    else
      let k := bitLen m - 1
      let i : Int := e + k
      if m = 2 ^ k then .fin (decide (i < 0)) i.natAbs 0
      else
        let f := log2Frac 160 (m * 2 ^ fxBits / 2 ^ k) 0
        let x : Int := i * (2 ^ 160 : Nat) + f
        if x < 0 then .fin true (2 * x.natAbs - 1) (-161) else .fin false (2 * x.natAbs + 1) (-161)

/-- 1 / sqrt(x) with a sticky bit (R147): exact for powers of four. -/
def Val.rsqrt : Val → Val
  | .nan => .nan
  | .inf s => if s then .nan else .fin false 0 0
  | .fin s m e =>
    if m = 0 then .inf s
    else if s then .nan
    else
      -- sqrt(2^(2t) / m) with 2t well above m
      let e' : Int := if e % 2 = 0 then e else e - 1
      let m' := if e % 2 = 0 then m else 2 * m
      let t := bitLen m' + 160
      let n := 2 ^ (2 * t) / m'
      let r := isqrt n
      sticky false r (r * r * m' ≠ 2 ^ (2 * t)) (-(t : Int) - e' / 2)

def exp2F32 (x : Lane) : Lane := rneF32 (f32Val x).exp2
def log2F32 (x : Lane) : Lane := rneF32 (f32Val x).log2
def rsqrtF32 (x : Lane) : Lane := rneF32 (f32Val x).rsqrt
def sqrtF32 (x : Lane) : Lane := rneF32 (f32Val x).sqrt

/-! ## Function tables (R210, R211) -/

/-- A 4-byte field of a table image. -/
def tabF32 (t : List Byte) (off : Nat) : Lane := BitVec.ofNat 32 (leNat ((t.drop off).take 4))

/-- Whether an image passes the checks of R210. -/
def ftabOk (t : List Byte) : Bool :=
  let e := sintOf 8 (t.getD 4 0).toNat
  t.length == 1152 && ((t.drop 5).take 3).all (· == 0) && ((t.drop 24).take 40).all (· == 0) &&
  ((t.drop 1092).take 60).all (· == 0) && decide (-126 ≤ e ∧ e ≤ 127)

/-- The evaluation of R211 in FP32. -/
def ftabEval (t : List Byte) (x : Lane) : Lane :=
  let xv := f32Val x
  let y (i : Nat) : Lane := tabF32 t (64 + 4 * i)
  let tail (a b : Lane) : Lane := rneF32 (((f32Val a).mul xv).add (f32Val b))
  let lo := tail (tabF32 t 8) (tabF32 t 12)
  let hi := tail (tabF32 t 16) (tabF32 t 20)
  if xv.isNan then 0x7FC00000
  else
    let d := rneF32 (xv.sub (f32Val (tabF32 t 0)))
    let u := f32Val (rneF32 ((f32Val d).scale (-(sintOf 8 (t.getD 4 0).toNat))))
    match u with
    | .nan => if xv.isNeg then lo else hi
    | .inf s => if s then lo else hi
    | .fin s m e =>
      if s ∧ m ≠ 0 then lo
      else
        let i := (floorVal false m e).toNat
        if 256 ≤ i then hi
        else
          let f := (Val.fin false m e).sub (.fin false i 0)
          let dy := rneF32 ((f32Val (y (i + 1))).sub (f32Val (y i)))
          rneF32 ((f32Val (y i)).add (f.mul (f32Val dy)))

/-! ## TCW segments (R206) -/

/-- Whether contents are a zero of the format: plus or minus 0 (R206). -/
def isZeroCode (c : BitVec 8) (x : Nat) : Bool := (valOf c x).isZero

/-- The term count of contents under a code (R52). -/
def termsOf (c : BitVec 8) (x : Nat) : Nat :=
  match fmtOf c with
  | some f => f.terms x
  | none => 0

/-- The bytes of a segment: 64 x ceil((24 + ceil(NZ w / 8)) / 64). -/
def segBytes (w nz : Nat) : Nat := 64 * ((24 + (nz * w + 7) / 8 + 63) / 64)

/-- Encodes a column of 128 elements into a segment (R206). -/
def encSeg (c : BitVec 8) (scl : Nat) (col : List Nat) : List Byte :=
  let w := codeWidth c
  let nzl := col.filter (fun x => !isZeroCode c x)
  let map := (List.range 128).foldl (fun a k => if isZeroCode c (col.getD k 0) then a else a + 2 ^ k) 0
  let terms := nzl.foldl (fun a x => max a (termsOf c x)) 0
  let n := segBytes w nzl.length
  leBytes 16 map ++ [c, BitVec.ofNat 8 nzl.length, BitVec.ofNat 8 terms, 0] ++ leBytes 4 scl ++
    leBytes (n - 24) (packEl w nzl)

/-- A decoded segment: its length, format, scale bytes, terms byte, column. -/
structure Seg where
  len   : Nat
  fmt   : BitVec 8
  scl   : BitVec 32
  terms : Nat
  col   : List Nat
deriving DecidableEq, Repr

/-- Unpacks the non-zero values into a column by MAP. -/
def unmap (map w blob : Nat) : Nat → Nat → Nat → List Nat
  | 0, _, _ => []
  | n + 1, k, j =>
    if map / 2 ^ k % 2 = 1 then elem blob w j :: unmap map w blob n (k + 1) (j + 1) else 0 :: unmap map w blob n (k + 1) j

/-- Reads and checks one segment from bytes (R206, R207); `rd n` gives the first n bytes. The error is the refused value of FORMAT, or none where
fewer bytes stand than the segment needs. -/
def decSeg (rd : Nat → Option (List Byte)) : Except Nat Seg :=
  match rd 24 with
  | none => .error 0x40
  | some h =>
    let map := leNat (h.take 16)
    let c := h.getD 16 0
    let nz := (h.getD 17 0).toNat
    let terms := (h.getD 18 0).toNat
    let pop := (List.range 128).foldl (fun a k => a + map / 2 ^ k % 2) 0
    if !isBFmt c then .error c.toNat
    else if nz ≠ pop then .error nz
    else if h.getD 19 0 ≠ 0 then .error (h.getD 19 0).toNat
    else
      let w := codeWidth c
      let n := segBytes w nz
      match rd n with
      | none => .error 0x40
      | some l =>
        let blob := leNat (l.drop 24)
        let vals := elems blob w nz
        let true_ := vals.foldl (fun a x => max a (termsOf c x)) 0
        if vals.any (isZeroCode c) then .error c.toNat
        else if terms ≠ true_ then .error terms
        else if blob / 2 ^ (w * nz) ≠ 0 then .error 0x40
        else .ok ⟨n, c, BitVec.ofNat 32 (leNat ((h.drop 20).take 4)), terms, unmap map w blob 128 0 0⟩

end Sys2Proof.Machine
end

