-- ==== Sys2Proof/Machine/CoreMem.lean ====
section
/-! DEFINITION. A core's accesses to device memory: its view of a line with its own stores and updates (R118, R130), the
SK lines of its L1 (R339), stamps (R351), fabric and host requests (R426, R427, R430), the scratchpad and its marks (R119,
R144), and the landing of one slot of a copy command (R199 to R201). -/

namespace Sys2Proof.Machine

/-! ## Requests to peers and the host (R423 to R427, R364) -/

/-- The port that a destination's route names, where the route is valid and the port up (R427). -/
def State.routeOf (s : State) (dev : BitVec 12) : Option (Fin 16) :=
  let r := s.plat.routes.get dev.toNat
  let p : Fin 16 := Fin.ofNat 16 (bits r 3 0)
  if bit r 63 && (s.plat.ports[p]).up && s.plat.porten.getLsbD p.val then some p else none

/-- CRC-32C of a flit's body and trailer bits 31 .. 0 (R424). -/
def flitCrc (body : BitVec 512) (low : BitVec 32) : BitVec 32 := crc32c (leBytes 64 body.toNat ++ leBytes 4 low.toNat)

/-- A flit with its trailer (R424). -/
def mkFlit (body : BitVec 512) (credit : BitVec 8) (ack seq : BitVec 12) : BitVec 576 :=
  let low : BitVec 32 := credit ++ ack ++ seq
  (flitCrc body low) ++ low ++ body

/-- Sends a flit on a port: it takes the next SEQ, returns the receive buffers freed since the last one, and stays in the buffer until acknowledged
(R424, R425). -/
def State.sendFlit (s : State) (p : Fin 16) (body : BitVec 512) : State :=
  let t := s.plat.ports[p]
  let n := min 255 t.cred
  let f := mkFlit body (BitVec.ofNat 8 n) (t.seqRx - 1) t.seqTx
  { s with plat := { s.plat with ports := s.plat.ports.set p { t with seqTx := t.seqTx + 1, unack := t.unack ++ [f], cred := t.cred - n } } }

/-- Sends flits one after the other. -/
def State.sendFlits (s : State) (p : Fin 16) (l : List (BitVec 512)) : State := l.foldl (fun s b => s.sendFlit p b) s

/-- A unit's program runs in handler mode. -/
def State.inHm (s : State) (u : UnitId) : Bool :=
  match u with
  | .core c => (s.core c).hs.isSome
  | .seq _ => false

/-- A request is the one of a kind for an address that a unit waits for, in handler mode or not. -/
def FReq.isOf (r : FReq) (u : UnitId) (hm : Bool) (kind : BitVec 4) (addr : Nat) : Bool :=
  r.unit == u && r.kind == kind && r.addr == addr && !r.gone && r.hm == hm

/-- The request of a unit for an address, if it has one. -/
def State.reqOf (s : State) (u : UnitId) (kind : BitVec 4) (addr : Nat) : Option FReq := s.plat.reqs.find? (fun r => r.isOf u (s.inHm u) kind addr)

/-- Drops a unit's request of a kind for an address. -/
def State.dropReq (s : State) (u : UnitId) (kind : BitVec 4) (addr : Nat) : State :=
  { s with plat := { s.plat with reqs := s.plat.reqs.filter (fun r => !r.isOf u (s.inHm u) kind addr) } }

/-- The answer that an engine of core c got for a window line: the latest. -/
def State.engAnswer (s : State) (c : Fin 320) (addr : Nat) : Option FReq :=
  s.plat.reqs.reverse.find? (fun r => r.unit == .core c && r.kind == 3 && r.addr == addr && !r.gone && r.st == 1)

/-- Nobody waits any more for the requests that p names: those that are answered or have not left go, and those on their way stay until they are
acknowledged (R426, R427). -/
def State.orphan (s : State) (p : FReq → Bool) : State :=
  { s with plat := { s.plat with reqs := s.plat.reqs.filterMap (fun r =>
      if !p r then some r else if r.blocked then some { r with gone := true } else if r.st != 0 || r.held then none else some { r with gone := true }) } }

/-- A change of the route to a device waits (R427): its bit 62 marks it. -/
def State.routeWait (s : State) (dev : BitVec 12) : Bool := bit (s.plat.routeW.get dev.toNat) 62

/-- A port takes a request's two flits: its buffer keeps at most 2,048 (R425). -/
def State.portRoom (s : State) (dev : BitVec 12) : Bool :=
  match s.routeOf dev with
  | none => true
  | some p => (s.plat.ports[p]).unack.length + 2 ≤ 2048

/-- The context tag of a unit's accesses. -/
def State.tagOf (s : State) (u : UnitId) : BitVec 16 :=
  match u with
  | .core c => (s.core c).tilectx
  | .seq q => ((s.ctx q).map (·.tag)).getD 0

/-- The header flit of a request of this device (R424, R461); an engine's read is a read. -/
def State.headOf (s : State) (r : FReq) : BitVec 512 :=
  let rd := r.kind = 0 || r.kind = 3
  Config.flitHead [r.dev.toNat, bits s.plat.fabId 11 0, (((s.ctx r.osq).map (·.tag)).getD (s.tagOf r.unit)).toNat, if rd then 0 else r.kind.toNat, r.op.toNat,
                   r.n, peerAddrOf r.addr, if r.kind = 1 then r.mask.toNat else 0, 0]

/-- The flits of a request to a peer leave (R424, R461). -/
def State.emitReq (s : State) (r : FReq) (withData : Bool) : State :=
  match s.routeOf r.dev with
  | none => s
  | some p => s.sendFlits p (s.headOf r :: if withData then [r.data] else [])

/-- Sends a request: to the host it leaves by PCIe; to a peer as a header flit and, with data, a data flit (R424, R439, R461). It waits at the source
while the route changes or the port has no room, and never leaves behind a lost request of its line (R426). -/
def State.sendReq (s : State) (r : FReq) (withData : Bool) : State :=
  let blocked := s.plat.reqs.any (fun x => x.blocked && x.dev == r.dev && x.addr / 64 == r.addr / 64)
  let held := blocked || (r.dev ≠ 0xFFF && (s.routeWait r.dev || !s.portRoom r.dev || s.plat.reqs.any (fun x => x.held && !x.blocked && x.dev == r.dev)))
  let s := if r.dev = 0xFFF || held then s else s.emitReq r withData
  { s with plat := { s.plat with reqs := s.plat.reqs ++ [{ r with blocked := blocked, held := held, lim := s.plat.fabTo }] } }

/-! ## Inbound admission (R428 to R430) and enqueues (R433) -/

/-- Exposure e as one 128-bit value (R428). -/
def State.expo (s : State) (e : Nat) : Nat := (s.plat.expo.get (2 * e)).toNat + (s.plat.expo.get (2 * e + 1)).toNat * 2 ^ 64
def exStart (x : Nat) : Nat := x / 2 ^ 48 % 2 ^ 40 * 4096
def exEnd (x : Nat) : Nat := (x / 2 ^ 88 + 1) * 4096
def exKind (x : Nat) : Nat := x / 2 ^ 32 % 4

/-- The valid exposure that covers every byte of a request (R430). -/
def State.exposureOf (s : State) (a n : Nat) : Option Nat :=
  (List.range 256).find? (fun e => let x := s.expo e; x % 2 = 1 && exStart x ≤ a && a + n ≤ exEnd x)

/-- Whether access list l admits a source and context tag (R429). -/
def State.aclOk (s : State) (l : Nat) (src : BitVec 12) (ctx : BitVec 16) : Bool :=
  (List.range 16).any (fun i =>
    let w := s.plat.acl.get (16 * l + i)
    bit w 63 && bits w 27 16 == src.toNat && (bit w 62 || bits w 15 0 == ctx.toNat))

/-- A 64-bit counter up by one, saturating. -/
def satInc (w : Word) : Word := if w = BitVec.allOnes 64 then w else w + 1

/-- The admission of R430: right 0 read, 1 write or enqueue, 2 atomic. The refusal reason of R431, if refused, with the counters. -/
def State.letIn (s : State) (src : BitVec 12) (ctx : BitVec 16) (a n right : Nat) : Option (BitVec 2) × State :=
  match s.exposureOf a n with
  | none => (some 0, { s with plat := { s.plat with noexp := satInc s.plat.noexp } })
  | some e =>
    let x := s.expo e
    let deny : State :=
      let w := s.plat.expo.get (2 * e)
      let d := bits w 31 16
      { s with plat := { s.plat with expo := s.plat.expo.set (2 * e) (setBits w 31 16 (min 0xFFFF (d + 1))) } }
    let has := x / 2 ^ (right + 1) % 2 = 1
    let cloaked := right ≠ 0 && ((s.cloakAt a).isSome || (s.cloakAt (a + n - 1)).isSome)
    let comp := right = 2 && (s.surfAt a).isSome
    if !has || cloaked || comp then (some 0, deny)
    else if !s.aclOk (x / 2 ^ 34 % 64) src ctx then (some 1, deny)
    else (none, s)

def State.queueW (s : State) (q i : Nat) : Word := s.plat.queues.get (4 * q + i)
def State.setQueueW (s : State) (q i : Nat) (v : Word) : State :=
  { s with plat := { s.plat with queues := s.plat.queues.set (4 * q + i) v } }

/-- The valid queue whose doorbell line holds an address (R432). -/
def State.doorOf (s : State) (a : Nat) : Option Nat :=
  (List.range 64).find? (fun q => bit (s.queueW q 0) 63 && bits (s.queueW q 1) 51 6 == a / 64)

/-- The checks and effect of an enqueue at the home of its doorbell line (R433): the refusal reason, or none. -/
def State.enqueue (s : State) (src : BitVec 12) (ctx : BitVec 16) (a : Nat) (mask : BitVec 64) (data : BitVec 512) :
    Option (BitVec 2) × State :=
  let count (s : State) (q : Nat) : State :=
    let w := s.queueW q 3
    s.setQueueW q 3 (setBits w 63 32 (min (2 ^ 32 - 1) (bits w 63 32 + 1)))
  if mask ≠ BitVec.allOnes 64 then
    (some 3, match s.doorOf a with
      | some q => count s q
      | none => s)
  else match s.doorOf a with
  | none => (some 3, s)
  | some q =>
    if data.toNat % 2 ^ 32 ≠ 0x0101 then (some 3, count s q)
    else
      let w0 := s.queueW q 0
      let w2 := s.queueW q 2
      let n := 2 ^ (4 + bits w0 61 58)
      let tail := bits w2 63 32
      let head := bits w2 31 0
      if !bit w0 62 || n ≤ (tail + 2 ^ 32 - head) % 2 ^ 32 then (some 2, count s q)
      else
        let slot := bits w0 51 6 * 64 + tail % n * 64
        let pkt := data.toNat % 2 ^ 448 + src.toNat * 2 ^ 448 + ctx.toNat * 2 ^ 464 + tail * 2 ^ 480
        let s := (s.writeP slot pkt 64).inLine slot
        let s := s.setQueueW q 2 (setBits w2 63 32 (tail + 1))
        let qf : Fin 64 := Fin.ofNat 64 q
        (none, if bit s.plat.fwctl 2 then { s with plat := { s.plat with wakesH := s.plat.wakesH ++ [qf] } }
               else { s with plat := { s.plat with wakes := s.plat.wakes ++ [qf] } })

/-- Whether a line lies in an exposure of queue doorbells (R433). -/
def State.isDoor (s : State) (a : Nat) : Bool :=
  !s.plat.expo.isEmpty && match s.exposureOf a 1 with
  | some e => exKind (s.expo e) = 1
  | none => false

/-- An access of this device to a doorbell line that is no enqueue is refused as one and counted as such: a store of part of the line (R433), an atomic or
an update, whose outcome the manual does not state (DESIGN CHOICE, log 134). -/
def State.doorTry (s : State) (tag : BitVec 16) (pa n right : Nat) : BitVec 2 × State :=
  let src := BitVec.ofNat 12 (bits s.plat.fabId 11 0)
  match s.letIn src tag pa n right with
  | (some r, s) => (r, s)
  | (none, s) => (3, (s.enqueue src tag pa 0 0).2)

/-- What a trap leaves behind although its bundle does nothing: the A bit and the cached leaf of a walk (R331), the counts of a refusal (R430, R433), and no
more of a refused request. -/
def State.trapLeft (s : State) (u : UnitId) (t : Trap) : State :=
  let s := match t.refused with
    | some (k, a) => s.dropReq u k a
    | none => s
  let s := match t.walk, u with
  | some va, .seq q => (match s.ctx q with
    | some x => (s.translate q x va false).2
    | none => s)
  | _, _ => s
  match t.door with
  | some (pa, n, right) => (s.doorTry (s.tagOf u) pa n right).2
  | none => s

/-- The device a window address names: the host, the register space of this device, or the peer of its slot (R423; log 125). -/
def State.devOf (s : State) (pa : Nat) : BitVec 12 :=
  if isHostWin pa then 0xFFF else if isSysSpace pa then 0xFFE else BitVec.ofNat 12 (bits (s.plat.slots.get (peerSlotOf pa)) 11 0)

/-- Whether a window request is refused at the source for want of a route (R427, R431). -/
def State.noRoute (s : State) (pa : Nat) : Bool := isPeerWin pa && (s.routeOf (s.devOf pa)).isNone

/-- TRAP.INFO of SIGNAL_ACCESS (R431). -/
def sigInfo (addr : Nat) (dev : BitVec 12) (reason : Nat) : Word :=
  BitVec.ofNat 64 (addr % 2 ^ 43 * 2 ^ 20 + dev.toNat * 16 + reason)

/-! ## The core's view of a line -/

/-- The fold of a commutative update (R129): 0 add, 1 fadd, 2 min, 3 max, 4 or, on n-byte words. -/
def foldUpd (op : BitVec 4) (n old val : Nat) : Nat :=
  let w := 8 * n
  match op.toNat with
  | 0 => (old + val) % 2 ^ w
  | 1 => (addF32 (BitVec.ofNat 32 old) (BitVec.ofNat 32 val)).toNat
  | 2 => if sintOf w old ≤ sintOf w val then old else val
  | 3 => if sintOf w val ≤ sintOf w old then old else val
  | _ => old ||| val

/-- A word of a 64-byte line image replaced. -/
def imgSet (img off n v : Nat) : Nat :=
  img - img / 2 ^ (8 * off) % 2 ^ (8 * n) * 2 ^ (8 * off) + v % 2 ^ (8 * n) * 2 ^ (8 * off)

/-- Overlays the masked bytes of a store buffer entry on a line image. -/
def overlay (img : Nat) (e : SbEnt) : Nat :=
  (List.range 64).foldl (fun a i => if e.mask.getLsbD i then imgSet a i 1 (e.data.toNat / 2 ^ (8 * i)) else a) img

/-- A line of memory as command `seq` of core c reads it, or as it stands: as it stood before a write that comes after the command's reads (R347). -/
def State.lineFor (s : State) (c : Fin 320) (ilv line : Nat) (seq : Option Nat) : Nat :=
  match seq.bind (fun q => (s.core c).old.find? (fun e => q < e.seq && e.line == locKey ilv (line * 64))) with
  | some e => e.img.toNat
  | none => s.readPA ilv (line * 64) 64

/-- The bytes of physical line pa that a core's own access sees: memory (for an engine's read of a window, the answer it got), its buffered bytes, and with `upd` its partials (R118, R130, R131). -/
def State.coreLine (s : State) (c : Fin 320) (ilv line : Nat) (sk upd : Bool) (seq : Option Nat := none) : Nat :=
  let k := s.core c
  let base :=
    if isWin (line * 64) then (match s.engAnswer c (line * 64) with
      | some r => r.data.toNat
      | none => 0)
    else match (if sk then spGet none k.sk line else none) with
      | some b => b.toNat
      | none => s.lineFor c ilv line seq
  let img := (k.ph.sb.filter (fun e => e.line == line)).foldl overlay base
  if !upd then img
  else
    let us := (s.parts.filter (fun p => p.core == c.val && p.word / 64 == line)).map (fun p => (p.word, p.op, p.n, p.val)) ++
      (k.ph.upds.filter (fun u => u.word / 64 == line)).map (fun u => (u.word, u.op, u.n, u.val))
    us.foldl (fun a u =>
      let off := u.1 % 64
      imgSet a off u.2.2.1 (foldUpd u.2.1 u.2.2.1 (a / 2 ^ (8 * off) % 2 ^ (8 * u.2.2.1)) u.2.2.2)) img

/-- The superstep in which the invocation of the core's task stands. -/
def State.superstep (s : State) (c : Fin 320) : Nat :=
  match (s.core c).task.bind (fun t => (s.ctx t.osq).bind (fun x => x.invs.find? (fun i => i.uid == t.inv))) with
  | some i => i.sstep
  | none => 0

/-- The accesses of the core's task for race detection (R346), in its superstep or an older one. -/
def State.accOf (s : State) (c : Fin 320) (kind : BitVec 3) (ilv pa : Nat) (scope : BitVec 4) (old : Option Nat := none) : Option Stamp :=
  (s.core c).task.map (fun t =>
    let ss := old.getD (s.superstep c)
    { line := locKey ilv (pa / 64 * 64), core := c.val, kind := kind, inv := t.inv, osq := t.osq, ss := ss, many := false, scope := scope })

/-- Whether a read of a line keeps no stamp: SK, the weight store, a cloaked name range, a window (R335, R349). -/
def State.unstamped (s : State) (sk : Bool) (pa : Nat) : Bool :=
  sk || isWs pa || isWin pa || (s.cloakAt pa).isSome

/-- The context slot of the core's task. -/
def State.slotOf (s : State) (c : Fin 320) : Nat :=
  match (s.core c).task.bind (fun t => s.ctx t.osq) with
  | some x => x.slot.toNat
  | none => 0

/-- The failure of a phase by an uncorrectable error of a structure, at an address (R370, R378, R381). -/
def ueTrap (slot : BitVec 2) (code va : Nat) : Trap := mkTrap .ueEscalated (BitVec.ofNat 64 (code + va % 2 ^ 48 * 65536)) slot

/-- One plain read of n bytes within one line at a checked address, with its effects on caches, stamps and the SK lines:
the value, or a race trap. A doorbell line reads as zero (R433). A command's read carries the superstep of its issue and its number. A read that moves the
partials of its line into pending update entries moves them all, also past 256 entries (R118, R131; DESIGN CHOICE, log 144). -/
def State.coreRead (s : State) (c : Fin 320) (slot : BitVec 2) (va n : Nat) (upd : Bool) (old : Option (Nat × Nat) := none) :
    Except Trap (Nat × State) :=
  let (e, pa) := s.exOf c va
  let sk := exSk e
  let line := pa / 64
  if s.ueAt (exIlv e) pa then .error { (ueTrap slot 0 va) with tensor := s.hndOf c va } else
  let img := if s.isDoor pa then 0 else s.coreLine c (exIlv e) line sk upd (old.map (·.2))
  let v := img / 2 ^ (8 * (pa % 64)) % 2 ^ (8 * n)
  let k := s.core c
  let k := if sk && (spGet none k.sk line).isNone then { k with sk := spSet none k.sk line (some (BitVec.ofNat 512 (s.readPA (exIlv e) (line * 64) 64))) } else k
  let k := if upd then { k with ph := { k.ph with upds := k.ph.upds.map (fun u => if u.word / 64 == line then { u with inSb := true } else u) } } else k
  let s1 := (s.setCore c (if isWin pa then k else k.l1Touch line)).noteCv pa n
  let s1 := s1.cacheLine (c.val / 8) (s.slotOf c) (locKey (exIlv e) (line * 64)) (s.readKey (exIlv e) (line * 64)) false (exNa e) (upd || !exNa e)
  if s.unstamped sk pa then .ok (v, s1)
  else match s.accOf c 0 (exIlv e) pa 0 (old.map (·.1)) with
    | none => .ok (v, s1)
    | some a => match s.rivals a with
      | b :: _ => .error { (s.raceTrap slot a b va) with tensor := s.hndOf c va }
      | [] => .ok (v, s1.stamp a)

/-- n bytes at va for a command's read, line by line in ascending order and stamped with the superstep of its issue (R195, R360); the error is the
first race. -/
def State.engRead (s : State) (c : Fin 320) (ss : Nat × Nat) : Nat → Nat → Nat → Except Trap (List Byte × State)
  | 0, _, _ => .ok ([], s)
  | fuel + 1, va, n =>
    if n = 0 then .ok ([], s)
    else
      let m := min n (64 - va % 64)
      match s.coreRead c 3 va m false (some ss) with
      | .error t => .error { t with async := true }
      | .ok (v, s1) => match State.engRead s1 c ss fuel (va + m) (n - m) with
        | .error t => .error t
        | .ok (l, s2) => .ok (leBytes m v ++ l, s2)

/-! ## Scratchpad (R119, R144, R301) -/

/-- The scratchpad regions of a core's task: byte ranges granted to its invocation (R301). -/
def State.regionsOf (s : State) (c : Fin 320) : List (Nat × Nat) :=
  match (s.core c).task with
  | none => []
  | some t => match (s.ctx t.osq).bind (fun x => x.invs.find? (fun i => i.uid == t.inv)) with
    | none => []
    | some i => i.regions.toList.filterMap (fun r => r.map (fun g => (g.1 * 4096, g.2 * 4096)))

/-- Whether byte a lies in a granted region. -/
def State.granted (s : State) (c : Fin 320) (a : Nat) : Bool := (s.regionsOf c).any (fun r => r.1 ≤ a && a < r.1 + r.2)

/-- Whether every byte of a range lies in granted regions. -/
def State.grantedRange (s : State) (c : Fin 320) (a n : Nat) : Bool :=
  let r := s.regionsOf c
  let ok (x : Nat) : Bool := r.any (fun g => g.1 ≤ x && x < g.1 + g.2)
  (List.range ((a + n - 1) / 4096 - a / 4096 + 1)).all (fun i => ok (max a ((a / 4096 + i) * 4096))) && ok (a + n - 1)

/-- The marks of the words in a byte range. -/
def Core.marked (k : Core) (a n : Nat) : Bool := k.marks.any (fun w => a / 4 ≤ w && w ≤ (a + n - 1) / 4)

/-- Writes n bytes of the scratchpad, clearing the marks of the words written (R144). -/
def Core.putScr (k : Core) (a x n : Nat) : Core :=
  if n = 0 then k
  else { k with scr := Mem.write k.scr a x n, marks := k.marks.filter (fun w => w < a / 4 || (a + n - 1) / 4 < w) }

/-- Sets the marks of the words of a byte range (R144). -/
def Core.mark (k : Core) (a n : Nat) : Core :=
  { k with marks := (List.range ((a + n - 1) / 4 - a / 4 + 1)).foldl (fun m i => NSet.insert m (a / 4 + i)) k.marks }

/-- n bytes of the scratchpad as a number. -/
def Core.getScr (k : Core) (a n : Nat) : Nat := Mem.read k.scr a n

/-! ## Copies into rings (R199 to R201) -/

/-- Whether a command converts: its FMT and the ring's EFMT differ and FMT is not 0 (R199). -/
def cmdConv (m : Cmd) (h : Word) : Bool := m.fmt != 0 && m.fmt != hFmt h

/-- The source bytes of one slot of an XCOPY. -/
def copySrcLen (m : Cmd) (h : Word) : Nat :=
  if cmdConv m h then hSize h * 8 / codeWidth (hFmt h) * codeWidth m.fmt / 8 else hSize h

/-- Bytes that one slot of an XSTORE writes to memory (R202). -/
def storeLen (fmt : BitVec 8) (h : Word) : Nat :=
  if fmt ≠ 0 && fmt ≠ hFmt h then hSize h * 8 / codeWidth (hFmt h) * codeWidth fmt / 8 else hSize h

/-- Bytes of one row of an XCOPYS in its slot (R200): whole bytes, the last one filled up (log 63). -/
def rowLen (fmt ef : BitVec 8) (c : Nat) : Nat :=
  if fmt ≠ 0 && fmt ≠ ef then (c * codeWidth ef + codeWidth fmt - 1) / codeWidth fmt else c

/-- The rows of an XCOPYS that one slot holds (R200). -/
def rowsPer (h : Word) (m : Cmd) : Nat :=
  let l := rowLen m.fmt (hFmt h) m.c.toNat
  max 1 (if l = 0 then 1 else hSize h / l)

/-- Writes elements of w bits from byte a on; a word is marked when an element written into it is (R144, R209). A first word that the run enters in
its middle keeps the mark that the run before it left. -/
def Core.landEls (k : Core) (a w : Nat) (els : List (Nat × Bool)) : Core :=
  let n := (els.length * w + 7) / 8
  let old := a % 4 ≠ 0 && k.marks.has (a / 4)
  let k := k.putScr a (packEl w (els.map (·.1))) n
  let k := if old then k.mark a 1 else k
  (els.zipIdx).foldl (fun k x => if x.1.2 then k.mark (a + x.2 * w / 8) ((w + 7) / 8) else k) k

/-- The same for bytes with a flag each. -/
def Core.landBytes (k : Core) (a : Nat) (l : List Byte) (mk : List Bool) : Core := k.landEls a 8 ((l.zip mk).map (fun x => (x.1.toNat, x.2)))

/-- Byte flags of converted elements: byte j of the output is marked when its element's source bytes are. -/
def cvtMarks (mk : List Bool) (ws wd n : Nat) : List Bool :=
  (List.range ((n * wd + 7) / 8)).map (fun j =>
    let e0 := j * 8 / wd
    let e1 := (j * 8 + 7) / wd
    (List.range (e1 - e0 + 1)).any (fun d => mk.getD ((e0 + d) * ws / 8) false))

/-- Converts a run of n source elements to the ring's format, drawing when the entry says SR (R50, R199). -/
def State.cvtBytes (s : State) (c : Fin 320) (ft : Word) (src dst : BitVec 8) (n : Nat) (l : List Byte) (mk : List Bool) :
    List Byte × List Bool × State :=
  let ws := codeWidth src
  let wd := codeWidth dst
  let out := cvtList ft src dst s.sr (elems (leNat l) ws n)
  (leBytes ((n * wd + 7) / 8) (packEl wd out), cvtMarks mk ws wd n, { s with cur := .core c }.useDraws (ftRm ft) n)

/-- The rows of an XCOPYS lie at falling addresses: its stride is negative (R200). -/
def Cmd.falls (m : Cmd) : Bool := m.b.toInt < 0

/-- The distance between its rows or columns, without its sign. -/
def Cmd.stride (m : Cmd) : Nat := m.b.toInt.natAbs

/-- The source bytes of a whole XCOPYS, and whether it still reads them ahead of its first slot: where its stride is negative or shorter than a row,
the rows are first read in the order of their addresses, since the lines of a command are performed in ascending order (R360; log 120). -/
def Cmd.srcTotal (m : Cmd) : Nat := m.c.toNat * (m.imm + 1)
def Cmd.gathers (m : Cmd) : Bool := m.falls || m.stride < m.c.toNat
def Cmd.readAhead (m : Cmd) : Bool := m.gathers && m.got < m.srcTotal

/-- Row r by the order of the addresses of `rows` rows, and its first byte among the bytes read ahead. -/
def Cmd.rank (m : Cmd) (rows r : Nat) : Nat := if m.falls then rows - 1 - r else r
def Cmd.aheadAt (m : Cmd) (rows r : Nat) : Nat := m.rank rows r * m.stride
/-- Where what was read ahead notes that row r failed its check. -/
def Cmd.failKey (r : Nat) : Nat := 2 ^ 96 + r

/-- The progress that makes slot i of a copy whole: source bytes, or for XFILL bytes of the slot. -/
def Cmd.slotSrc (m : Cmd) (h : Word) (i : Nat) : Nat :=
  if m.op = 0x01 then copySrcLen m h
  else if m.op = 0x02 then let q := rowsPer h m
                           min q (m.imm + 1 - i * q) * m.c.toNat
  else hSize h

/-- The progress that the next unit makes from o on in slot i: the rest of the slot, inside one 4 KiB chunk counted from A (R192, R199), or whole rows
up to 4 KiB, or 4 KiB of a longer row (R200). -/
def Cmd.pieceLen (m : Cmd) (h : Word) (i o : Nat) : Nat :=
  let c := m.c.toNat
  if m.op = 0x02 then (if c ≤ 4096 then min (m.slotSrc h i - o) (4096 / c * c) else min (c - o % c) 4096)
  else min (m.slotSrc h i - o) (4096 - (i * m.slotSrc h i + o) % 4096)

/-- The parts of rows that a piece of an XCOPYS holds: row, offset in the row, bytes. -/
def Cmd.pieceRows (m : Cmd) (h : Word) (i o n : Nat) : List (Nat × Nat × Nat) :=
  let c := m.c.toNat
  let r0 := i * rowsPer h m + o / c
  if c ≤ 4096 then (List.range (n / c)).map (fun j => (r0 + j, 0, c)) else [(r0, o % c, n)]

/-- The address of row r of an XCOPYS. -/
def Cmd.rowAt (m : Cmd) (r : Nat) : Nat := (m.a + BitVec.ofNat 64 r * m.b).toNat

/-- The virtual ranges that a piece reads from memory. -/
def Cmd.srcAt (m : Cmd) (h : Word) (i o n : Nat) : List (Nat × Nat) :=
  if m.op = 0x01 then [((m.a.toNat + i * copySrcLen m h + o) % 2 ^ 64, n)]
  else if m.op = 0x02 && m.got = 0 then (m.pieceRows h i o n).map (fun r => ((m.rowAt r.1 + r.2.1) % 2 ^ 64, r.2.2))
  else []

/-- A range of a copy read under the check of its chunk or row: under `.spec` one that fails the check gives zeros, marked (R199, R200). -/
def State.copyRead (s : State) (c : Fin 320) (m : Cmd) (chk len a n : Nat) : Except Trap (List Byte × Bool × State) :=
  match s.exCheck c (chk % 2 ^ 64) len .read with
  | some (cause, fl, x) =>
    if m.fn.getLsbD 0 then .ok (List.replicate n 0, true, s)
    else .error { (addrTrap cause 3 (2048 + fl) x) with async := true, tensor := s.hndOf c x }
  | none => match s.engRead c (m.ss, m.seq) (n + 1) (a % 2 ^ 64) n with
    | .error t => .error t
    | .ok (l, s) => .ok (l, false, s)

/-- Part of a row of an XCOPYS: from memory, or from what was read ahead. -/
def State.rowRead (s : State) (c : Fin 320) (m : Cmd) (r : Nat × Nat × Nat) : Except Trap (List Byte × Bool × State) :=
  if m.got ≠ 0 then
    let bad := m.acc.get (Cmd.failKey r.1) == 1
    .ok (leBytes r.2.2 (if bad then 0 else Mem.read m.acc (m.aheadAt (m.imm + 1) r.1 + r.2.1) r.2.2), bad, s)
  else s.copyRead c m (m.rowAt r.1) m.c.toNat (m.rowAt r.1 + r.2.1) r.2.2

/-- Parts of rows read one after the other. -/
def State.rowsRead (s : State) (c : Fin 320) (m : Cmd) : List (Nat × Nat × Nat) → Except Trap (List (List Byte × Bool) × State)
  | [] => .ok ([], s)
  | r :: l => match s.rowRead c m r with
    | .error t => .error t
    | .ok (x, b, s) => match State.rowsRead s c m l with
      | .error t => .error t
      | .ok (y, s) => .ok ((x, b) :: y, s)

/-- One piece of slot i of a copy, strided copy or fill, from progress o on (R199, R200, R201): where in the slot it lands, its bytes and their
flags. -/
def State.copyPiece (s : State) (c : Fin 320) (m : Cmd) (i o n : Nat) : Except Trap (Nat × List Byte × List Bool × State) :=
  let h := ((s.core c).rings[m.h.toFin]).h
  let sz := hSize h
  if m.op = 0x10 then
    let w := if m.fmt = 0 then 64 else codeWidth m.fmt
    .ok (o, leBytes n (packEl w (List.replicate (n * 8 / w) (m.a.toNat % 2 ^ w))), List.replicate n (m.fn.getLsbD 0), s)
  else if m.op = 0x01 then
    let len := copySrcLen m h
    let off := i * len + o
    let c0 := off / 4096 * 4096
    match s.copyRead c m (m.a.toNat + c0) (min 4096 (len * (m.imm + 1) - c0)) (m.a.toNat + off) n with
    | .error t => .error t
    | .ok (l, b, s) =>
      let mk := List.replicate n b
      if cmdConv m h then
        .ok (o * codeWidth (hFmt h) / codeWidth m.fmt, s.cvtBytes c m.ft m.fmt (hFmt h) (n * 8 / codeWidth m.fmt) l mk)
      else .ok (o, l, mk, s)
  else
    let row := m.c.toNat
    let ol := rowLen m.fmt (hFmt h) row
    let rs := m.pieceRows h i o n
    match s.rowsRead c m rs with
    | .error t => .error t
    | .ok (x, s) =>
      let r := x.foldl (fun (a : List Byte × List Bool × State) y =>
        let mk := List.replicate y.1.length y.2
        if cmdConv m h then
          let z := a.2.2.cvtBytes c m.ft m.fmt (hFmt h) (y.1.length * 8 / codeWidth m.fmt) y.1 mk
          (a.1 ++ z.1, a.2.1 ++ z.2.1, z.2.2)
        else (a.1 ++ y.1, a.2.1 ++ mk, a.2.2)) ([], [], s)
      let d := o / row * ol + (if cmdConv m h then o % row * codeWidth (hFmt h) / codeWidth m.fmt else o % row)
      let pad := if o + n = m.slotSrc h i then sz - (d + r.1.length) else 0
      .ok (d, r.1 ++ List.replicate pad 0, r.2.1 ++ List.replicate pad false, r.2.2)

/-- The lines of window addresses that lie in virtual ranges. -/
def State.winLines (s : State) (c : Fin 320) (l : List (Nat × Nat)) : List Nat :=
  l.flatMap (fun x => if x.2 = 0 then [] else
    (List.range ((x.1 + x.2 - 1) / 64 - x.1 / 64 + 1)).filterMap (fun i =>
      let va := max x.1 ((x.1 / 64 + i) * 64)
      let pa := (s.exOf c va).2
      if isWin pa then some (pa / 64 * 64) else none))

/-- A piece lands in the slot at byte a of the scratchpad. -/
def State.landPiece (s : State) (c : Fin 320) (m : Cmd) (i a o n : Nat) : Except Trap State :=
  match s.copyPiece c m i o n with
  | .error t => .error t
  | .ok (d, l, b, s) => .ok (s.modCore c (fun k => k.landBytes (a + d) l b))

/-- The pieces of slot i from progress o on, up to `fuel` of them; the second part is the failure that stops them. -/
def State.landPieces (s : State) (c : Fin 320) (m : Cmd) (i a : Nat) : Nat → Nat → State × Option Trap
  | 0, _ => (s, none)
  | f + 1, o =>
    let h := ((s.core c).rings[m.h.toFin]).h
    if m.slotSrc h i ≤ o then (s, none)
    else
      let n := m.pieceLen h i o
      match s.landPiece c m i a o n with
      | .error t => (s, some t)
      | .ok s => State.landPieces s c m i a f (o + n)

end Sys2Proof.Machine
end

