-- ==== Sys2Proof/Machine/Rings.lean ====
section
/-! DEFINITION. Ring slots and scratchpad ranges as engine commands see them: which slots a command fills and reads (R194, R166, R124), which
earlier commands it waits for (R195), and which of the core's commands can go on at all (R385). -/

namespace Sys2Proof.Machine

/-! ## Slots (R194, R166, R124) -/

/-- The distance from an index to the first slot of ring h that the array still holds although a core advance has passed it (R166): a slot that an
MPUSH waits for is open until its data has landed, one that an MDRAIN waits for until it has been read; the tau slot of an MQR is held from when it has
been free (R181). -/
def Core.heldDist (k : Core) (h : BitVec 4) (cons : Bool) : Nat :=
  let r := k.rings[h.toFin]
  let n := hSlots r.h
  let d (i slot : Nat) : Nat := (slot + n - i % n) % n
  k.arr.queue.foldl (fun a e => match e.op with
    | .mpush g slot _ _ _ _ _ => if cons && e.run && g == h then min a (d (hProd r.h) slot) else a
    | .mdrain g slot _ _ _ _ => if !cons && e.run && g == h then min a (d (hCons r.h) slot) else a
    | .fact op _ _ _ _ _ _ g slot => if !cons && op == 3 && e.run && k.arr.fact.any (·.free) && g == h then min a (d (hCons r.h) slot) else a
    | _ => a) n

/-- Free slots for an engine that produces into ring h. -/
def Core.room (k : Core) (h : BitVec 4) : Nat :=
  let r := k.rings[h.toFin]
  min (hSlots r.h - hFill r.h - (if hPh r.h then r.pendC else 0)) (k.heldDist h true)

/-- Filled slots for an engine that consumes from ring h. -/
def Core.filled (k : Core) (h : BitVec 4) : Nat :=
  let r := k.rings[h.toFin]
  min (hFill r.h - (if hPh r.h then r.pendP else 0)) (k.heldDist h false)

/-- The ring that a command fills, and the ring that it reads. -/
def Cmd.outH (m : Cmd) : Option (BitVec 4) :=
  match m.op.toNat with
  | 0x01 | 0x02 | 0x10 | 0x07 | 0x08 | 0x0A | 0x0B => some m.h
  | _ => none
def Cmd.inH (m : Cmd) : Option (BitVec 4) :=
  match m.op.toNat with
  | 0x03 | 0x0C => some m.h
  | 0x08 | 0x0A | 0x0B => some m.h2
  | _ => none

/-- The slots of the one ring, or of each ring, that a command fills or reads (R198 to R213). -/
def Cmd.units (k : Core) (m : Cmd) : Nat :=
  match m.op.toNat with
  | 0x01 | 0x03 | 0x10 => m.imm + 1
  | 0x02 => let q := rowsPer k.rings[m.h.toFin].h m
            (m.imm + q) / q
  | _ => 1

/-- The physical slot that a command starts from on the side it fills and on the side it reads: fixed once it has begun, until then the index with its
effective offset (DEDUCED, log 120). -/
def Core.outBase (k : Core) (m : Cmd) (h : BitVec 4) : Nat :=
  let r := k.rings[h.toFin]
  if m.run then m.slot else (hProd r.h + m.eff) % hSlots r.h
def Core.inBase (k : Core) (m : Cmd) (h : BitVec 4) : Nat :=
  let r := k.rings[h.toFin]
  let two := m.outH.isSome
  if m.run then (if two then m.slot2 else m.slot) else (hCons r.h + (if two then m.eff2 else m.eff)) % hSlots r.h

/-- The place of a command's first slot in the count of slots that a side's index has stepped past: fixed once it has begun, until then the index with
the effective offset (R194). -/
def Core.outAt (k : Core) (m : Cmd) (h : BitVec 4) : Nat := if m.run then m.at1 else k.rings[h.toFin].adP + m.eff
def Core.inAt (k : Core) (m : Cmd) (h : BitVec 4) : Nat :=
  if m.run then (if m.outH.isSome then m.at2 else m.at1) else k.rings[h.toFin].adC + (if m.outH.isSome then m.eff2 else m.eff)

/-- How far place p lies ahead of an index that has stepped past `ad` slots of a ring of n. -/
def ahead (p ad n : Nat) : Nat := if ad ≤ p then p - ad else (n - (ad - p) % n) % n

/-- Slot i of the ring that a command fills, once the engine may write it (R194): as many slots must be free as lie up to it, a whole lap included. -/
def Core.outSlot (k : Core) (m : Cmd) (h : BitVec 4) (i : Nat) : Option Nat :=
  let r := k.rings[h.toFin]
  let d := ahead (k.outAt m h + i) r.adP (hSlots r.h)
  if d < k.room h then some ((hProd r.h + d) % hSlots r.h) else none

/-- Slot i of the ring that a command reads, once the engine may read it (R194). -/
def Core.inSlot (k : Core) (m : Cmd) (h : BitVec 4) (i : Nat) : Option Nat :=
  let r := k.rings[h.toFin]
  let d := ahead (k.inAt m h + i) r.adC (hSlots r.h)
  if d < k.filled h then some ((hCons r.h + d) % hSlots r.h) else none

/-- A command begins: its first slots are fixed. -/
def Core.begin (k : Core) (m : Cmd) : Cmd :=
  if m.run then m
  else match m.outH, m.inH with
    | some h, some g => { m with run := true, slot := k.outBase m h, at1 := k.outAt m h, slot2 := k.inBase m g, at2 := k.inAt m g }
    | some h, none => { m with run := true, slot := k.outBase m h, at1 := k.outAt m h }
    | none, some g => { m with run := true, slot := k.inBase m g, at1 := k.inAt m g }
    | none, none => { m with run := true }

/-- ENGINE_SLOT_ADVANCE: the engine-side index steps past the done slots at its head (R194). -/
def Ring.stepW (r : Ring) : Nat → Ring
  | 0 => r
  | n + 1 => if r.doneW.has (hProd r.h) && hFill r.h < hSlots r.h then
      Ring.stepW { r with doneW := r.doneW.erase (hProd r.h), h := hAdvP r.h 1, adP := r.adP + 1 } n else r
def Ring.stepR (r : Ring) : Nat → Ring
  | 0 => r
  | n + 1 => if r.doneR.has (hCons r.h) && 0 < hFill r.h then
      Ring.stepR { r with doneR := r.doneR.erase (hCons r.h), h := hAdvC r.h 1, adC := r.adC + 1 } n else r

/-- Slot p of ring h has been wholly written, or wholly read. -/
def Core.slotDone (k : Core) (h : BitVec 4) (p : Nat) (written : Bool) : Core :=
  let r := k.rings[h.toFin]
  let r := if written then Ring.stepW { r with doneW := r.doneW.insert p } (hSlots r.h)
    else Ring.stepR { r with doneR := r.doneR.insert p } (hSlots r.h)
  { k with rings := k.rings.set h.toFin r }

/-- Whether every ring advance of a finished command has been made (R196). -/
def Core.advanced (k : Core) (m : Cmd) : Bool :=
  (match m.outH with
    | some h => let r := k.rings[h.toFin]
                (List.range (m.units k)).all (fun i => !r.doneW.has ((m.slot + i) % hSlots r.h))
    | none => true) &&
  (match m.inH with
    | some h => let r := k.rings[h.toFin]
                (List.range (m.units k)).all (fun i => !r.doneR.has (((if m.outH.isSome then m.slot2 else m.slot) + i) % hSlots r.h))
    | none => true)

/-! ## Order between commands (R192, R195, R170) -/

/-- The class of a command, in the order of R192: 0 the copy engine .. 8 the fence agent. -/
def Cmd.cls (m : Cmd) : Fin 9 :=
  match m.op.toNat with
  | 0x04 => 1 | 0x05 => 1 | 0x06 => 2 | 0x07 => 3 | 0x08 => 4 | 0x09 => 5 | 0x0A => 5 | 0x0B => 6 | 0x0C => 7 | 0x0D => 7 | 0x0E => 8
  | _ => 0

/-- Commands issued before m that have not completed (R196). -/
def Core.earlier (k : Core) (m : Cmd) : List Cmd :=
  (k.eng.queue ++ k.eng.cls.toList.flatten).filter (fun x => x.seq < m.seq && !(x.fin && k.advanced x))

/-- A scratchpad range of a command: first byte, length, whether it is written. -/
abbrev Foot := Nat × Nat × Bool

/-- The elements of FMT that a slot holds. -/
def slotEls (h : Word) (fmt : BitVec 8) : Nat := hSize h * 8 / codeWidth fmt

/-- The scratchpad bytes that a command reads and writes: its slots, and an index list or a descriptor (R195, R208, R209). -/
def Cmd.feet (k : Core) (m : Cmd) : List Foot :=
  let slots (h : BitVec 4) (out : Bool) (base : Nat) : List Foot :=
    let x := k.rings[h.toFin].h
    (List.range (m.units k)).map (fun i => (hByte x ((base + i) % hSlots x), hSize x, out))
  (match m.outH with
    | some h => slots h true (k.outBase m h)
    | none => []) ++
  (match m.inH with
    | some h => slots h false (k.inBase m h)
    | none => []) ++
  (if m.op = 0x08 && m.fn.getLsbD 0 then [(m.a.toNat, 2 * slotEls k.rings[m.h.toFin].h m.fmt, false)]
   else if m.op = 0x07 then [(m.a.toNat, 64, false)] else [])

/-- Two ranges overlap and one of them is written (R195). -/
def feetClash (x y : Foot) : Bool := (x.2.2 || y.2.2) && x.1 < y.1 + y.2.1 && y.1 < x.1 + x.2.1

/-- Two commands of a class that touch one function table, or the bins, keep their issue order (R192, R210, R214). -/
def unitClash (x m : Cmd) : Bool :=
  (m.cls = 5 && x.cls = 5 && (m.op = 0x09 || x.op = 0x09) && x.fn.toNat % 4 == m.fn.toNat % 4 && !x.fin) || (m.op = 0x0D && x.op = 0x0C && !x.fin)

/-- An earlier command holds m back by the scratchpad bytes, the table or the bins that both touch (R195, R210, R214). -/
def Core.clashes (k : Core) (m : Cmd) : Bool :=
  (k.earlier m).any (fun x => (x.feet k).any (fun a => (m.feet k).any (feetClash a)) || unitClash x m)

def Cmd.writesW (m : Cmd) : Bool := m.op == 0x06 || m.op == 0x07

/-! ## Whether a core's commands can go on (R385) -/

/-- The rows that an XGATH places, from its descriptor (R208). -/
def Core.gathRows (k : Core) (m : Cmd) : Nat := k.getScr (m.a.toNat + 32) 2

/-- A command's next unit waits for a ring slot (R194); an XGATH needs its slot only for the report after its last row. -/
def Core.slotWait (k : Core) (m : Cmd) : Bool :=
  let i := if m.op = 0x03 then m.moved / max 1 (storeLen m.fmt k.rings[m.h.toFin].h) else if m.op = 0x01 || m.op = 0x02 || m.op = 0x10 then m.unit else 0
  !(m.op = 0x02 && m.readAhead) && !(m.op = 0x07 && m.unit < 3 * k.gathRows m) &&
  ((m.outH.any (fun h => (k.outSlot m h i).isNone)) || (m.inH.any (fun h => (k.inSlot m h i).isNone)))

/-- A command cannot go on unless the core or the array does: it waits for a slot, for an earlier command's bytes, or behind an MLDW (R170). -/
def Core.cmdStuck (k : Core) (m : Cmd) : Bool :=
  if m.fin then !k.advanced m
  else k.slotWait m || k.clashes m ||
    (m.writesW && ((k.earlier m).any Cmd.writesW || k.arr.queue.any (fun e => e.seq < m.seq && (match e.op with
      | .mldw _ _ _ _ => true
      | _ => false))))

/-- None of the core's engine commands can go on. -/
def Core.engStuck (k : Core) : Bool :=
  k.eng.cls.toList.all (fun q => match q with
    | [] => true
    | m :: r => k.cmdStuck m && (!m.run || r.all k.cmdStuck)) &&
  (match k.eng.queue with
    | [] => true
    | m :: _ => 2 ≤ (k.eng.cls[m.cls]).length)

/-- The engine commands of a core that have not completed. -/
def Core.cmds (k : Core) : List Cmd := k.eng.queue ++ k.eng.cls.toList.flatten

/-- A landing, an immediate flip or a fold of the core's engines is to come: a superstep's end waits for it (R137, R353). -/
def Core.changesDue (k : Core) : Bool := k.cmds.any (fun m => !m.fin && (m.op == 0x03 || (m.op == 0x04 && m.fn.getLsbD 0) || m.op == 0x0E))

/-- The command has yet to read device memory. -/
def Cmd.readsMem (m : Cmd) : Bool := [0x01, 0x02, 0x06, 0x07, 0x09].contains m.op.toNat && !m.fin

/-! ## Reads that come before a later write (R347, R350, R353) -/

/-- Before a line changes, its image is kept for the commands that p names and that have yet to read: their reads come first (DEDUCED, log 120). -/
def Core.keepOld (k : Core) (p : Cmd → Bool) (line : Nat) (img : BitVec 512) : Core :=
  let todo := k.cmds.filter Cmd.readsMem
  let below := ((todo.filter p).map (fun m => m.seq + 1)).foldl max 0
  let old := k.old.filter (fun e => todo.any (fun m => m.seq < e.seq))
  { k with old := if below = 0 || old.any (fun e => e.line == line && below ≤ e.seq) then old else old ++ [{ seq := below, line := line, img := img }] }

/-- Before invocation uid writes to a line in superstep ss, the line's image is kept for its cores' commands of earlier supersteps, and for those that core
`own` numbered below `bound`. -/
def State.keepOld (s : State) (own : Option (Fin 320)) (bound : Nat) (q : Fin 16) (uid ss ilv line : Nat) : State :=
  if s.cores.all (fun k => k.eng.queue.isEmpty && k.eng.cls.all (·.isEmpty)) then s
  else
    let img := BitVec.ofNat 512 (s.readPA ilv (line * 64) 64)
    let key := locKey ilv (line * 64)
    { s with cores := s.cores.mapFinIdx (fun i k _ =>
        let mine := own.any (fun c => c.val == i)
        if k.task.any (fun t => t.osq == q && t.inv == uid) && (mine || k.cmds.any (fun m => m.ss < ss)) then
          k.keepOld (fun m => m.ss < ss || (mine && m.seq < bound)) key img
        else k) }

end Sys2Proof.Machine
end

