-- ==== Sys2Proof/Machine/Phase.lean ====
section
/-! DEFINITION. Commit and cancellation of a phase (R107, R118, R131, R197, R203, R205, R379), the fold of partials (R131),
flips of cloaked buffers (R342), inbound admission and enqueues (R428 to R434). -/

namespace Sys2Proof.Machine

/-! ## Copies dropped (R322, R342, R364) -/

/-- Drops every L1 and L2 copy of the lines of a physical range that scheme ilv places (R322, R342, R364); an update-only line moves its partials
as at an eviction (R130). -/
def State.invalAt (s : State) (ilv pa n : Nat) : State :=
  let inside (l : Nat) : Bool := pa / 64 ≤ l && l ≤ (pa + n - 1) / 64
  let keys := (List.range ((pa + n - 1) / 64 - pa / 64 + 1)).map (fun i => locKey ilv ((pa / 64 + i) * 64))
  { s with
    cores := s.cores.map (fun k => if k.sk = [] && k.l1 = [] then k else
      { k with sk := k.sk.filter (fun e => !inside e.1),
               l1 := (k.l1.map (fun x => (x.1, x.2.filter (fun l => !inside l)))).filter (fun x => x.2 != []),
               ph := { k.ph with upds := k.ph.upds.map (fun u => if inside (u.word / 64) then { u with inSb := true } else u) } })
    clus := s.clus.map (fun c => if c.l2 = [] then c else
      { l2 := (c.l2.map (fun x => (x.1, x.2.filter (fun y => !keys.contains y.1)))).filter (fun x => x.2 != []) }) }

/-- The same under the scheme that the frame is mapped under (log 4). -/
def State.invalRange (s : State) (pa n : Nat) : State := s.invalAt (s.frameIlv pa) pa n

/-! ## Flips (R203, R205, R342) -/

/-- The stamp that marks a publish of buffer i (R205). -/
def flipStamp (a : Stamp) (i : Nat) : Stamp := { a with line := 2 ^ 60 + i, kind := 6 }

/-- Flips buffer i at its home: FRONT, FLIPS, written bits, copies of the name range. -/
def State.flip (s : State) (i : Nat) (w : BitVec 128) : State :=
  let flips := w.toNat / 2 ^ 18 % 2 ^ 16
  let n := (w ^^^ (1#128 <<< 41)).toNat
  let n := n - flips * 2 ^ 18 + (flips + 1) % 2 ^ 16 * 2 ^ 18
  let s := { (s.setCloak i (BitVec.ofNat 128 n)) with cwrit := s.cwrit.filter (fun e => e.1 != i) }
  s.invalAt (clIlv w) (clName w) (clBytes w)

/-- Publishes buffer i for core c: a second publish in a superstep has no effect without landings, else races (R205). -/
def State.publish (s : State) (c : Fin 320) (slot : BitVec 2) (i : Nat) : Except Trap State :=
  match s.cloaks.find? (fun e => e.1 = i) with
  | none => .ok s
  | some (_, w) =>
    match s.accOf c 6 0 0 0 with
    | none => .ok (s.flip i w)
    | some a =>
      let st := flipStamp a i
      match s.stamps.find? (fun b => b.line == st.line && b.kind == 6 && b.osq == a.osq && b.inv == a.inv && b.ss == a.ss) with
      | none => .ok ((s.flip i w).stamp st)
      | some b =>
        if (s.cwrit.filter (fun e => e.1 = i)).isEmpty then .ok s
        else .error (s.raceTrap slot { a with kind := 4 } { b with kind := 4 } (clName w))

/-- Reverts back-copy bytes to the front (R204, R342). -/
def State.revert (s : State) (l : List (Nat × Nat)) : State :=
  l.foldl (fun s e =>
    match s.cloaks.find? (fun x => x.1 = e.1) with
    | none => s
    | some (_, w) =>
      let f := Mem.get s.mem (cloakKey w (clName w + e.2) true)
      { s with mem := Mem.set s.mem (cloakKey w (clName w + e.2) false) f,
               cwrit := s.cwrit.filter (fun x => !(x.1 = e.1 && x.2.1 = e.2)) }) s

/-! ## Partials (R131) -/

/-- Passes partials of core c to its cluster's L2 (R131): one partial per core and word, a word being an address with a size. -/
def State.passParts (s : State) (c : Fin 320) (t : Task) (l : List Upd) : State :=
  l.foldl (fun s u =>
    let same (p : Part) : Bool := p.core == c.val && p.word == u.word && p.n == u.n && p.osq == t.osq && p.inv == t.inv
    match s.parts.find? same with
    | some p => { s with parts := s.parts.map (fun p' => if same p' then { p with val := foldUpd u.op u.n p.val u.val, op := u.op } else p') }
    | none => { s with parts := s.parts ++ [{ word := u.word, op := u.op, n := u.n, core := c.val, osq := t.osq, inv := t.inv, val := u.val, ilv := u.ilv }] }) s

/-- Folds one n-byte word at its home (R334): cores ascending within a cluster, clusters ascending at the home (R131). -/
def State.foldWord (s : State) (ps : List Part) (word n ilv : Nat) : State :=
  let clu (i : Nat) : Option (BitVec 4 × Nat) :=
    (List.range 8).foldl (fun acc j =>
      (ps.filter (fun p => p.core == 8 * i + j)).foldl (fun acc p =>
        match acc with
        | none => some (p.op, p.val)
        | some (_, v) => some (p.op, foldUpd p.op n v p.val)) acc) none
  let v := (List.range 40).foldl (fun v i => match clu i with
    | none => v
    | some (op, x) => foldUpd op n v x) (s.readPA ilv word n)
  let key := locKey ilv (word / 64 * 64)
  let q := ((ps.head?).bind (fun p => s.ctx p.osq)).elim 0 (·.slot.toNat)
  if s.isDoor word then s else (s.homeLine q key key (s.frameNa word)).writePA ilv word v n

/-- A word put into a list of words in ascending order of address, then size; a word already there stays. -/
def wordIns (x : Nat × Nat × Nat) : List (Nat × Nat × Nat) → List (Nat × Nat × Nat)
  | [] => [x]
  | y :: l => if x.1 = y.1 ∧ x.2.1 = y.2.1 then y :: l else if x.1 < y.1 ∨ (x.1 = y.1 ∧ x.2.1 < y.2.1) then x :: y :: l else y :: wordIns x l

/-- Folds every partial of an invocation into its word (R131, R137 step 3); words of different sizes at one place fold in ascending order of
size (DESIGN CHOICE, log 25). -/
def State.foldParts (s : State) (q : Fin 16) (uid : Nat) : State :=
  let mine := s.parts.filter (fun p => p.osq == q && p.inv == uid)
  let words := mine.foldl (fun l p => wordIns (p.word, p.n, p.ilv) l) []
  let s := words.foldl (fun s w => s.foldWord (mine.filter (fun p => p.word == w.1 && p.n == w.2.1)) w.1 w.2.1 w.2.2) s
  { s with parts := s.parts.filter (fun p => !(p.osq == q && p.inv == uid)) }

/-! ## Commit (R107) -/

/-- What PHASE waits for (R107): no outstanding load, and every XSTORE of the phase landed. -/
def Core.phaseReady (k : Core) : Bool :=
  k.fr.outs.isEmpty &&
  !(k.eng.queue.any (fun m => m.op == 0x03 && m.phase == k.ph.num)) &&
  !(k.eng.cls.toList.any (fun l => l.any (fun m => m.op == 0x03 && m.phase == k.ph.num && !m.fin)))

/-- The first race that committing the entries and updates of core c meets (R118, R351). -/
def State.commitRace (s : State) (c : Fin 320) : Option Trap :=
  let k := s.core c
  let sbr := k.ph.sb.findSome? (fun e =>
    if isWin (e.line * 64) then none
    else (s.accOf c 1 e.ilv (e.line * 64) 0).bind (fun a => (s.rivals a).head?.map (fun b => { (s.raceTrap 0 a b e.va) with tensor := s.hndOf c e.va })))
  match sbr with
  | some t => some t
  | none =>
    match k.ph.races with
    | t :: _ => some t
    | [] => k.ph.upds.findSome? (fun u =>
      (s.accOf c 2 u.ilv u.word 0).bind (fun a => (s.rivals a).head?.map (fun b => { (s.raceTrap 0 a b u.va) with tensor := s.hndOf c u.va })))

/-- Drains one store buffer entry (R118, R352): device memory takes its bytes with a stamp; a window takes a request; a doorbell
line takes an enqueue. The second part is a SIGNAL_ACCESS of the line (R431), which names the operand that the store hit (R371). The reads of the
commands numbered below `bound` come before it (R347). -/
def State.drain1 (s : State) (c : Fin 320) (e : SbEnt) (bound : Nat := (s.core c).issued) : State × Option Trap :=
  let pa := e.line * 64
  let tag := (s.core c).tilectx
  let sig (a : Nat) (d : BitVec 12) (r : Nat) : Trap :=
    { cause := .signalAccess, info := sigInfo a d r, slot := none, ring := none, tensor := s.hndOf c e.va, async := true, note := [] }
  if isWin pa then
    if s.noRoute pa then (s, some (sig (peerAddrOf pa) (s.devOf pa) 0))
    else
      let t := (s.core c).task
      (s.sendReq { unit := .core c, dev := s.devOf pa, addr := pa, kind := 1, op := 0, n := 64, tick := s.tb.toNat,
                   uid := (t.map (·.inv)).getD 0, osq := (t.map (·.osq)).getD 0, mask := e.mask, data := e.data, blocked := false,
                   st := 0, reason := 0, hnd := s.hndOf c e.va } true, none)
  else if s.isDoor pa then
    let src := BitVec.ofNat 12 (bits s.plat.fabId 11 0)
    match s.letIn src tag pa 64 1 with
    | (some r, s) => (s, some (sig pa src r.toNat))
    | (none, s) => match s.enqueue src tag pa e.mask e.data with
      | (some r, s) => (s, some (sig pa src r.toNat))
      | (none, s) => (s, none)
  else
    let s0 := match (s.core c).task with
      | some t => s.keepOld (some c) bound t.osq t.inv (s.superstep c) e.ilv e.line
      | none => s
    let s1 := (List.range 64).foldl (fun s i => if e.mask.getLsbD i then s.writeByte e.ilv (pa + i) (BitVec.ofNat 8 (e.data.toNat / 2 ^ (8 * i))) else s) s0
    let s1 := match s1.accOf c 1 e.ilv pa 0 with
      | some a => s1.stamp a
      | none => s1
    let k := s1.core c
    let s1 := match spGet none k.sk e.line with
      | none => s1
      | some old => s1.setCore c { k with sk := spSet none k.sk e.line (some (BitVec.ofNat 512 (overlay old.toNat e))) }
    (s1.cacheLine (c.val / 8) (s.slotOf c) (locKey e.ilv pa) (locKey e.ilv pa) true (exNa (s.exOf c e.va).1) true, none)

/-- Drains every entry in order; the last SIGNAL_ACCESS met. -/
def State.drainAll (s : State) (c : Fin 320) (l : List SbEnt) (bound : Nat := (s.core c).issued) : State × Option Trap :=
  l.foldl (fun (r : State × Option Trap) e =>
    let (s, t) := r.1.drain1 c e bound
    (s, match r.2 with
      | some x => some x
      | none => t)) (s, none)

/-- The checkpoint at a bundle (R107 step 5): `pc` the next bundle, results in flight to s0 .. s47 with positions counted
from it. -/
def Core.checkpoint (k : Core) (pc : Nat) : Ckpt :=
  { pc := pc, rtn := k.fr.rtn, s := k.fr.s, sp := k.fr.sp,
    fl := k.fr.fl.filter (fun f => match f.dst with
      | .s r _ _ => r.toNat < 48
      | _ => false),
    rings := k.rings, loops := k.loops }

/-- The commit of core c's phase (R107) with the next bundle at pc: the new state and a SIGNAL_ACCESS of a line, or the race that stops it. The reads of
the commands numbered below `bound` come before it (R347). -/
def State.phaseCommit (s : State) (c : Fin 320) (pc : Nat) (bound : Nat := (s.core c).issued) : Except Trap (State × Option Trap) :=
  match s.commitRace c with
  | some t => .error t
  | none =>
    -- 1 rings: the core-side advances become visible to engines (R124)
    let k := s.core c
    let rings := k.rings.map (fun r => { r with pendC := 0, pendP := 0 })
    let gone (f : Refetch) : Bool :=
      let r := k.rings[f.h.toFin]
      hGeo r.h != f.geo || (List.range r.pendC).any (fun i => (hCons r.h + hSlots r.h * 2 - 1 - i) % hSlots r.h == f.slot)
    let k := { k with rings := rings, ph := { k.ph with refetch := k.ph.refetch.filter (fun f => !gone f) } }
    let s := s.setCore c k
    -- 2 store buffer
    let (s, sig) := s.drainAll c k.ph.sb bound
    -- 3 cloaks
    let pub := k.ph.enrol.foldl (fun (r : Except Trap State) i => match r with
      | .error t => .error t
      | .ok s => s.publish c 0 i) (.ok s)
    match pub with
    | .error t => .error t
    | .ok s =>
      -- 4 updates
      let s := match (s.core c).task with
        | none => s
        | some t => k.ph.upds.foldl (fun (s : State) (u : Upd) => match s.accOf c 2 u.ilv u.word 0 with
            | some a => s.stamp a
            | none => s) (s.passParts c t k.ph.upds)
      -- 5 checkpoint; the next phase begins
      let k := s.core c
      let num := s.phases + 1
      let s := { s with phases := num }
      .ok (s.setCore c { k with ph := { Phase.reset with num := num, ckpt := k.checkpoint pc, refetch := k.ph.refetch } }, sig)

/-! ## Cancellation (R197, R379, R380) -/

/-- Removes the phase's engine commands, their tags dropping (R196, R197). -/
def Engines.dropPhase (e : Engines) (num : Nat) : Engines :=
  let inP (m : Cmd) : Bool := m.phase == num
  let gone := e.queue.filter inP ++ e.cls.toList.flatten.filter inP
  { e with queue := e.queue.filter (fun m => !inP m), cls := e.cls.map (fun l => l.filter (fun m => !inP m)),
           ntag := gone.foldl (fun t m => t.set m.tag.toFin (t[m.tag.toFin] - 1)) e.ntag }

/-- Removes the phase's M-slot entries; a factorisation of the phase returns FS to idle (R190). -/
def MArr.dropPhase (a : MArr) (num : Nat) : MArr :=
  let hitFact := a.queue.any (fun e => e.phase == num && e.run && match e.op with
    | .fact _ _ _ _ _ _ _ _ _ => true
    | _ => false)
  { a with queue := a.queue.filter (fun e => e.phase != num), fs := if hitFact then a.fs &&& 0x80000000 else a.fs, fact := if hitFact then none else a.fact }

/-- The virtual ranges from which a descriptor's slot is read. -/
def Refetch.src (f : Refetch) (h : Word) : List (Nat × Nat) :=
  if f.cmd.op = 0x01 then f.cmd.srcAt h f.unit 0 (f.cmd.slotSrc h f.unit)
  else if f.cmd.op = 0x02 then
    let q := rowsPer h f.cmd
    (List.range (min q (f.cmd.imm + 1 - f.unit * q))).map (fun j => (f.cmd.rowAt (f.unit * q + j), f.cmd.c.toNat))
  else []

/-- Lands again the filled slots of phased rings that have a descriptor, in the original issue order (R380). A slot whose source lies behind a window
waits for the answers, and one whose reads spill stamps for room in the table (R336): the core stands until ENGINE_UNIT has landed it. A failure is on its way to the core as any other of the engine. -/
def State.refetchAll (s : State) (c : Fin 320) : State :=
  (s.core c).ph.refetch.foldl (fun s f =>
    let r := (s.core c).rings[f.h.toFin]
    let d := (f.slot + hSlots r.h - hCons r.h % hSlots r.h) % hSlots r.h
    if hFill r.h ≤ d || hGeo r.h != f.geo then s
    else
      let later (s : State) : State := s.modCore c (fun k => { k with ph := { k.ph with redo := k.ph.redo ++ [f] } })
      if !(s.winLines c (f.src r.h)).isEmpty then later s
      else match s.landPieces c f.cmd f.unit (hByte r.h f.slot) (f.cmd.slotSrc r.h f.unit / 1024 + 8) 0 with
      | (t, none) => (match s.spillOver t with
        | some d => later (s.askSpill d)
        | none => t)
      | (s, some t) => s.modCore c (fun k => { k with async := k.async ++ [t] })) s

/-- Cancels core c's phase in one step (R379); the attempt restarts at the checkpoint. Failures on their way that come from commands of earlier phases
stay so. -/
def State.cancelPhase (s : State) (c : Fin 320) : State :=
  let k := s.core c
  let p := k.ph
  let s := s.revert p.landed
  let k := s.core c
  let ck := p.ckpt
  let keep := (List.range 16).foldl (fun (v : Vector Word 64) i => v.set (Fin.ofNat 64 (48 + i)) (k.fr.s[Fin.ofNat 64 (48 + i)])) ck.s
  let lowMask : BitVec 64 := BitVec.ofNat 64 (2 ^ 48 - 1)
  let bankS := match k.hs with
    | none => keep
    | some h => (List.range 8).foldl (fun (v : Vector Word 64) i => v.set (Fin.ofNat 64 (56 + i)) (h.bank[Fin.ofNat 8 i])) keep
  let bankP := match k.hs with
    | none => k.fr.sp
    | some h => BitVec.ofNat 64 (k.fr.sp.toNat % 2 ^ 56 + h.bankp.toNat * 2 ^ 56)
  let fr := { k.fr with pc := ck.pc, rtn := ck.rtn, s := bankS, sp := blend bankP ck.sp lowMask, fl := ck.fl, outs := [] }
  let k := { k with fr := fr, rings := ck.rings, loops := ck.loops, eng := k.eng.dropPhase p.num, arr := k.arr.dropPhase p.num,
                    dbg := { k.dbg with supp := none }, hs := none, held := [], async := (k.held ++ k.async).filter (fun t => t.phase != some p.num), cinchN := 0, cinchC := 0xFFFFFFFF,
                    ph := { p with sb := [], upds := [], enrol := [], landed := [], races := [], irrev := false, redo := [] } }
  let live (r : FReq) : Bool := k.eng.cls.toList.flatten.any (fun m => m.seq == r.mask.toNat)
  ((s.setCore c k).orphan (fun r => r.unit == .core c && (r.kind == 0 || (r.kind == 3 && !live r)))).refetchAll c

end Sys2Proof.Machine
end

