-- ==== Sys2Proof/Machine/Watch.lean ====
section
/-! DEFINITION. Log rings (R408), schedule-cycle names (R400), watchpoints (R412 to R414), the halter trigger (R415, R416), the
interlock trace (R411), the replay log (R419). -/

namespace Sys2Proof.Machine

/-- A word of a core's debug block by its offset (R401). -/
def Core.shadow (k : Core) (off : Nat) : Word := k.dbg.shadow.get off
def Core.setShadow (k : Core) (off : Nat) (v : Word) : Core := { k with dbg := { k.dbg with shadow := k.dbg.shadow.set off v } }

/-- DBG.CTL.EN: the debugger is armed on the core (R402). -/
def Core.armed (k : Core) : Bool := bit k.dbg.ctl 0
/-- The array and the engines are to be held (R404): HELD, which reads one once they have acknowledged. -/
def Core.heldAll (k : Core) : Bool := bit k.dbg.stat 1

/-! ## Schedule-cycle names and log rings -/

/-- The 16-byte name of the bundle in hand or about to issue on a core (R400). -/
def Core.name (k : Core) : List Byte :=
  let hm := k.hs.isSome
  leBytes 8 k.fr.scyc.toNat ++ leBytes 2 k.fr.img.toNat ++ leBytes 2 ((if hm then k.fr.pc else k.fr.rtn) / 32) ++
  [if hm then 1 else 0, 0, 0, 0]

/-- Appends a record of fixed size to a ring whose descriptor is (BASE, CTL): the new CTL and the memory (R408). -/
def State.ringAppend (s : State) (base ctl : Word) (r : List Byte) : Word × State :=
  if !bit ctl 63 then (ctl, s)
  else
    let head := bits ctl 31 16
    let size := bits ctl 15 0
    let a := bits base 51 6 * 64 + head * r.length
    let full := s.readP a 8 != 0
    if full && !bit ctl 62 then (setBits ctl 47 32 (min 0xFFFF (bits ctl 47 32 + 1)), s)
    else (setBits ctl 31 16 (if size ≤ head then 0 else head + 1), s.writeL a r)

/-- Appends a record to LOGk of a core (R408). -/
def State.logTo (s : State) (c : Fin 320) (k : Nat) (r : List Byte) : State :=
  let x := s.core c
  let (ctl, s) := s.ringAppend (x.shadow (0x1080 + 16 * k)) (x.shadow (0x1088 + 16 * k)) r
  s.modCore c (fun x => x.setShadow (0x1088 + 16 * k) ctl)

/-- Appends a record to the context trace ring (R417, R222). -/
def State.ctxTrace (s : State) (q : Fin 16) (r : List Byte) : State :=
  let o := s.osqs[q]
  let (ctl, s) := s.ringAppend o.trace.1 o.trace.2 r
  { s with osqs := s.osqs.set q { (s.osqs[q]) with trace := (o.trace.1, ctl) } }

/-! ## The halter trigger (R415, R416) -/

/-- A firing of a source that HALTER.SRC enables. -/
def State.fireSrc (s : State) (src : Nat) (core : Nat) : State :=
  if bit s.plat.hsrc src then s.fire (BitVec.ofNat 7 src) (BitVec.ofNat 9 core) else s

/-! ## Watchpoints (R412 to R414) -/

/-- A watch record of core c, which enters LOG2 with the others of its tick (R414). -/
def State.logWatch (s : State) (c : Fin 320) (r : List Byte) : State := { s with plat := { s.plat with wlog := s.plat.wlog ++ [(c, r)] } }

/-- The kind and the watchpoint of a watch record, which order the records of one tick (R414). -/
def watchKey (r : List Byte) : Nat := (r.getD 14 0).toNat / 16

/-- Records in the order of their keys, those of one key as they came. -/
def watchInsert (x : Fin 320 × List Byte) : List (Fin 320 × List Byte) → List (Fin 320 × List Byte)
  | [] => [x]
  | y :: l => if watchKey x.2 < watchKey y.2 then x :: y :: l else y :: watchInsert x l

/-- The watch records of the tick that ends enter their rings (R414). -/
def State.flushWatch (s : State) : State :=
  if s.plat.wlog.isEmpty then s
  else (s.plat.wlog.foldl (fun l x => watchInsert x l) []).foldl (fun s x => s.logTo x.1 2 x.2) { s with plat := { s.plat with wlog := [] } }

/-- The watched bytes of watchpoint i that a write of the masked bytes of the 16-byte range pa touches (R412). -/
def Core.watchHit (k : Core) (i : Nat) (bitNo : Nat) (pa : Nat) (mask : BitVec 16) (ctx : BitVec 16) : BitVec 16 :=
  let ctl := k.sys.get (0x48 + i)
  if bit ctl 0 && bit ctl bitNo && (!bit ctl 8 || bits ctl 63 48 == ctx.toNat) && bits (k.sys.get (0x40 + i)) 51 4 == pa / 16
  then BitVec.ofNat 16 (bits (k.sys.get (0x44 + i)) 15 0) &&& mask else 0

/-- A watch record (R414): kind 0 core, 1 engine, 2 remote. -/
def watchRec (tb : Word) (pa i kind : Nat) (hit : BitVec 16) (who : Nat) (cls : Nat) (ctx : BitVec 16) (nm : List Byte)
    (data : Nat) (after : Nat) : List Byte :=
  leBytes 8 tb.toNat ++ leBytes 8 (pa / 16 * 16 + i * 2 ^ 52 + kind * 2 ^ 54) ++ leBytes 2 hit.toNat ++ leBytes 2 who ++
  [BitVec.ofNat 8 cls, 0] ++ leBytes 2 ctx.toNat ++ nm ++
  (List.range 16).map (fun b => if hit.getLsbD b then BitVec.ofNat 8 (data / 2 ^ (8 * b)) else 0) ++ leBytes 8 after

/-- The byte mask and placed data of an n-byte write at pa within its 16-byte range. -/
def put16 (pa n v : Nat) : BitVec 16 × Nat :=
  (BitVec.ofNat 16 ((2 ^ n - 1) * 2 ^ (pa % 16)), v % 2 ^ (8 * n) * 2 ^ (8 * (pa % 16)))

/-- The matches of a core's store, atomic or update of n bytes with value v (the value after an atomic): the state with the
records of matches that do not stop, and the trap of the first match that stops (R413). -/
def State.watchCore (s : State) (c : Fin 320) (slot : BitVec 2) (pa n v : Nat) : State × Option Trap :=
  let k := s.core c
  if k.resumed (some 0x10) then (s, none)
  else
    let (mask, data) := put16 pa n v
    let hits := (List.range 4).filterMap (fun i =>
      let h := k.watchHit i 2 pa mask k.tilectx
      if h = 0 then none else some (i, h))
    let note (x : Nat × BitVec 16) : List Byte × Bool :=
      (watchRec s.tb pa x.1 0 x.2 c.val 0 k.tilectx k.name data 0, bit (k.sys.get (0x48 + x.1)) 7)
    match hits.find? (fun x => bit (k.sys.get (0x48 + x.1)) 6) with
    | some x =>
      (s, some { cause := .watch, info := BitVec.ofNat 64 (x.1 + x.2.toNat * 16), slot := some slot, ring := none, tensor := none,
                 async := false, note := hits.map note })
    | none => (hits.foldl (fun s x => let r := note x
                 let s := s.logWatch c r.1
                 if r.2 then s.fireSrc 0 c.val else s) s, none)

/-- The matches of a remote write of the masked bytes of one line at its home: each is logged at the watching core and never stops one (R413, R414). -/
def State.watchRemote (s : State) (pa : Nat) (mask : BitVec 64) (data : Nat) (src : BitVec 12) (ctx : BitVec 16) (atomic : Bool) : State :=
  (List.finRange 320).foldl (fun s c =>
    let k := s.core c
    if (List.range 4).all (fun i => !bit (k.sys.get (0x48 + i)) 0) then s
    else (List.range 4).foldl (fun s g =>
      let m : BitVec 16 := BitVec.ofNat 16 (mask.toNat / 2 ^ (16 * g))
      (List.range 4).foldl (fun s i =>
        let a := pa / 64 * 64 + 16 * g
        let h := k.watchHit i 4 a m ctx
        if h = 0 then s
        else
          let s := s.logWatch c (watchRec s.tb a i 2 h src.toNat (b2n atomic) ctx (List.replicate 16 0) (data / 2 ^ (128 * g)) 0)
          if bit (k.sys.get (0x48 + i)) 7 then s.fireSrc 0 c.val else s) s) s) s

/-! ## The interlock trace (R411) -/

/-- The record of a finished run of stalled clocks. -/
def stallRec (scyc : Word) (run : Nat) (why : BitVec 8 × BitVec 8) : List Byte :=
  leBytes 8 (bits scyc 62 0 + 2 ^ 63) ++ leBytes 8 (min run (2 ^ 32 - 1) * 65536 + why.2.toNat * 256 + why.1.toNat)

/-- SCYC of the bundle that a core holds back: an EXIT or PREEMPT that waits after its commit has counted (R411). -/
def Core.heldScyc (k : Core) : Word := if k.task.any (fun t => t.exiting || t.stopping.isSome) then k.fr.scyc - 1 else k.fr.scyc

/-- Ends the run in hand: it is logged while the trace is armed (R411). -/
def State.endStall (s : State) (c : Fin 320) : State :=
  let k := s.core c
  if k.dbg.run = 0 then s
  else
    let s := if k.dbg.trace then s.logTo c 1 (stallRec k.heldScyc k.dbg.run k.dbg.why) else s
    s.modCore c (fun k => { k with dbg := { k.dbg with run := 0 } })

/-- Counts one stalled clock of a core against its bundle; a run of another reason ends. -/
def State.noteStall (s : State) (c : Fin 320) (why : BitVec 8 × BitVec 8) : State :=
  let k := s.core c
  if k.dbg.run != 0 && k.dbg.why == why then s.setCore c { k with dbg := { k.dbg with run := k.dbg.run + 1 } }
  else (s.endStall c).modCore c (fun k => { k with dbg := { k.dbg with run := 1, why := why } })

/-! ## The replay log (R419) -/

/-- The requesting unit number in a record's payload (R419). -/
def recUnit (r : BitVec 8 × BitVec 8 × Nat × List Byte) : Nat :=
  if r.1 = 3 then leNat (r.2.2.2.drop (if r.2.1 = 2 then 8 else 2)) else if r.1 = 5 then leNat (r.2.2.2.take 2) else 0

/-- Records are written in tick order, within a tick by source and then by requesting unit (R419). -/
def recLe (a b : BitVec 8 × BitVec 8 × Nat × List Byte) : Bool :=
  a.2.2.1 < b.2.2.1 || (a.2.2.1 == b.2.2.1 && (a.2.1.toNat < b.2.1.toNat || (a.2.1 == b.2.1 && recUnit a ≤ recUnit b)))

def recInsert (r : BitVec 8 × BitVec 8 × Nat × List Byte) : List (BitVec 8 × BitVec 8 × Nat × List Byte) → List (BitVec 8 × BitVec 8 × Nat × List Byte)
  | [] => [r]
  | x :: l => if recLe x r then x :: recInsert r l else r :: x :: l

/-- One record with its 16-byte head (R419). -/
def recBytes (seq : Nat) (r : BitVec 8 × BitVec 8 × Nat × List Byte) : List Byte :=
  [r.1, r.2.1] ++ leBytes 2 r.2.2.2.length ++ leBytes 4 seq ++ leBytes 8 r.2.2.1 ++ r.2.2.2

/-- Writes a record to the log's region; the CRC-64 of the log goes on over its bytes. -/
def State.writeRec (s : State) (r : BitVec 8 × BitVec 8 × Nat × List Byte) : State :=
  let l := recBytes s.plat.rseq r
  let s' := s.writeL s.plat.logAt l
  { s' with plat := { s'.plat with rseq := s.plat.rseq + 1, logAt := s.plat.logAt + l.length, logCrc := crc64 s.plat.logCrc l } }

/-- The recorder writes the records of the ticks before `now` (R419). -/
def State.flushLog (s : State) (now : Nat) : State :=
  if s.plat.rlog.isEmpty then s
  else
    let old := s.plat.rlog.filter (fun r => r.2.2.1 < now)
    (old.foldl (fun l r => recInsert r l) []).foldl State.writeRec
      { s with plat := { s.plat with rlog := s.plat.rlog.filter (fun r => !(r.2.2.1 < now)) } }

/-- The log ends (R419): what the recorder holds is written, and behind it the end record with the number of records and the CRC-64 of their bytes; nothing is
logged any more (log 95). -/
def State.logEnd (s : State) : State :=
  if !s.rec_ || s.plat.rmode || s.plat.logDone then s
  else
    let s := s.flushLog (s.tb.toNat + 1)
    let s := s.writeRec (6, 0, s.tb.toNat, leBytes 8 s.plat.rseq ++ leBytes 8 s.plat.logCrc.toNat)
    { s with plat := { s.plat with logDone := true } }

end Sys2Proof.Machine
end

