-- ==== Sys2Proof/Machine/SaveArea.lean ====
section
/-! DEFINITION. Save areas as they lie in memory: the pages of a saved task (R387) and of a resident context (R388) with their tags (R389), the entries
of results in flight (R405), and the pages that a context maps (R390). Where R387 and R388 name what a page holds and not where, logs 34, 42 and 96 place it. -/

namespace Sys2Proof.Machine

/-! ## Bytes -/

/-- A list of exactly n bytes, filled with zeros. -/
def padTo (n : Nat) (l : List Byte) : List Byte := (l ++ List.replicate (n - l.length) 0).take n
def wordsBytes (l : List Word) : List Byte := l.flatMap (fun w => leBytes 8 w.toNat)
/-- n bytes of a memory whose entries from a on are given. -/
def memRun : Mem → Nat → Nat → List Byte
  | _, _, 0 => []
  | [], a, n + 1 => 0 :: memRun [] (a + 1) n
  | c :: m, a, n + 1 => if c.1 = a then c.2 :: memRun m (a + 1) n else 0 :: memRun (c :: m) (a + 1) n
/-- n bytes of a memory from a on. -/
def memBytes (m : Mem) (a n : Nat) : List Byte := memRun (m.dropWhile (fun c => c.1 < a)) a n
/-- Bytes laid one after another, each piece starting at its offset. -/
def laid : List (Nat × List Byte) → List Byte
  | [] => []
  | [(_, l)] => l
  | (o, l) :: (o', l') :: r => padTo (o' - o) l ++ laid ((o', l') :: r)
/-- The 4 KiB pages of bytes that start at page p. -/
def pagesFrom (p : Nat) (l : List Byte) : List (Nat × List Byte) :=
  (List.range ((l.length + 4095) / 4096)).map (fun j => (p + j, padTo 4096 (l.drop (4096 * j))))

/-! ## Results in flight (R405) -/

/-- A vector register's content as 32 words. -/
def lanesWords (v : Lanes) : List Word :=
  (List.range 32).map (fun j => BitVec.ofNat 64 ((v.toList.getD (2 * j) 0).toNat + (v.toList.getD (2 * j + 1) 0).toNat * 2 ^ 32))

/-- A lane mask as one bit per byte. -/
def byteMask (m : Lanes) : Nat :=
  (List.range 256).foldl (fun a b => if ((m.toList.getD (b / 4) 0).toNat / 2 ^ (8 * (b % 4))) % 256 = 0 then a else a + 2 ^ b) 0

def flightHead (k dst file psn : Nat) : Word := BitVec.ofNat 64 (k * 65536 + dst * 1024 + file * 256 + psn)

/-- The entry of a result in flight: its head and payload (R405). -/
def flightWords (f : Flight) : List Word :=
  match f.dst with
  | .s r v p => [flightHead f.pos r.toNat 0 (b2n p), v]
  | .p r v => [flightHead f.pos r.toNat 2 0, BitVec.ofNat 64 (b2n v)]
  | .m r v => [flightHead f.pos r.toNat 3 0, v]
  | .v r val msk p =>
    let m := byteMask msk
    flightHead f.pos r.toNat 1 0 :: lanesWords val ++ [p] ++ (List.range 4).map (fun i => BitVec.ofNat 64 (m / 2 ^ (64 * i)))

/-! ## What a save holds (R108, R190, R384, R385) -/

/-- Region r is live under the mask of PREEMPT; every region is in a hard save (R108, R385). -/
def liveRegion (soft : Bool) (live : BitVec 16) (r : Nat) : Bool := !soft || live.getLsbD (r + 4)

/-- The granules of the saved regions (R387). -/
def Inv.granulesOf (i : Inv) (soft : Bool) (live : BitVec 16) : List Nat :=
  (List.range 12).flatMap (fun r => if liveRegion soft live r then (match i.regions.toList.getD r none with
    | some (g, n) => List.range' g n
    | none => []) else [])

/-- The front as a soft save keeps it: s0 .. s47, the checkpoint's results in flight (R384). -/
def Core.softFront (k : Core) : Front :=
  { Front.reset with s := Vector.ofFn (fun r => if r.val < 48 then k.fr.s[r] else 0), sp := BitVec.ofNat 64 (k.fr.sp.toNat % 2 ^ 48), img := k.fr.img,
                     pc := k.fr.pc, rtn := k.fr.rtn, scyc := k.fr.scyc, ret := k.fr.ret, fl := k.ph.ckpt.fl }

/-! ## The pages of a core save area (R387) -/

/-- The header page. -/
def saveHeader (k : Core) (i : Inv) (soft : Bool) (live : BitVec 16) : List Byte :=
  let idx := (List.range 6).foldl (fun a d => a + (k.k[Fin.ofNat 8 d]).toNat % 2 ^ 21 * 2 ^ (21 * d)) 0
  let flags := b2n k.hs.isSome + 2 * b2n k.ph.irrev + 4 * b2n (bit k.mode 4)
  let gr := i.granulesOf soft live
  padTo 4096 (leBytes 4 0x31435653 ++ leBytes 4 (b2n (!soft)) ++ leBytes 8 (k.k[7]).toNat ++ leBytes 8 k.fr.pc ++ leBytes 8 k.fr.scyc.toNat ++
    leBytes 4 (if soft then live.toNat else 0xFFFF) ++ leBytes 4 flags ++ leBytes 16 idx ++ leBytes 8 0 ++
    (List.range 192).flatMap (fun j => leBytes 2 (gr.getD j 0)))

/-- A binding: its level, a byte with its kind and bit 1 set, its target and stride. -/
def Binding.bytes (b : Binding) : List Byte := leBytes 1 b.lvl ++ leBytes 1 (2 + b2n b.ring) ++ leBytes 6 b.tgt ++ leBytes 8 b.stride.toNat

/-- The loop state: bindings, then the running nest (R100 to R103). -/
def loopBytes (l : Loops) : List Byte :=
  padTo 0x100 (l.binds.flatMap Binding.bytes) ++
  (match l.run with
    | none => []
    | some r => leBytes 4 r.start ++ leBytes 4 r.n ++ leBytes 4 r.m ++ leBytes 4 (1 + 2 * b2n r.first) ++ padTo 24 (r.trip.flatMap (leBytes 4)) ++
        r.binds.flatMap (fun b => b.1.bytes ++ leBytes 8 b.2.toNat))

/-- The scalar part, from offset 0x1000: registers, both banks, predicates, masks, handles, loop state, return stack, control registers and results in
flight (from 0x1800, R405), and the results that a handler's entry saved (from 0x2800). -/
def scalarBytes (f : Front) (m : List Word) (k : Core) (hs : Option HSave) : List Byte :=
  laid [(0x1000, wordsBytes f.s.toList), (0x1200, wordsBytes [f.sp, f.p.zeroExtend 64]), (0x1240, wordsBytes m),
    (0x1280, k.rings.toList.flatMap (fun r => leBytes 8 r.h.toNat)), (0x1300, k.rings.toList.flatMap (fun r => leBytes 8 r.lofs)),
    (0x1380, k.loops.lc.toList.flatMap (fun c => leBytes 8 c.toNat)), (0x13B0, k.loops.trips.flatMap (leBytes 8)),
    (0x1400, wordsBytes [k.mode, k.sys.get 0x1B, k.sys.get 0x1C, k.sys.get 0x18, k.sys.get 0x1A]), (0x1438, leBytes 8 f.ret.length),
    (0x1440, f.ret.flatMap (leBytes 8)), (0x14A0, (match hs with
      | some h => wordsBytes h.bank.toList ++ leBytes 8 h.bankp.toNat ++ leBytes 8 h.pc ++ leBytes 8 h.rtn ++ leBytes 8 h.depth
      | none => [])),
    (0x1500, loopBytes k.loops), (0x1800, wordsBytes ((f.fl.filter (fun x => 1 ≤ x.pos)).flatMap flightWords)),
    (0x2800, (match hs with
      | some h => wordsBytes (h.fl.flatMap flightWords)
      | none => [])), (0x3000, [])]

/-- The vector part, from 0x3000. -/
def vectorBytes (k : Core) : List Byte :=
  laid [(0x3000, k.v.toList.flatMap (fun v => v.toList.flatMap (fun x => leBytes 4 x.toNat))), (0x7000, wordsBytes k.vp.toList), (0x8000, [])]

/-- A beat-queue entry: its kind and operands. -/
def MEnt.bytes (e : MEnt) : List Byte :=
  padTo 32 ((match e.op with
    | .mldw off fmt scB cap => [1, fmt, BitVec.ofNat 8 (b2n scB), BitVec.ofNat 8 cap] ++ leBytes 4 off
    | .mswap => [2]
    | .mpush h slot t row acc fmt scA => [3, fmt, h.zeroExtend 8, BitVec.ofNat 8 (b2n t + 2 * b2n acc + 4 * b2n scA)] ++ leBytes 2 slot ++ leBytes 2 row
    | .mdrain h slot t row rows ft => [4, h.zeroExtend 8, BitVec.ofNat 8 (b2n t), 0] ++ leBytes 2 slot ++ leBytes 1 row ++ leBytes 1 rows ++ leBytes 8 ft.toNat
    | .mzero t => [5, BitVec.ofNat 8 (b2n t)]
    | .mhem mode => [6, mode.zeroExtend 8]
    | .mtclr mask => [7, 0] ++ leBytes 2 mask.toNat
    | .fact op t n c low unit trn h slot => [8, op.zeroExtend 8, h.zeroExtend 8, BitVec.ofNat 8 (b2n t + 2 * b2n low + 4 * b2n unit + 8 * b2n trn)] ++
        leBytes 1 n ++ leBytes 1 c ++ leBytes 2 slot
    | .mperm t => [9, BitVec.ofNat 8 (b2n t)]) ++ [BitVec.ofNat 8 (b2n e.run + 2 * b2n e.fail)])

/-- The array part, from 0x8000: FS, G, P, HEM.STAT, counters, hem state, queue entries. -/
def arrayBytes (a : MArr) : List Byte :=
  let lanes (l : List Lane) : List Byte := l.flatMap (fun x => leBytes 4 x.toNat)
  laid [(0x8000, leBytes 8 a.fs.toNat ++ leBytes 8 a.g.toNat ++ a.perm.toList), (0x8090, leBytes 8 a.hstat.toNat),
    (0x80A0, a.termc.toList.flatMap (fun c => leBytes 8 c.toNat)), (0x80E0, leBytes 8 a.beatc.toNat),
    (0x8100, a.hems.toList.flatMap (fun h => padTo 512 (lanes h.col.toList))), (0x8500, a.hems.toList.flatMap (fun h => padTo 512 (lanes h.row.toList))),
    (0x8900, a.hems.toList.flatMap (fun h => leBytes 16 h.valid.toNat)),
    (0x8920, a.hems.toList.flatMap (fun h => leBytes 8 ((match h.epoch with
      | some m => 1 + 2 * m.toNat
      | none => 0) + 8 * b2n h.ovr))),
    (0x8940, a.queue.flatMap MEnt.bytes), (0x9000, [])]

/-- An engine command, partly done or waiting: its operation, operands and progress. -/
def Cmd.bytes (c : Cmd) : List Byte :=
  padTo 64 ([c.op, c.fn.zeroExtend 8, c.h.zeroExtend 8, c.h2.zeroExtend 8, c.tag.zeroExtend 8, c.fmt] ++ leBytes 2 (1 + 2 * b2n c.run + 4 * b2n c.fin) ++
    leBytes 8 c.a.toNat ++ leBytes 8 c.b.toNat ++ leBytes 8 c.c.toNat ++ leBytes 8 c.ft.toNat ++ leBytes 4 c.imm ++ leBytes 4 c.unit ++ leBytes 4 c.moved ++
    leBytes 4 c.eff ++ leBytes 4 c.eff2 ++ leBytes 2 c.slot ++ leBytes 2 c.slot2)

/-- A refetch descriptor: its slot and the head of its command. -/
def Refetch.bytes (r : Refetch) : List Byte := leBytes 1 r.h.toNat ++ leBytes 3 r.slot ++ leBytes 4 r.unit ++ padTo 24 r.cmd.bytes

/-- The engine part, from 0x9000: function tables, bins and OUT, commands, refetch descriptors. -/
def engineBytes (k : Core) : List Byte :=
  laid [(0x9000, k.ftab.toList.flatMap (padTo 1152)), (0xA200, k.bins.toList.flatMap (fun b => leBytes 4 b.toNat)), (0xA600, leBytes 4 k.binOut.toNat),
    (0xA640, k.eng.queue.flatMap Cmd.bytes ++ k.eng.cls.toList.flatMap (fun l => l.flatMap Cmd.bytes) ++
      k.ph.refetch.flatMap Refetch.bytes), (0xB000, [])]

/-- The open phase, from 0xB000: store buffer entries, update lines, enrolments under a set bit 31, attempt count. -/
def phaseBytes (p : Phase) : List Byte :=
  laid [(0xB000, p.sb.flatMap (fun e => leBytes 8 (e.line * 64) ++ leBytes 8 e.mask.toNat ++ leBytes 64 e.data.toNat)),
    (0x10000, p.upds.flatMap (fun u => leBytes 8 u.word ++ leBytes 1 u.op.toNat ++ leBytes 7 u.n ++ leBytes 8 u.val)),
    (0x12800, p.enrol.flatMap (fun e => leBytes 4 (e + 2 ^ 31))), (0x12FF8, leBytes 4 p.att ++ leBytes 4 (b2n p.irrev)), (0x13000, [])]

def tileBytes (t : Tile) : List Byte := t.toList.flatMap (fun r => r.toList.flatMap (fun x => leBytes 4 x.toNat))

/-- Offsets of the plane images and of the bytes behind each: hem column and kept format. -/
def planeAt (back : Bool) : Nat := if back then 0x46000 else 0x33000

/-- The image of a plane: its 128 segments (R387). -/
def Plane.image (p : Plane) : List Byte :=
  (List.range 128).flatMap (fun j => encSeg p.fmt (p.scl.toList.getD j 0).toNat
    (p.vals.toList.map (fun (r : Vector (BitVec 32) 128) => (r.toList.getD j 0).toNat)))

/-- A plane as saved: its TCW image, its hem column, its kept format fields. -/
def planeBytes (p : Plane) : List Byte :=
  laid [(0, p.image), (0x12000, p.hem.toList.flatMap (fun x => leBytes 4 x.toNat)), (0x12200, leBytes 8 (p.fmt.toNat + 256 * b2n p.scB + 4096 * p.cap)), (0x13000, [])]

/-- The poison marks of a granule, one bit per word. -/
def markBytes (marks : NSet) (g : Nat) : List Byte :=
  (List.range 128).map (fun b => BitVec.ofNat 8 ((List.range 8).foldl (fun a t => a + (if marks.has (g * 1024 + 8 * b + t) then 2 ^ t else 0)) 0))

/-- The written pages of a core save area by number; a soft save writes no section that it does not hold. -/
def savePages (k : Core) (i : Inv) (soft : Bool) (live : BitVec 16) : List (Nat × List Byte) :=
  let gr := i.granulesOf soft live
  let has (b : Nat) : Bool := !soft || live.getLsbD b
  let m0 : List Word := [BitVec.allOnes 64]
  (0, saveHeader k i soft live) ::
  pagesFrom 0x1 (if soft then scalarBytes k.softFront m0 k none else scalarBytes k.fr (m0 ++ k.m.toList.drop 1) k k.hs) ++
  (if soft then [] else pagesFrom 0x3 (vectorBytes k)) ++
  pagesFrom 0x8 (arrayBytes k.arr) ++
  (if soft then [] else pagesFrom 0x9 (engineBytes k) ++ pagesFrom 0xB (phaseBytes k.ph)) ++
  (if has 0 then pagesFrom 0x13 (tileBytes k.arr.tiles[0]) else []) ++
  (if has 1 then pagesFrom 0x23 (tileBytes k.arr.tiles[1]) else []) ++
  (if has 2 then pagesFrom 0x33 (planeBytes k.arr.cur) else []) ++
  (if has 3 then pagesFrom 0x46 (planeBytes k.arr.back) else []) ++
  (if soft then [] else (List.range 128).map (fun j => (0x59 + j, memBytes k.wbuf (4096 * j) 4096))) ++
  gr.zipIdx.map (fun g => (0xD9 + g.2, memBytes k.scr (g.1 * 4096) 4096)) ++
  pagesFrom 0x199 (gr.flatMap (markBytes k.marks))

/-! ## The pages of a context's save area (R388) -/

/-- The context status word (R13). -/
def Ctx.csw (x : Ctx) : Word :=
  BitVec.ofNat 64 (x.ldepth + 16 * x.calls.length + 512 * b2n x.intrap +
    1024 * b2n (x.parked || x.pageWait || x.sigWait.isSome || x.awaits) + 65536 * x.lcause.toNat)

/-- A record's 128 bytes (R231). -/
def TRec.bytes (t : TRec) : List Byte :=
  leBytes 8 t.base ++ [t.fmt, BitVec.ofNat 8 t.rank, BitVec.ofNat 8 (b2n t.scl + 2 * b2n t.shd + 4 * b2n t.ro), 1, 0, 0, 0, 0] ++
  (List.range 6).flatMap (fun d => leBytes 4 (t.dim.getD d 1)) ++
  (List.range 6).flatMap (fun d => leBytes 8 (wordOf (t.str.getD d 0)).toNat) ++
  leBytes 8 t.sbase ++ leBytes 8 (t.mesh + t.axis * 2 ^ 16 + t.index * 2 ^ 24 + t.count * 2 ^ 40) ++ List.replicate 24 0

/-- The header page of a context's save area (R388). -/
def Ctx.header (x : Ctx) : List Byte :=
  padTo 4096 (leBytes 2 x.tag.toNat ++ leBytes 2 x.slot.toNat ++ leBytes 4 0 ++ leBytes 8 x.root.toNat ++ leBytes 8 x.team.toNat ++ leBytes 8 x.quota.toNat ++
    leBytes 8 x.vpc.toNat ++ leBytes 8 x.csw.toNat ++ leBytes 8 x.th.toNat ++ leBytes 8 x.ftb.toNat ++ leBytes 8 x.ninv ++
    x.saved.flatMap (fun a => leBytes 8 a.toNat))

/-- The registers of a context: n, g, FT, loop stack, call stack, pending mailbox set. -/
def Ctx.regBytes (x : Ctx) : List Byte :=
  laid [(0, wordsBytes x.n.toList), (0x200, leBytes 8 x.g.toNat ++ wordsBytes x.ft.toList),
    (0x300, x.loops.flatMap (fun l => leBytes 8 l.1.toNat ++ leBytes 8 l.2.1.toNat ++ leBytes 8 l.2.2.toNat)),
    (0x400, x.calls.flatMap (fun c => leBytes 8 c.1.toNat ++ leBytes 8 c.2)), (0x600, wordsBytes x.mboxP.toList), (0x1000, [])]

/-- The entry of a handle: record address, root, flags (bound, view, owner). -/
def THnd.entry (h : THnd) : List Byte :=
  leBytes 8 (h.addr.getD 0) ++ leBytes 4 h.root ++ leBytes 4 (1 + 2 * b2n h.addr.isNone + 4 * b2n h.own.isSome)

def Latch.bytes (l : Latch) : List Byte :=
  padTo 2304 (l.cnt.toList.flatMap (fun c => leBytes 4 c.toNat) ++ l.pre.toList.flatMap (fun c => leBytes 4 c.toNat) ++ leBytes 4 l.out.toNat ++
    leBytes 4 l.n ++ leBytes 4 l.got ++ leBytes 4 l.st.toNat)

/-- An invocation in flight: its sequencer registers (R295), SCYC of its routine, regions, superstep, scoreboard state. -/
def Ctx.invBytes (x : Ctx) (i : Inv) : List Byte :=
  let fr := ((x.exp.filter (fun e => e.uid == i.uid)).map (·.fr)).getD Front.reset
  padTo 2048 (leBytes 2 i.num.toNat ++ [i.opcode, i.opx] ++ leBytes 4 (b2n i.sealed + 2 * b2n i.opened + 4 * b2n i.ended + 8 * b2n i.cancel + 16 * b2n i.aborted) ++
    leBytes 8 i.vpc.toNat ++ leBytes 8 i.fld.toNat ++ leBytes 8 fr.scyc.toNat ++ leBytes 4 i.sstep ++ leBytes 4 i.nrec ++ leBytes 8 i.area ++
    leBytes 8 ((i.img.map (·.toNat + 2 ^ 16)).getD 0) ++ leBytes 8 i.ftb.toNat ++ wordsBytes i.ft.toList ++ wordsBytes i.mbox.toList ++
    i.regions.toList.flatMap (fun r => leBytes 2 ((r.map (·.1)).getD 0) ++ leBytes 2 ((r.map (·.2)).getD 0)) ++
    wordsBytes fr.s.toList ++ leBytes 8 fr.sp.toNat ++ leBytes 4 fr.pc ++ leBytes 4 fr.p.toNat ++
    padTo 64 (i.opnds.flatMap (fun o => [o.hnd, BitVec.ofNat 8 (o.role.toNat + 4 * b2n o.pub)] ++ leBytes 3 o.root)) ++ wordsBytes i.args)

/-- A queued record with its constants and progress. -/
def WRec.bytes (w : WRec) : List Byte :=
  padTo 512 (memBytes w.raw 0 128 ++ memBytes w.consts 0 128 ++ leBytes 8 w.inv ++ leBytes 4 w.ord ++ leBytes 4 ((w.total.map (· + 1)).getD 0) ++ leBytes 8 w.next ++
    leBytes 8 w.out ++ leBytes 8 ((w.ready.map (· + 1)).getD 0) ++ leBytes 8 w.defer ++ w.back.flatMap (fun b => leBytes 8 b.1 ++ leBytes 8 b.2))

/-- The pages of a context's save area by number; all but the tag table. -/
def Ctx.pages (x : Ctx) : List (Nat × List Byte) :=
  let hnd (t : Nat) : Option THnd := (x.hnds.find? (fun h => h.1 == t)).map (·.2)
  (0, x.header) :: pagesFrom 0x1 x.regBytes ++
  pagesFrom 0x2 ((List.range 256).flatMap (fun t => padTo 128 (((hnd t).map (·.tr.bytes)).getD []))) ++
  pagesFrom 0xA ((List.range 256).flatMap (fun t => padTo 16 (((hnd t).map THnd.entry).getD []))) ++
  pagesFrom 0xB (padTo 8192 (x.kt.flatMap (fun e => leBytes 4 e.1.toNat ++ leBytes 4 e.2.1.toNat ++ leBytes 8 e.2.2.toNat))) ++
  pagesFrom 0xD (x.latch.toList.flatMap Latch.bytes) ++
  pagesFrom 0x16 (padTo 65536 (x.invs.flatMap x.invBytes)) ++
  pagesFrom 0x26 (padTo 16384 (x.recs.flatMap WRec.bytes))

/-- The core save areas of a context follow its own save area of 172 KiB (log 41). -/
def Ctx.areaAt (x : Ctx) (j : Nat) : Nat := x.area.toNat + 0x2B000 + j * 0x1A0000

/-! ## Tags (R389) -/

/-- The save-area key K: the draw at boot, in replay the logged one (R389, R420). -/
def State.saveK (s : State) : Word := s.plat.key.getD (Config.saveKey 0)

/-- The integrity tag of a page (R389). -/
def pageTag (key : Word) (pa : Nat) (l : List Byte) : Word := crc64 key (leBytes 8 pa ++ l)

/-- The tag table of an area of n pages: 0 for an unwritten page (R387). -/
def tagTable (key : Word) (pa n : Nat) (l : List (Nat × List Byte)) : List Byte :=
  (List.range n).flatMap (fun p => leBytes 8 (((l.find? (fun e => e.1 == p)).map (fun e => (pageTag key (pa + 4096 * p) e.2).toNat)).getD 0))

/-- Writes one line; its bytes lie together in every scheme (R332). -/
def State.writeLn (s : State) (pa : Nat) (l : List Byte) : State :=
  match s.surfAt pa with
  | none =>
    let k := locKey (s.frameIlv pa) pa
    { s with mem := Mem.lay s.mem k 64 (fun a => l.getD (a - k) 0) }
  | some _ => s.writeL pa (padTo 64 l)

/-- Reads one line under a scheme. -/
def State.readLn (s : State) (ilv pa : Nat) : List Byte :=
  match s.surfAt pa with
  | none => memBytes s.mem (s.readKey ilv pa) 64
  | some _ => (List.range 64).map (fun i => s.readByte ilv (pa + i))

/-- Writes a page, and reads one under a scheme. -/
def State.writePage (s : State) (pa : Nat) (l : List Byte) : State :=
  (List.range 64).foldl (fun (s : State) j => s.writeLn (pa + 64 * j) ((l.drop (64 * j)).take 64)) s
def State.readPage (s : State) (ilv pa : Nat) : List Byte := (List.range 64).flatMap (fun j => s.readLn ilv (pa + 64 * j))

/-- Writes the pages of an area of n pages and its tag table, which is the last page. -/
def State.saveArea (s : State) (pa n : Nat) (l : List (Nat × List Byte)) : State :=
  (l.foldl (fun (s : State) e => s.writePage (pa + 4096 * e.1) e.2) s).writePage (pa + 4096 * (n - 1)) (padTo 4096 (tagTable s.saveK pa n l))

/-- The tag of page p in the table of an area of n pages. -/
def State.tagAt (s : State) (pa n p : Nat) : Word := BitVec.ofNat 64 (s.readP (pa + 4096 * (n - 1) + 8 * p) 8)

/-- A page carries an uncorrectable mark (R378). -/
def State.pageUe (s : State) (a : Nat) : Bool := (List.range 64).any (fun j => s.ueAt (s.frameIlv a) (a + 64 * j))

/-- Page p of an area and its tag agree, and the page carries no uncorrectable mark (R389, R378). -/
def State.pageOk (s : State) (pa n p : Nat) : Bool :=
  pageTag s.saveK (pa + 4096 * p) (s.readPage (s.frameIlv (pa + 4096 * p)) (pa + 4096 * p)) == s.tagAt pa n p && !s.pageUe (pa + 4096 * p)

/-- What restore checks of an area of n pages: the ECC of the tag table, the header, and every page that the table says was written (R389). -/
def State.areaOk (s : State) (pa n : Nat) : Bool :=
  !s.pageUe (pa + 4096 * (n - 1)) && s.pageOk pa n 0 && (List.range (n - 1)).all (fun p => s.tagAt pa n p == 0 || s.pageOk pa n p)

/-- Counts an uncorrectable error that the check of an area of n pages meets (R378 code 11, R458). -/
def State.countArea (s : State) (pa n : Nat) : State :=
  if (List.range (64 * n)).any (fun j => s.ueAt (s.frameIlv (pa + 64 * j)) (pa + 64 * j)) then s.countUe 11 else s

/-- A context's area of 43 pages, a core's of 416. -/
def ctxPages : Nat := 43
def corePages : Nat := 416

/-- The bytes of an area as a dump holds it: its written pages with their tags, zeros elsewhere (R390). -/
def areaBytes (key : Word) (pa n : Nat) (l : List (Nat × List Byte)) : List Byte :=
  (List.range (n - 1)).flatMap (fun p => ((l.find? (fun e => e.1 == p)).map (·.2)).getD (List.replicate 4096 0)) ++ padTo 4096 (tagTable key pa n l)

/-! ## The pages that a context maps (R328, R329, R390) -/

/-- The 4 KiB pages below a table (levels left as fuel), as physical page numbers with their schemes, in ascending virtual order. -/
def State.mappedAt (s : State) (sysv : Bool) : Nat → Nat → List (Nat × Nat)
  | 0, _ => []
  | fuel + 1, pa =>
    let level := 3 - fuel
    (List.range 512).flatMap (fun idx =>
      let w := BitVec.ofNat 64 (s.readP (pa + 8 * idx) 8)
      if !bit w 0 then []
      else if !bit w 1 then
        if level = 3 ∨ bits w 63 56 ≠ 0 ∨ bits w 15 2 ≠ 0 then [] else State.mappedAt s sysv fuel (lfPfn w * 4096)
      else if level < 2 then []
      else
        let sz := lfSz w
        let grp := if level = 3 then 2 ^ sz else 2 ^ (sz - 9)
        if (level = 3 ∧ 8 < sz) ∨ (level ≠ 3 ∧ sz < 9) ∨ idx % grp ≠ 0 ∨ lfMig w || !s.leafOk sysv level w then []
        else (List.range (2 ^ sz)).map (fun j => (lfPfn w + j, lfIlv w)))

/-- The record of one page of a dump (R390, R392): the page at DEV scope, with the front of a cloaked buffer; length 0 when it can no longer be read. -/
def State.dumpPage (s : State) (p : Nat × Nat) : Nat × List Byte :=
  if (List.range 64).any (fun j => s.ueAt p.2 (p.1 * 4096 + 64 * j)) then (3, []) else (3, s.readPage p.2 (p.1 * 4096))

end Sys2Proof.Machine
end

