-- ==== Sys2Proof/Machine/Trap.lean ====
section
/-! DEFINITION. Taking a trap on a core and on a sequencer and returning from one: images (R241, R96), precise stops (R403), trap
registers (R367 to R371), handler mode (R372 to R375), kernel faults (R376, R315, R252, R298), fatal faults (R377, R390 to R392),
failures of a phase (R379, R381). -/

namespace Sys2Proof.Machine

/-! ## Kernel images (R241, R96) -/

def State.img (s : State) (n : BitVec 16) : Option Img := s.imgs.find? (fun g => g.num == n)

/-- n bytes of an image. -/
def Img.get (g : Img) (off n : Nat) : Nat := Mem.read g.code off n
def Img.exp (g : Img) : Nat := g.get 8 4
def Img.nhnd (g : Img) : Nat := g.get 12 2
def Img.codeEnd (g : Img) : Nat := g.get 20 4

/-- The 32-byte word at an offset. -/
def Img.word (g : Img) (off : Nat) : BitVec 256 := BitVec.ofNat 256 (g.get off 32)

/-- A bundle of the image: a 32-byte word below CODE (R241). -/
def Img.isBundle (g : Img) (off : Nat) : Bool := off % 32 == 0 && off + 32 ≤ g.codeEnd && off + 32 ≤ g.size

/-- The bundle at an offset has RS set (R64). -/
def Img.rs (g : Img) (off : Nat) : Bool := g.isBundle off && Nat.testBit (g.get off 2) 11

/-- The handler entries as (offset, mask) (R241). -/
def Img.handlers (g : Img) : List (Nat × Nat) := (List.range g.nhnd).map (fun i => (g.get (64 + 8 * i) 4, g.get (68 + 8 * i) 4))

/-- The first bundle of a task routine (R96, R105). -/
def Img.isTask (g : Img) (off : Nat) : Bool := g.rs off && off != g.exp && !g.handlers.any (fun h => h.1 == off)

/-- The mask bit of a cause that a handler may take (R241). -/
def Cause.hbit : Cause → Option Nat
  | .zeroPivot => some 0
  | .notPd => some 1
  | .poison => some 2
  | .divZero => some 3
  | _ => none

/-- The first declared handler of a cause (R372). -/
def Img.handlerFor (g : Img) (c : Cause) : Option Nat :=
  c.hbit.bind (fun b => (g.handlers.find? (fun h => Nat.testBit h.2 b)).map (·.1))

/-! ## Contexts and invocations -/

def Ctx.inv (x : Ctx) (uid : Nat) : Option Inv := x.invs.find? (fun i => i.uid == uid)
def Ctx.modInv (x : Ctx) (uid : Nat) (f : Inv → Inv) : Ctx :=
  { x with invs := x.invs.map (fun i => if i.uid == uid then f i else i) }

/-- The invocation of a core's task. -/
def State.taskInv (s : State) (c : Fin 320) : Option Inv :=
  (s.core c).task.bind (fun t => (s.ctx t.osq).bind (·.inv t.inv))

/-- The cores that run a task of an invocation. -/
def State.coresOf (s : State) (q : Fin 16) (uid : Nat) : List (Fin 320) :=
  (List.finRange 320).filter (fun c => match (s.core c).task with
    | some t => t.osq == q && t.inv == uid
    | none => false)

/-- The cores that run a task of the context on a sequencer. -/
def State.coresOn (s : State) (q : Fin 16) : List (Fin 320) :=
  (List.finRange 320).filter (fun c => match (s.core c).task with
    | some t => t.osq == q
    | none => false)

/-- n57 of a report for an invocation: VPC, opcode, OPX number, of the anchor for a fused group (R252, R281). -/
def Inv.fvpc (i : Inv) : Word :=
  let v := ((i.stages.head?).map (·.vpc)).getD i.vpc
  BitVec.ofNat 64 (v.toNat + i.opcode.toNat * 2 ^ 48 + i.opx.toNat * 2 ^ 56)

/-- OP.VPC of an invocation (R295): the VPC of FUSE for a group. -/
def Inv.opVpc (i : Inv) : Word := BitVec.ofNat 64 (i.vpc.toNat + i.opcode.toNat * 2 ^ 48 + i.opx.toNat * 2 ^ 56)

/-- A core without its task: nothing of the open phase, the queues, handler mode or outstanding loads is left. -/
def Core.clearTask (k : Core) : Core :=
  { k with task := none, eng := Engines.reset, old := [], hs := none, held := [], async := [], idle := 0,
           arr := { k.arr with queue := [], fact := none, fs := if k.arr.fact.isSome then 0 else k.arr.fs },
           ph := { Phase.reset with num := k.ph.num }, fr := { k.fr with outs := [], fl := [] },
           dbg := { k.dbg with trace := false, run := 0, step := false, supp := none, stat := k.dbg.stat &&& 0x10000#64 } }

/-- Discards a core's task with the uncommitted part of its phase (R376, R379). -/
def State.dropTask (s : State) (c : Fin 320) : State :=
  ((s.revert (s.core c).ph.landed).modCore c Core.clearTask).orphan (fun r => r.unit == .core c && r.kind != 1)

/-- The abort of an invocation (R315, R298): its tasks stop with their phases cancelled, its records leave the walker, its regions
are released, its race stamps are discarded (R351); what its committed phases wrote stays, their partials folded. It keeps naming its outputs until TRAPRET publishes them. -/
def State.abortInv (s : State) (q : Fin 16) (uid : Nat) : State :=
  let s := (s.coresOf q uid).foldl State.dropTask s
  let s := (s.foldParts q uid).orphan (fun r => r.unit == .seq q && r.uid == uid && r.kind != 1)
  let areas := ((s.ctx q).map (·.saved)).getD []
  let gone (v : Saved) : Bool := areas.any (fun a => a.toNat == v.area) && v.k.task.any (fun t => t.inv == uid)
  let dead := (s.saves.filter gone).map (·.area)
  let s := (s.saves.filter gone).foldl (fun s v => s.revert v.k.ph.landed) s
  let s := { s with saves := s.saves.filter (fun v => !gone v), stamps := s.stamps.filter (fun a => !(a.osq == q && a.inv == uid)) }
  s.modCtx q (fun x =>
    { (x.modInv uid (fun i => { i with aborted := true, opened := true, ended := true, regions := Vector.replicate 16 none })) with
      recs := x.recs.filter (fun r => r.inv != uid),
      saved := x.saved.filter (fun a => !dead.contains a.toNat),
      exp := if x.exp.any (fun e => e.uid == uid) then none else x.exp })

/-! ## Reports and TRAPH (R252, R253, R12) -/

/-- Enters TRAPH with a report, or parks the context for the resident kernel (R252, R12, R253). -/
def State.deliver (s : State) (q : Fin 16) (r : Report) : State :=
  match s.ctx q with
  | none => s
  | some x =>
    if x.th = 0 ∨ x.intrap then s.setCtx q { x with parked := true, lcause := r.cause.code, frep := some r }
    else
      let w (n : Vector Word 64) (i : Fin 64) (v : Word) := n.set i v
      let n := w x.n 56 (BitVec.ofNat 64 (r.cause.code.toNat + 256 * b2n r.kind))
      let n := w n 57 r.fvpc
      let n := w n 58 (BitVec.ofNat 64 x.rvpc.toNat)
      let n := w n 59 r.info
      let n := w n 60 r.tile
      let n := w n 61 (match r.hnd with
        | some h => BitVec.ofNat 64 (h.toNat + 256)
        | none => 0)
      let n := w n 62 (match r.core with
        | some c => BitVec.ofNat 64 (c.toNat + 2 ^ 15 + r.num.toNat * 65536)
        | none => BitVec.ofNat 64 (r.num.toNat * 65536))
      let n := w n 63 r.tb
      s.setCtx q { x with intrap := true, lcause := r.cause.code, n := n, trapD := (x.calls.length, x.ldepth), trapUid := r.uid,
                          trap0 := x.ninv, fvpc := BitVec.ofNat 48 r.fvpc.toNat, vpc := x.th,
                          rsave := x.reexec, reexec := [] }

/-- A trap of a context's own instruction: RVPC is the VPC after it when its length is known (R252). -/
def State.ctxTrap (s : State) (q : Fin 16) (cause : Cause) (info : Word) (hnd : Option (BitVec 8)) (op opx : BitVec 8) (num : BitVec 16)
    (rvpc : BitVec 48) : State :=
  match s.ctx q with
  | none => s
  | some x =>
    (s.setCtx q { x with rvpc := rvpc, reexec := x.reexec.tail, fuse := none }).deliver q
      { cause := cause, kind := false, fvpc := BitVec.ofNat 64 (x.vpc.toNat + op.toNat * 2 ^ 48 + opx.toNat * 2 ^ 56), info := info,
        tile := 0, hnd := hnd, core := none, num := num, uid := none, tb := s.tb }

/-- Holds a kernel fault report for KERNEL_FAULT_DELIVERY, in the issue order of the operators (R253). -/
def State.holdReport (s : State) (q : Fin 16) (r : Report) : State :=
  s.modCtx q (fun x =>
    let key (r : Report) : Nat := r.uid.getD 0
    { x with held := x.held.filter (fun y => key y ≤ key r) ++ [r] ++ x.held.filter (fun y => key r < key y) })

/-- A trap of the expansion routine on a sequencer (R298): KIND 1, delivered at once unless a handler runs (R293); an operator that
the handler itself issued parks the context (R253). -/
def State.seqTrap (s : State) (q : Fin 16) (t : Trap) : State :=
  match (s.ctx q).bind (fun x => x.exp.bind (fun e => (x.inv e.uid).map (fun i => (x, i)))) with
  | none => s
  | some (x, i) =>
    let hnd := match t.tensor with
      | some h => some h
      | none => i.opnds.head?.map (·.hnd)
    let r : Report := { cause := t.cause, kind := true, fvpc := i.fvpc, info := t.info, tile := BitVec.ofNat 64 (2 ^ 63 + i.nrec),
                        hnd := hnd, core := none, num := i.num, uid := some i.uid, tb := s.tb }
    let s := s.abortInv q i.uid
    if x.intrap && i.uid < x.trap0 then s.holdReport q r
    else (s.modCtx q (fun x => { x with rvpc := x.vpc })).deliver q r

/-! ## Fatal faults (R377) -/

/-- The records of a cut core's pending state (R390, kinds 4 and 5). -/
def State.dumpCore (s : State) (c : Fin 320) : List (Nat × List Byte) :=
  let k := s.core c
  k.ph.sb.map (fun e => (4, leBytes 8 (e.line * 64) ++ leBytes 8 e.mask.toNat ++ leBytes 64 e.data.toNat ++ leBytes 2 c.val)) ++
  k.ph.upds.map (fun u => (5, leBytes 8 u.word ++ [u.op.zeroExtend 8] ++ leBytes 8 u.val ++ leBytes 2 c.val))

/-- The records of the back-copy lines of a context's cloaked buffers that have a byte written since the last flip (R390, kind 6): name address, mask of
the written bytes, the line. -/
def State.dumpBacks (s : State) (slot : Nat) : List (Nat × List Byte) :=
  (s.cloaks.filter (fun e => clSlot e.2 == slot)).flatMap (fun e =>
    let offs := (s.cwrit.filter (fun x => x.1 == e.1)).map (fun x => x.2.1)
    ((offs.map (· / 64)).eraseDups).map (fun l =>
      let mask := offs.foldl (fun (m : BitVec 64) o => if o / 64 == l then m ||| (1#64 <<< (o % 64)) else m) 0
      (6, leBytes 8 (clName e.2 + 64 * l) ++ leBytes 8 mask.toNat ++ (List.range 64).map (fun o => Mem.get s.mem (cloakKey e.2 (clName e.2 + 64 * l + o) false)))))

/-- The bytes of dump records as written: an 8-byte head with kind and length, and the body (R390). -/
def dumpBytes (l : List (Nat × List Byte)) : List Byte := l.flatMap (fun r => leBytes 4 r.1 ++ leBytes 4 r.2.length ++ r.2)

/-- A sequencer without its context, and without what the context keeps at its homes: partials, race stamps, team barriers; its requests on their way stay
until they are acknowledged, and those that block a line stay (R426, R427). -/
def State.vacate (s : State) (q : Fin 16) : State :=
  let s := s.orphan (fun r => r.osq == q)
  { s with osqs := s.osqs.set q { (s.osqs[q]) with ctx := none },
           plat := { s.plat with reqs := s.plat.reqs.map (fun r => if r.osq == q then { r with uid := 2 ^ 32 } else r) },
           parts := s.parts.filter (fun p => p.osq != q), stamps := s.stamps.filter (fun a => a.osq != q),
           barrs := s.barrs.filter (fun b => b.own != 40 + q.val) }

/-- What the core dump of a context takes at the cut, before its phases are cancelled (R390): its save area, the area of each task cut in place, and
what stands pending. -/
def State.cutRecs (s : State) (x : Ctx) (cs : List (Fin 320)) : List (Nat × List Byte) :=
  (1, areaBytes s.saveK x.area.toNat ctxPages x.pages) ::
    cs.zipIdx.flatMap (fun c => match (s.core c.1).task.bind (fun t => x.inv t.inv) with
      | some i => [(2, areaBytes s.saveK (x.areaAt (x.saved.length + c.2)) corePages (savePages (s.core c.1) i false 0xFFFF))]
      | none => []) ++
    cs.flatMap (fun c => s.dumpCore c) ++ s.dumpBacks x.slot.toNat

/-- Clears the cloak and surface entries of a context that is gone and returns its save areas (R377 step 4). -/
def State.freeAreas (s : State) (x : Ctx) : State :=
  { s with saves := s.saves.filter (fun v => !x.saved.any (fun a => a.toNat == v.area)),
           dies := s.dies.map (fun d => if d.cloak = [] ∧ d.surf = [] then d else
             { d with cloak := d.cloak.filter (fun e => clSlot e.2 != x.slot.toNat), surf := d.surf.filter (fun e => e.1 != x.slot.toNat) }) }

/-- A context is cut: its tasks and what its homes keep for it are gone; a dump joins the queue when its process asked for one, and only then is what
it holds given back after that dump (R377, R391). -/
def State.cutCtx (s : State) (x : Ctx) (q : Option (Fin 16)) : State :=
  let cs := (q.map s.coresOn).getD []
  let recs := if x.dumps then s.cutRecs x cs else []
  let s := cs.foldl State.dropTask s
  let s := match q with
    | some q => s.vacate q
    | none => s
  if x.dumps then
    { s with plat := { s.plat with dumps := s.plat.dumps ++ [{ ctx := x, recs := recs, todo := none, second := [], done := false }] } }
  else s.freeAreas x

/-- A fault strikes contexts: the dump that is being written takes it into its trailer if its context is one of them (R392). -/
def strikeDumps (w : Strike) : List Dump → List Dump
  | [] => []
  | d :: l => if d.done then d :: strikeDumps w l
    else (if w.slots.contains d.ctx.slot then { d with second := d.second ++ [w] } else d) :: l

/-- Ends a process (R377): its queues are unmapped and each of its contexts is cut with nothing saved. -/
def State.endProcess (s : State) (proc : Nat) : State :=
  let mine (x : Ctx) : Bool := x.proc == proc
  let live := (List.finRange 16).filter (fun q => (s.ctx q).any mine)
  let slots := live.filterMap (fun q => (s.ctx q).map (·.slot.toNat)) ++ (s.dorm.filter mine).map (·.slot.toNat)
  let queues := (List.range 64).filter (fun q => bit (s.queueW q 0) 63 && slots.contains (bits (s.queueW q 0) 57 52))
  let s := queues.foldl (fun s q => s.setQueueW q 0 (s.queueW q 0 &&& ~~~ (1#64 <<< 63))) s
  let s := live.foldl (fun s q => match s.ctx q with
    | some x => s.cutCtx x (some q)
    | none => s) s
  let gone := s.dorm.filter mine
  gone.foldl (fun s x => s.cutCtx x none) { s with dorm := s.dorm.filter (fun x => !mine x) }

/-- A fatal fault strikes a process and ends it (R377). -/
def State.killProcess (s : State) (w : Strike) (proc : Nat) : State :=
  ({ s with plat := { s.plat with dumps := strikeDumps w s.plat.dumps } }).endProcess proc

/-- A fault as a dump's trailer records it, and the contexts that it strikes by their slots. -/
def State.strike (s : State) (cause : Cause) (c : Option (Fin 320)) (slots : List (BitVec 6) := []) : Strike :=
  { cause := cause.code, core := c.map (fun c => BitVec.ofNat 9 c.val), tb := s.tb, slots := slots }

/-- A fatal fault of the context on a sequencer. -/
def State.fatalCtx (s : State) (w : Strike) (q : Fin 16) : State :=
  match s.ctx q with
  | none => s
  | some x => s.killProcess { w with slots := [x.slot] } x.proc

/-- The trailer of a dump (R390): the first fault that struck meanwhile, the length of all before, the CRC. Their places are the model's (log 36). -/
def Dump.trailer (d : Dump) : Nat × List Byte :=
  let all := dumpBytes d.recs
  let two := match d.second with
    | [] => List.replicate 16 0
    | w :: _ => [w.cause] ++ [1] ++ leBytes 2 ((w.core.map (·.toNat)).getD 0xFFFF) ++ leBytes 4 0 ++ leBytes 8 w.tb.toNat
  (7, two ++ leBytes 8 all.length ++ leBytes 8 (crc64 0 all).toNat)

/-- Writes up to n page records of one dump; with the last the trailer, and what its context held is given back. -/
def State.dumpOne (s : State) (n : Nat) (d : Dump) : Dump :=
  let todo := match d.todo with
    | some l => l
    | none => s.mappedAt d.ctx.sysv 4 (d.ctx.root.toNat * 4096)
  let d := { d with recs := d.recs ++ (todo.take n).map s.dumpPage, todo := some (todo.drop n) }
  if (todo.drop n).isEmpty then { d with recs := d.recs ++ [d.trailer], done := true } else d

/-- The resident kernel writes one dump at a time (R391): the oldest that is not written goes on by n pages. -/
def State.dumpWork (s : State) (n : Nat) : State :=
  match s.plat.dumps.find? (fun d => !d.done) with
  | none => s
  | some d0 =>
    let d := s.dumpOne n d0
    let put (l : List Dump) : List Dump := l.takeWhile (·.done) ++ d :: (l.dropWhile (·.done)).drop 1
    let s := { s with plat := { s.plat with dumps := put s.plat.dumps } }
    if d.done then s.freeAreas d.ctx else s

/-! ## Precise stops (R403) -/

/-- The watchdog counts on from where it rested, once the core is neither stopped nor parked. -/
def Core.resumeIdle (k : Core) (tb : Nat) : Core := if k.counting then { k with idle := tb - k.idle } else k

/-- Parks a core's task in place (R340). -/
def Core.park (k : Core) (tb : Nat) : Core :=
  let k := k.pauseIdle tb
  { k with task := k.task.map (fun t => { t with parked := true }) }

/-! ## Trap registers (R367 to R371) -/

/-- The ORD field of k7 (R26). -/
def Core.ord (k : Core) : Nat := bits (k.k[7]) 31 9

/-- The escalations of R381. -/
def Cause.isEsc : Cause → Bool
  | .hemEscalated => true
  | .cinchEscalated => true
  | .ueEscalated => true
  | _ => false

/-- Writes the six trap registers (R367). -/
def State.writeTrap (s : State) (c : Fin 320) (t : Trap) (hnd : Bool) : State :=
  let k := s.core c
  let op := match s.taskInv c with
    | some i => i.fvpc
    | none => 0
  let cause := t.cause.code.toNat + 256 * b2n k.hs.isSome + 512 * b2n t.async + 1024 * b2n hnd + 2048 * b2n (t.cause.isEsc && !k.ph.irrev)
  let tile := k.ord + (match t.slot with
    | some x => x.toNat * 2 ^ 24 + 2 ^ 26
    | none => 0)
  let h := (match t.ring with
    | some r => r.toNat * 2 ^ 16 + 2 ^ 20
    | none => 0) + (match t.tensor with
    | some x => x.toNat + 256
    | none => 0)
  let sys := ((((k.sys.set 0x10 (BitVec.ofNat 64 cause)).set 0x11 (BitVec.ofNat 64 (k.fr.pc + k.fr.img.toNat * 2 ^ 32))).set 0x12 t.info).set
    0x13 (BitVec.ofNat 64 (bits op 55 0))).set 0x14 (BitVec.ofNat 64 tile)
  s.setCore c { k with sys := sys.set 0x15 (BitVec.ofNat 64 h) }

/-! ## The next bundle (R103, R104) -/

/-- The value of scalar r for the next bundle: the last result that lands for it, else the register. -/
def Front.peek (f : Front) (r : BitVec 6) : Word × Bool :=
  f.fl.foldl (fun a x => match x.dst with
    | .s d v p => if x.pos ≤ 1 ∧ d = r then (v, p) else a
    | _ => a) (f.getS r)

/-- The value of a binding's target (R103). -/
def Core.bindVal (k : Core) (b : Binding) : Word :=
  if b.ring then BitVec.ofNat 64 (k.rings[Fin.ofNat 16 b.tgt]).lofs else (k.fr.peek (BitVec.ofNat 6 b.tgt)).1

/-- Sets a binding's target: a ring's LOFS at once, a scalar as a result of latency 1 after the bundle's own. R103 speaks of values only: the poison
that the body left on the register stays, also when the value returns to its base (DESIGN CHOICE, log 111). -/
def Core.bindSet (k : Core) (b : Binding) (v : Int) : Core :=
  if b.ring then
    let i : Fin 16 := Fin.ofNat 16 b.tgt
    { k with rings := k.rings.set i { k.rings[i] with lofs := (v % (hSlots (k.rings[i]).h : Int)).toNat } }
  else
    let r := BitVec.ofNat 6 b.tgt
    { k with fr := { k.fr with fl := k.fr.fl ++ [{ pos := 1, dst := .s r (wordOf v) (k.fr.peek r).2, at_ := k.fr.nb }] } }

/-- Ends the running loop: counters and offsets return to 0 (R104). -/
def Core.endLoop (k : Core) : Core :=
  match k.loops.run with
  | none => k
  | some _ => { k with loops := { k.loops with lc := Vector.replicate 6 0, run := none }, rings := k.rings.map (fun r => { r with lofs := 0 }) }

/-- lc[0 .. m-1] go to 0 (R103). -/
def Loops.clearLc (l : Loops) (m : Nat) : Vector (BitVec 32) 6 := Vector.ofFn (fun i => if i.val < m then 0 else l.lc[i])

/-- The end of a body pass (R103). -/
def Core.passEnd (k : Core) (n : Nest) : Core :=
  let lc (j : Nat) : Nat := (k.loops.lc.toList.getD j 0).toNat
  let step (k : Core) (b : Binding × Word) : Core := 
    k.bindSet b.1 (if b.1.ring then ((k.bindVal b.1).toNat : Int) + b.1.stride.toInt else (k.bindVal b.1 + b.1.stride).toInt)
  match (List.range n.m).find? (fun j => lc j + 1 < n.trip.getD j 1) with
  | none =>
    let k := (List.range n.m).foldl (fun k j => (n.binds.filter (fun b => b.1.lvl == j)).foldl step k) k
    { k with loops := { k.loops with lc := k.loops.clearLc n.m, run := none }, rings := k.rings.map (fun r => { r with lofs := 0 }),
             fr := { k.fr with pc := n.start + 32 * n.n } }
  | some j0 =>
    let k := (List.range j0).foldl (fun k j => (n.binds.filter (fun b => b.1.lvl == j)).foldl (fun k b => k.bindSet b.1 b.2.toInt) k) k
    let k := (n.binds.filter (fun b => b.1.lvl == j0)).foldl step k
    let lcs : Vector (BitVec 32) 6 := Vector.ofFn (fun i =>
      if i.val < j0 then 0 else if i.val = j0 then k.loops.lc[i] + 1 else k.loops.lc[i])
    let binds := n.binds.map (fun b => if b.1.lvl < j0 then (b.1, k.bindVal b.1) else b)
    { k with loops := { k.loops with lc := lcs, run := some { n with binds := binds, first := false } }, fr := { k.fr with pc := n.start } }

/-- Whether the bundle at the pc is the last of the running body. -/
def Core.atBodyEnd (k : Core) : Option Nest :=
  match k.loops.run with
  | some n => if k.hs.isNone && k.fr.pc + 32 == n.start + 32 * n.n then some n else none
  | none => none

/-- Passes to the bundle after the one at the pc (R103). -/
def Core.advance (k : Core) : Core :=
  match k.atBodyEnd with
  | some n => k.passEnd n
  | none => { k with fr := { k.fr with pc := k.fr.pc + 32 } }

/-! ## Handler mode (R372 to R375) -/

/-- Handler entry at an offset (R372). -/
def Core.enterHandler (k : Core) (off : Nat) : Core :=
  let bank : Vector Word 8 := Vector.ofFn (fun i => k.fr.s[Fin.ofNat 64 (56 + i.val)])
  let bankp := BitVec.ofNat 8 (k.fr.sp.toNat / 2 ^ 56)
  let s := (List.range 8).foldl (fun (v : Vector Word 64) i => v.set (Fin.ofNat 64 (56 + i)) 0) k.fr.s
  { k with
    hs := some { pc := k.fr.pc, rtn := k.fr.rtn, fl := k.fr.fl, depth := k.fr.ret.length, bank := bank, bankp := bankp },
    fr := { k.fr with pc := off, rtn := off, fl := [], s := s, sp := BitVec.ofNat 64 (k.fr.sp.toNat % 2 ^ 56) } }

/-- HRET (R374, R375): the handler's results land, its bank is lost, the saved results are reinjected; under skip those of
position 1 land at once and the trapping bundle is passed by. R99 and R96 do not say what a skip past the last bundle of a routine does: the PC
advances there without a trap (DESIGN CHOICE, log 111). -/
def Core.leaveHandler (k : Core) (skip : Bool) : Core :=
  match k.hs with
  | none => k
  | some h =>
    let k := (k.fr.fl.map (·.dst)).foldl Core.land k
    let s := (List.range 8).foldl (fun (v : Vector Word 64) i => v.set (Fin.ofNat 64 (56 + i)) (h.bank[Fin.ofNat 8 i])) k.fr.s
    let sp := BitVec.ofNat 64 (k.fr.sp.toNat % 2 ^ 56 + h.bankp.toNat * 2 ^ 56)
    let outs := k.fr.outs.filter (fun o => !(o.hnd && 56 ≤ o.d.toNat))
    let k := { k with hs := none, arr := { k.arr with fact := k.arr.fact.map (fun x => { x with hres := false }) }, fr := { k.fr with pc := h.pc, rtn := h.rtn, fl := h.fl, s := s, sp := sp, outs := outs } }
    if !skip then k
    else
      let (d, r) := stepFlights k.fr.fl
      (d.foldl Core.land { k with fr := { k.fr with fl := r } }).advance

/-! ## Taking a trap on a core (R366) -/

/-- A kernel fault of a core's task (R376, R252): its invocation aborts and the report is held for delivery; only the first of an
invocation is reported. -/
def State.kernelFault (s : State) (c : Fin 320) (t : Trap) : State :=
  let s := s.writeTrap c t false
  match (s.core c).task, s.taskInv c with
  | some tk, some i =>
    if i.aborted then s.dropTask c
    else
      let k := s.core c
      let r : Report := { cause := t.cause, kind := true, fvpc := i.fvpc, info := t.info, tile := k.sys.get 0x14,
                          hnd := t.tensor, core := some (BitVec.ofNat 9 c.val), num := i.num, uid := some i.uid, tb := s.tb }
      (s.abortInv tk.osq i.uid).holdReport tk.osq r
  | _, _ => s.dropTask c

/-- A trap that stops an armed core precisely in place of being taken (R366, R403). -/
def Core.stopsAt (k : Core) (t : Trap) : Bool := k.armed && (t.cause == .watch || t.cause == .step || (t.cause == .break_ && !bit t.info 63))

/-- The first road of R366 that applies to a trap of a core before the bundle in hand. -/
def State.takeTrap (s : State) (c : Fin 320) (t : Trap) : State :=
  let s := t.note.foldl (fun s r => let s := s.logWatch c r.1
                                    if r.2 then s.fireSrc 0 c.val else s) s
  let k := s.core c
  if k.stopsAt t then
    s.stopCore c t.cause.code false (if t.cause == .watch then bits t.info 1 0 else 0)
  else if t.cause == .fatalHw || t.cause == .saveIntegrity then
    match k.task with
    | some tk => (s.writeTrap c t false).fatalCtx (s.strike t.cause (some c)) tk.osq
    | none => s
  else if k.hs.isSome && t.async then s.setCore c { k with held := k.held ++ [t] }
  else
    match (if k.hs.isSome then none else (s.img k.fr.img).bind (fun g => g.handlerFor t.cause)) with
    | some off => (s.writeTrap c t true).modCore c (fun k => k.enterHandler off)
    | none => s.kernelFault c t

/-! ## Failures of a phase (R379, R381) -/

/-- The first mismatch of a kind in a phase fires the halter trigger (R415). -/
def State.fireFirst (s : State) (c : Fin 320) (b : Nat) : State :=
  let k := s.core c
  if k.ph.fired.getLsbD (b - 2) then s else (s.setCore c { k with ph := { k.ph with fired := k.ph.fired ||| 1#2 <<< (b - 2) } }).fireSrc b c.val

/-- A failure that cancels the core's phase or escalates (R381, R382); a mismatch fires the halter trigger the first time in a phase.
`async` says that the array or an engine met it (R368), `slot` which slot of the issuing bundle did, `tensor` the operand that the access hit (R371). -/
def State.phaseFail (s : State) (c : Fin 320) (cause : Cause) (info : Word) (src : Option Nat) (async : Bool) (slot : Option (BitVec 2))
    (tensor : Option (BitVec 8) := none) : State :=
  let s := match src with
    | some b => s.fireFirst c b
    | none => s
  let k := s.core c
  if k.ph.irrev || 2 ≤ k.ph.att then
    s.kernelFault c { cause := cause, info := info, slot := slot, ring := none, tensor := tensor, async := async, note := [] }
  else (s.cancelPhase c).modCore c (fun k => { k with ph := { k.ph with att := k.ph.att + 1 } })

/-- An asynchronous failure on its way to a core: a stopped core holds it until resume (R404). -/
def State.holdFail (s : State) (c : Fin 320) (cause : Cause) (info : Word) (tensor : Option (BitVec 8)) : State :=
  s.modCore c (fun k => { k with async := k.async ++ [{ cause := cause, info := info, slot := none, ring := none, tensor := tensor, async := true, note := [],
                                                        phase := some k.ph.num }] })

/-- Cancels core c's phase for an uncorrectable error, or escalates (R378, R381); on a stopped core it waits for resume (R404). Record mode logs it, and in
replay a cancellation that the log does not hold at its tick is a divergence (R419, R420). -/
def State.ueFail (s : State) (c : Fin 320) (info : Word) (async : Bool) (slot : Option (BitVec 2)) (tensor : Option (BitVec 8) := none) : State :=
  let code := info.toNat % 16
  let gone := (s.core c).task.isSome
  if gone && (s.core c).stopped then s.holdFail c .ueEscalated info tensor else
  let s := s.countUe code
  let s := s.logRec 5 (BitVec.ofNat 8 code) (leBytes 2 c.val ++ leBytes 6 (bits info 63 16) ++ [BitVec.ofNat 8 (b2n gone)])
  let s := if !s.plat.rmode then s else
    match s.plat.replay.find? (fun r => r.typ == 5 && r.tick == s.tb.toNat && leNat (r.payload.take 2) == c.val) with
    | some r => { s with plat := { s.plat with replay := s.plat.replay.erase r } }
    | none => s.noteDiverge
  if gone then s.phaseFail c .ueEscalated info none async slot tensor else s

/-- A trap of a core, or the failure of its phase by an uncorrectable error or a hem mismatch. -/
def State.takeTrapUe (s : State) (c : Fin 320) (t : Trap) : State :=
  if t.cause == .hemEscalated then s.phaseFail c .hemEscalated t.info (some 3) t.async t.slot
  else if t.cause == .ueEscalated then s.ueFail c t.info t.async t.slot t.tensor else s.takeTrap c t

end Sys2Proof.Machine
end

