-- ==== Sys2Proof/Machine/Walker.lean ====
section
/-! DEFINITION. The walker (R299 to R316): loop-nest records (R302, R303), their iterations and ranges (R305, R306), extents (R307,
R308), readiness (R299), dispatch (R309 to R313), the end of an iteration (R314), spans of tensors (R258). -/

namespace Sys2Proof.Machine

/-! ## Loop-nest records (R302, R303) -/

abbrev LRec := Mem

def LRec.h0 (r : LRec) : Nat := Mem.read r 0 8
def LRec.h1 (r : LRec) : Nat := Mem.read r 8 8
def LRec.lben (r : LRec) : Bool := nbits r.h0 63 63 = 1
def LRec.lten (r : LRec) : Bool := nbits r.h0 62 62 = 1
def LRec.le (r : LRec) : Nat := nbits r.h0 61 58
def LRec.ltd (r : LRec) : Nat := nbits r.h0 57 55
def LRec.lbd (r : LRec) : Nat := nbits r.h0 54 52
def LRec.tsh (r : LRec) : Nat := nbits r.h0 51 48
def LRec.chunk (r : LRec) : Nat := nbits r.h0 46 39 + 1
def LRec.enum (r : LRec) (p : Nat) : Nat := nbits r.h0 (23 + 3 * p) (21 + 3 * p)
def LRec.ecls (r : LRec) : Nat := nbits r.h0 20 18
def LRec.prio (r : LRec) : Nat := nbits r.h0 17 16
def LRec.ndim (r : LRec) : Nat := nbits r.h0 15 13
/-- The routine's byte offset. -/
def LRec.entry (r : LRec) : Nat := nbits r.h0 12 0 * 32
def LRec.lbmask (r : LRec) (j : Nat) : Bool := Nat.testBit (nbits r.h1 49 42) j
def LRec.arg (r : LRec) : Nat := nbits r.h1 41 0 * 64
def LRec.trip (r : LRec) (d : Nat) : Nat := Mem.read r 16 16 / 2 ^ (21 * d) % 2 ^ 21
/-- Operand entry j as a 96-bit number (R303). -/
def LRec.opnd (r : LRec) (j : Nat) : Nat := Mem.read r (32 + 12 * j) 12

def loLen (e : Nat) : Nat := (nbits e 91 82 + 1) * 2 ^ (6 + nbits e 95 92)
def loStrB (e : Nat) : Int := sintOf 12 (nbits e 77 66) * (2 ^ (6 + nbits e 81 78) : Nat)
def loStrA (e : Nat) : Int := sintOf 12 (nbits e 61 50) * (2 ^ (6 + nbits e 65 62) : Nat)
def loDB (e : Nat) : Nat := nbits e 49 47
def loDA (e : Nat) : Nat := nbits e 46 44
def loAcc (e : Nat) : Nat := nbits e 43 42
def loBase (e : Nat) : Nat := nbits e 41 0 * 64

/-- Whether the record reads the latch (R305). -/
def LRec.latched (r : LRec) : Bool := r.lten || r.lben

/-! ## Iterations (R305) -/

/-- The trip of dimension d with indices idx, from the latched copy of the counts. -/
def tripOf (r : LRec) (lat : Option (List Nat × List Nat)) (idx : List Nat) (d : Nat) : Nat :=
  if r.lten && d = r.ltd then
    match lat with
    | some (c, _) => (c.getD (idx.getD r.lbd 0) 0 + 2 ^ r.tsh - 1) / 2 ^ r.tsh
    | none => 0
  else r.trip d

/-- Iterations inside the p innermost positions. -/
def nestCount (r : LRec) (lat : Option (List Nat × List Nat)) : Nat → List Nat → Nat
  | 0, _ => 1
  | p + 1, idx =>
    let d := r.enum p
    if r.lten && d = r.lbd then
      ((List.range (tripOf r lat idx d)).map (fun v => nestCount r lat p (idx.set d v))).foldl (· + ·) 0
    else tripOf r lat idx d * nestCount r lat p idx

/-- The latch-selecting dimension's value whose share holds ordinal n, and the ordinal within it. -/
def latchFind (f : Nat → Nat) : Nat → Nat → Nat → Nat × Nat
  | 0, v, n => (v, n)
  | fuel + 1, v, n => if n < f v then (v, n) else latchFind f fuel (v + 1) (n - f v)

/-- The indices of ordinal n inside the p innermost positions. -/
def nestIdx (r : LRec) (lat : Option (List Nat × List Nat)) : Nat → List Nat → Nat → List Nat
  | 0, idx, _ => idx
  | p + 1, idx, n =>
    let d := r.enum p
    if r.lten && d = r.lbd then
      let q := latchFind (fun v => nestCount r lat p (idx.set d v)) (tripOf r lat idx d) 0 n
      nestIdx r lat p (idx.set d q.1) q.2
    else
      let c := nestCount r lat p idx
      nestIdx r lat p (idx.set d (n / c)) (n % c)

/-- All iterations of a record. -/
def recTotal (r : LRec) (lat : Option (List Nat × List Nat)) : Nat := nestCount r lat r.ndim [0, 0, 0, 0, 0, 0]
/-- The indices of an ordinal. -/
def recIdx (r : LRec) (lat : Option (List Nat × List Nat)) (n : Nat) : List Nat := nestIdx r lat r.ndim [0, 0, 0, 0, 0, 0] n

/-- The first byte of operand j's range in an iteration (R306). -/
def rangeAt (r : LRec) (lat : Option (List Nat × List Nat)) (idx : List Nat) (j : Nat) : Int :=
  let e := r.opnd j
  let da := loDA e
  let db := loDB e
  let x : Nat := if r.lben && r.lbmask j then
      ((lat.map (fun l => l.2.getD (idx.getD r.lbd 0) 0)).getD 0) + idx.getD da 0 * 2 ^ r.tsh
    else idx.getD da 0
  (loBase e : Int) + (if da = 6 then 0 else (x : Int) * loStrA e) + (if db = 6 then 0 else (idx.getD db 0 : Int) * loStrB e)

/-! ## Spans (R258) -/

/-- Whether a tensor has no element. -/
def TRec.empty (t : TRec) : Bool := t.dim.any (· == 0)

/-- Scale bytes of a tensor (R231). -/
def TRec.scaleLen (t : TRec) : Nat := ((t.dim.getD 0 1 + 31) / 32) * (t.dim.drop 1).foldl (· * ·) 1

/-- The bytes of the tile table of a TCW tensor (R263). -/
def TRec.tableLen (t : TRec) : Nat :=
  8 * ((t.dim.getD 0 1 + 127) / 128) * ((t.dim.getD 1 1 + 127) / 128) * (t.dim.drop 2).foldl (· * ·) 1

/-- The lowest and highest byte a record addresses, its scale bytes included; none for an empty tensor. Of a TCW tensor this is the tile table;
State.spanOf adds the images that its entries lead to (R263). -/
def TRec.span (t : TRec) : Option (Int × Int) :=
  if t.empty then none
  else if t.fmt = 0x40 then some (t.base, (t.base : Int) + t.tableLen - 1)
  else
    let w : Int := codeWidth t.fmt
    let ds := t.dim.zip t.str
    let lo : Int := ds.foldl (fun a x => a + ((x.1 : Int) - 1) * min x.2 0) 0
    let hi : Int := ds.foldl (fun a x => a + ((x.1 : Int) - 1) * max x.2 0) 0
    let b0 := (t.base : Int) + Int.fdiv (lo * w) 8
    let b1 := (t.base : Int) + Int.fdiv (hi * w + w - 1) 8
    if t.scl then some (min b0 t.sbase, max b1 (t.sbase + t.scaleLen - 1)) else some (b0, b1)

/-- One byte as the pages of a root give it, without effects; 0 where no page does. -/
def State.vaByte (s : State) (root : BitVec 40) (sysv : Bool) (va : Nat) : Nat :=
  match s.walk root sysv va with
  | .leaf w _ => (s.readByte (lfIlv w) (lfPa w va)).toNat
  | .absent => 0
  | .notResident => 0

def State.vaNat (s : State) (root : BitVec 40) (sysv : Bool) (va : Nat) : Nat → Nat
  | 0 => 0
  | n + 1 => s.vaByte root sysv va + 256 * s.vaNat root sysv (va + 1) n

/-- The first byte after n segments of a TCW image (R206). -/
def State.tcwEnd (s : State) (root : BitVec 40) (sysv : Bool) : Nat → Nat → Nat
  | 0, a => a
  | n + 1, a =>
    let f := BitVec.ofNat 8 (s.vaByte root sysv (a + 16))
    s.tcwEnd root sysv n (a + (if isBFmt f then segBytes (codeWidth f) (s.vaByte root sysv (a + 17)) else 64))

/-- The images of a TCW tensor as memory stands: first byte and the byte after the last (R263). -/
def State.tcwRuns (s : State) (root : BitVec 40) (sysv : Bool) (t : TRec) : List (Nat × Nat) :=
  if t.fmt ≠ 0x40 then []
  else (List.range (t.tableLen / 8)).map (fun i =>
    let a := t.base + s.vaNat root sysv (t.base + 8 * i) 8
    (a, s.tcwEnd root sysv 128 a))

def State.tcwImages (s : State) (x : Ctx) (t : TRec) : List (Nat × Nat) := s.tcwRuns x.root x.sysv t

/-- The span of an operand (R258): the bytes its record addresses, the images of a TCW tensor included (R263). -/
def State.spanOf (s : State) (x : Ctx) (t : TRec) : Option (Int × Int) :=
  t.span.map (fun p => (s.tcwImages x t).foldl (fun p i => (min p.1 i.1, max p.2 ((i.2 : Int) - 1))) p)

/-- A range lies within a span, both widened to whole granules (R304). -/
def inSpan (sp : Option (Int × Int)) (lo : Int) (len : Nat) : Bool :=
  match sp with
  | none => false
  | some (a, b) => Int.fdiv a 4096 ≤ Int.fdiv lo 4096 && Int.fdiv (lo + len - 1) 4096 ≤ Int.fdiv b 4096

/-- Whether operand j's range of an iteration lies where R304 allows it. -/
def State.rangeOk (s : State) (x : Ctx) (i : Inv) (r : LRec) (lat : Option (List Nat × List Nat)) (idx : List Nat) (j : Nat) : Bool :=
  let e := r.opnd j
  let lo := rangeAt r lat idx j
  match i.opnds[j]? with
  | some o => inSpan (s.spanOf x o.tr) lo (loLen e)
  | none => (i.area : Int) + 4096 ≤ lo && lo + loLen e ≤ (i.area : Int) + 8192

/-- The record of operand j of a form within its invocation. -/
def Inv.recAt (i : Inv) (f : OpForm) (j : Nat) : TRec :=
  (((f.ts[j]?).bind (fun t => i.opnds.find? (fun o => o.hnd == t.1))).map (·.tr)).getD
    { base := 0, fmt := 0, rank := 0, scl := false, shd := false, ro := false, dim := [1, 1, 1, 1, 1, 1], str := [0, 0, 0, 0, 0, 0], sbase := 0, mesh := 0,
      axis := 0, index := 0, count := 0 }

/-- The bytes of the rows of head h and batch b, dimensions 0 and 1, in whole 64-byte units (R396): first byte and length. -/
def headRange (t : TRec) (h b : Nat) : Option (Int × Nat) :=
  let w : Int := codeWidth t.fmt
  let d (j : Nat) : Nat := t.dim.getD j 1
  let st (j : Nat) : Int := t.str.getD j 0
  if d 0 = 0 ∨ d 1 = 0 then none
  else
    let e : Int := h * st 2 + b * st 3
    let p (j : Nat) : Int := ((d j : Int) - 1) * st j
    let b0 := (t.base : Int) + Int.fdiv ((e + min (p 0) 0 + min (p 1) 0) * w) 8
    let b1 := (t.base : Int) + Int.fdiv ((e + max (p 0) 0 + max (p 1) 0) * w + w - 1) 8
    let lo := Int.fdiv b0 64 * 64
    some (lo, ((Int.fdiv (b1 - lo) 64 + 1) * 64).toNat)

/-- The kv head that head h of an ATTN reads (R272). -/
def kvHead (q k : TRec) (h : Nat) : Nat := if q.dim.getD 2 1 = 0 then 0 else h * k.dim.getD 2 1 / q.dim.getD 2 1

/-- Operand j of the record that the built-in ATTN submits (R396): ACC, first byte, length. -/
def decRange (i : Inv) (idx : List Nat) (j : Nat) : Nat × Int × Nat :=
  match i.stages with
  | [] => (0, 0, 0)
  | f :: _ =>
    let h := idx.getD 0 0
    match (if j < 4 then headRange (i.recAt f j) (if j < 2 then h else kvHead (i.recAt f 1) (i.recAt f 2) h) (idx.getD 1 0) else none) with
    | some (lo, n) => (if j = 0 then 2 else 1, lo, n)
    | none => (0, 0, 0)

/-- Operand j of an iteration: ACC, first byte, length. -/
def Inv.rangeOf (i : Inv) (r : LRec) (lat : Option (List Nat × List Nat)) (idx : List Nat) (j : Nat) : Nat × Int × Nat :=
  if i.img.isNone then decRange i idx j else (loAcc (r.opnd j), rangeAt r lat idx j, loLen (r.opnd j))

/-! ## Extents (R307, R308) -/

/-- What building an iteration's extents gives: extents with their operands, a park, or a kernel fault. -/
inductive Built where
  | ok (l : List (BitVec 128 × Nat)) (s : State)
  | park (s : State)
  | fault (c : Cause) (info : Nat) (op : Option Nat) (s : State)

/-- The extent of a run of granules (R307); WR stays clear in the weight store (R324). -/
def mkExtent (w : Word) (acc : Nat) (va pa n : Nat) : BitVec 128 :=
  let lo := 2 ^ 63 + b2n (acc % 2 = 1 && lfR w) * 2 ^ 62 + b2n (acc / 2 % 2 = 1 && lfW w && !isWs pa) * 2 ^ 61 + b2n (lfSk w) * 2 ^ 60 +
    b2n (lfCv w) * 2 ^ 59 + b2n (lfNa w) * 2 ^ 58 + lfIlv w * 2 ^ 55 + va
  BitVec.ofNat 128 (lo + (pa / 4096 + (n - 1) * 2 ^ 40) * 2 ^ 64)

/-- The attributes that a run of granules shares. -/
def leafAttr (w : Word) : Word := w &&& 0xE7C

/-- One operand's granules from va on, cut into runs; `cur` is the open run (leaf, first va, first pa, granules). -/
def State.extRuns (s : State) (q : Fin 16) (x : Ctx) (acc j : Nat) : Nat → Nat → Option (Word × Nat × Nat × Nat) → Built
  | 0, _, cur => .ok (match cur with
      | some (w, va, pa, n) => [(mkExtent w acc va pa n, j)]
      | none => []) s
  | fuel + 1, va, cur =>
    let (r, s) := s.translate q x va false
    match r with
    | .absent => .fault .extentMiss (va % 2 ^ 48 * 65536) (some j) s
    | .notResident => .park s
    | .leaf w ea =>
      let pa := lfPa w va
      let s := if acc / 2 % 2 = 1 && lfW w && !isWs pa then s.touchLeaf x.slot.toNat w ea true else s
      match cur with
      | some (w0, va0, pa0, n) =>
        if leafAttr w0 = leafAttr w ∧ pa = pa0 + n * 4096 then State.extRuns s q x acc j fuel (va + 4096) (some (w0, va0, pa0, n + 1))
        else match State.extRuns s q x acc j fuel (va + 4096) (some (w, va, pa, 1)) with
          | .ok l s => .ok ((mkExtent w0 acc va0 pa0 n, j) :: l) s
          | b => b
      | none => State.extRuns s q x acc j fuel (va + 4096) (some (w, va, pa, 1))

/-- The extents of operands j .. 7 of an iteration. -/
def State.extOps (s : State) (q : Fin 16) (x : Ctx) (i : Inv) (r : LRec) (lat : Option (List Nat × List Nat)) (idx : List Nat) (lim : Nat) :
    Nat → Nat → List (BitVec 128 × Nat) → Built
  | 0, _, acc => .ok acc s
  | fuel + 1, j, acc =>
    let (ac, lo, len) := i.rangeOf r lat idx j
    if ac = 0 then State.extOps s q x i r lat idx lim fuel (j + 1) acc
    else if r.latched && !s.rangeOk x i r lat idx j then .fault .record (32 + 12 * j) (some j) s
    else
      let g0 := (Int.fdiv lo 4096).toNat
      let g1 := (Int.fdiv (lo + len - 1) 4096).toNat
      match s.extRuns q x ac j (g1 - g0 + 1) (g0 * 4096) none with
      | .ok l s =>
        if lim < acc.length + l.length then .fault .extentOverflow (j + l.length % 256 * 256) (some j) s
        else State.extOps s q x i r lat idx lim fuel (j + 1) (acc ++ l)
      | b => b

/-- The extent registers of an iteration: extents, kernel constants, the latched pair (R307). A constant is taken as it stands, also where one with lo[63] set
has VBASE or lo bits set that R23 calls zero, of which the manual states no check (DESIGN CHOICE, log 142). -/
def extRegs (r : LRec) (w : WRec) (idx : List Nat) (l : List (BitVec 128 × Nat)) : Vector (BitVec 128) 16 :=
  Vector.ofFn (fun n =>
    match l[n.val]? with
    | some e => e.1
    | none =>
      if n.val < 8 then 0
      else if r.latched && n.val = 15 then
        match w.latch with
        | some (c, p) => BitVec.ofNat 128 (p.getD (idx.getD r.lbd 0) 0 + c.getD (idx.getD r.lbd 0) 0 * 2 ^ 64)
        | none => 0
      else BitVec.ofNat 128 (Mem.read w.consts (16 * (n.val - 8)) 16))

/-! ## Records in the walker -/

def Ctx.wrec (x : Ctx) (inv ord : Nat) : Option WRec := x.recs.find? (fun w => w.inv == inv && w.ord == ord)
def Ctx.modRec (x : Ctx) (inv ord : Nat) (f : WRec → WRec) : Ctx :=
  { x with recs := x.recs.map (fun w => if w.inv == inv && w.ord == ord then f w else w) }

/-- Whether an earlier invocation holds back readers of a root (R299): an output not yet published. -/
def Ctx.unpublished (x : Ctx) (uid root : Nat) : Bool :=
  x.invs.any (fun y => y.uid < uid && y.opnds.any (fun o => o.root == root && o.role != 0 && !o.pub))

/-- An aborted invocation whose outputs TRAPRET has published: what comes after is held back by it no longer (R253). -/
def Inv.over (i : Inv) : Bool := i.aborted && i.opnds.all (fun o => o.role == 0 || o.pub)

/-- Whether an earlier invocation in flight names a root in any role (R299). -/
def Ctx.named (x : Ctx) (uid root : Nat) : Bool := x.invs.any (fun y => y.uid < uid && !y.over && y.opnds.any (fun o => o.root == root))

/-- Whether every operand of an invocation and every latch entry it reads is ready (R299). -/
def Ctx.opsReady (x : Ctx) (i : Inv) : Bool :=
  i.opnds.all (fun o => (o.role == 1 || !x.unpublished i.uid o.root) && (o.role == 0 || !x.named i.uid o.root)) &&
  (match i.latchR with
    | some e => !x.invs.any (fun y => y.uid < i.uid && !y.over && y.latchW == some e) && ((x.latch.toList.getD e { st := 0, n := 0, got := 0, cnt := Vector.replicate 256 0, pre := Vector.replicate 256 0, out := 0 }).st == 2)
    | none => true) &&
  (match i.latchW with
    | some e => !x.invs.any (fun y => y.uid < i.uid && !y.over && (y.latchW == some e || y.latchR == some e))
    | none => true)

/-- Whether a record is ready (R299). -/
def Ctx.recReady (x : Ctx) (w : WRec) : Bool :=
  match x.inv w.inv with
  | none => false
  | some i => !i.aborted && x.opsReady i &&
    (!LRec.latched w.raw || w.latch.isSome || (match x.latch[LRec.le w.raw]? with
      | some l => l.st == 2
      | none => false))

/-- A record that is ready for the first time: the latched copy, the total and the tick (R305, R310). -/
def WRec.arm (w : WRec) (x : Ctx) (tb : Nat) : WRec :=
  if w.total.isSome then w
  else
    let lat := if LRec.latched w.raw then (x.latch[LRec.le w.raw]?).map (fun l => (l.cnt.toList.map (·.toNat), l.pre.toList.map (·.toNat))) else none
    { w with latch := lat, total := some (recTotal w.raw lat), ready := some tb, first := tb }

/-- Whether every chunk of a record has ended. -/
def WRec.ended (w : WRec) : Bool := w.total == some w.next && w.back.isEmpty && w.out == 0

/-- The next chunk of an armed record: its first ordinal and length. -/
def WRec.offer (w : WRec) : Option (Nat × Nat) :=
  match w.back with
  | b :: _ => some b
  | [] => match w.total with
    | none => none
    | some t => if w.next < t then some (w.next, min (LRec.chunk w.raw) (t - w.next)) else none

/-- The record without the chunk it offered. -/
def WRec.take (w : WRec) : WRec :=
  match w.back with
  | _ :: l => { w with back := l, out := w.out + 1 }
  | [] => match w.offer with
    | some (_, n) => { w with next := w.next + n, out := w.out + 1 }
    | none => w

/-- Arms the ready records of a context and removes those that have ended. -/
def State.armRecs (s : State) (q : Fin 16) : State :=
  s.modCtx q (fun x => { x with recs := (x.recs.map (fun w => if x.recReady w then w.arm x s.tb.toNat else w)).filter (fun w => !w.ended) })

/-- The effective priority of a record (R310). -/
def WRec.prio (w : WRec) (tb : Nat) : Nat := min 3 (LRec.prio w.raw + (tb - w.ready.getD tb) / 64000)

/-- The records of a context that can hand out a chunk, in the order of R309. -/
def Ctx.offers (x : Ctx) (tb : Nat) : List WRec :=
  let l := x.recs.filter (fun w => w.offer.isSome && x.recReady w)
  (List.range 4).flatMap (fun p => l.filter (fun w => w.prio tb = 3 - p))

/-! ## Dispatch (R309 to R313) -/

/-- The team's free cores in ascending order. -/
def State.freeCores (s : State) (x : Ctx) : List (Fin 320) :=
  (List.finRange 320).filter (fun c => x.team.getLsbD (c.val / 8) && (s.core c).task.isNone)

/-- The charge of a chunk of n iterations of class c (R311). -/
def State.charge (s : State) (w : WRec) (n : Nat) : Nat := n * (bits s.plat.govCls (8 * LRec.ecls w.raw + 7) (8 * LRec.ecls w.raw))

/-- The 10 µs window of a tick. -/
def windowOf (tb : Nat) : Nat := tb / 10000

/-- Whether a record has been deferred in four consecutive windows (R311). -/
def WRec.overdue (w : WRec) (tb : Nat) : Bool := 4 ≤ w.defer && w.defWin < windowOf tb

/-- The first eligible record of a context for core c: its charge fits, or it has been deferred long enough (R309, R311). -/
def State.eligible (s : State) (x : Ctx) (c : Fin 320) : Option WRec :=
  let l := x.offers s.tb.toNat
  let fits (w : WRec) : Bool := match w.offer with
    | some (_, n) => s.charge w n ≤ (s.dies[Fin.ofNat 4 (c.val / 80)]).budget
    | none => false
  l.find? (fun w => w.overdue s.tb.toNat || fits w)

/-- A core at the start of a newly dispatched task or iteration (R14, R313). R14 and R313 name no value for HEM.TOL and GAIT.THR: both keep what the
core's previous task left (DESIGN CHOICE, log 112). -/
def Core.fresh (k : Core) (i : Inv) (pc : Nat) : Core :=
  let a := k.arr
  { k with
    fr := { Front.reset with img := k.fr.img, pc := pc, rtn := pc },
    v := Vector.replicate 64 (Vector.replicate 64 0), vp := Vector.replicate 64 0, m := (Vector.replicate 8 0).set 0 (BitVec.allOnes 64),
    rings := Vector.replicate 16 Ring.reset, loops := Loops.reset, eng := Engines.reset,
    arr := { a with perm := MArr.reset.perm, g := 0, fs := 0, termc := Vector.replicate 8 0, beatc := 0, queue := [], fact := none, hmode := 0,
                    hems := Vector.replicate 2 Hem.reset, hstat := 0 },
    mbox := i.mbox, ft := i.ft, ftab := Vector.replicate 4 ftabZero, bins := Vector.replicate 256 0, binOut := 0, gclk := 0, gon := false, old := [],
    hs := none, held := [], async := [], gens := [], cinchN := 0, cinchC := 0xFFFFFFFF, dbg := { k.dbg with trace := false, run := 0 },
    mode := k.mode &&& ~~~ 0x10#64,
    sys := (k.sys.set 0x1B (BitVec.ofNat 64 (i.ftb.toNat % 16))).set 0x1C (BitVec.ofNat 64 (i.ftb.toNat / 16)) }

/-- A core at the start of a successor (R14, R106): scalars, vectors, predicates, masks, loop state and return stack start afresh. -/
def Core.succeed (k : Core) (pc : Nat) : Core :=
  { k with
    fr := { Front.reset with img := k.fr.img, pc := pc, rtn := pc, outs := k.fr.outs },
    v := Vector.replicate 64 (Vector.replicate 64 0), vp := Vector.replicate 64 0, m := (Vector.replicate 8 0).set 0 (BitVec.allOnes 64),
    loops := Loops.reset, rings := k.rings.map (fun r => { r with lofs := 0 }), gclk := 0, gon := false, cinchN := 0, cinchC := 0xFFFFFFFF,
    dbg := { k.dbg with trace := false, run := 0 } }

/-- The phase of a routine begins: a number of its own and the checkpoint at its first bundle. -/
def State.openPhase (s : State) (c : Fin 320) : State :=
  let num := s.phases + 1
  let k := s.core c
  ({ s with phases := num }).setCore c { k with ph := { Phase.reset with num := num, ckpt := k.checkpoint k.fr.pc, refetch := k.ph.refetch } }

/-- A kernel fault of an iteration that the walker raises (R308, R304): it names the iteration. -/
def State.walkFault (s : State) (q : Fin 16) (x : Ctx) (i : Inv) (ord : Nat) (cause : Cause) (info : Nat) (op : Option Nat) : State :=
  let r : Report := { cause := cause, kind := true, fvpc := i.fvpc, info := BitVec.ofNat 64 info, tile := BitVec.ofNat 64 (ord % 2 ^ 23),
                      hnd := op.bind (fun j => (i.opnds[j]?).map (·.hnd)), core := none, num := i.num, uid := some i.uid, tb := s.tb }
  if (x.inv i.uid).any (·.aborted) then s else (s.abortInv q i.uid).holdReport q r

/-- Frees a core and notes that its chunk has ended, putting back what is left of it (R308, R384). -/
def State.endChunk (s : State) (c : Fin 320) (back : Option (Nat × Nat)) : State :=
  match (s.core c).task with
  | none => s
  | some t =>
    let s := s.modCore c Core.clearTask
    let s := s.modCtx t.osq (fun x => x.modRec t.inv t.wrec (fun w =>
      { w with out := w.out - 1, back := (match back with
          | some b => if b.2 = 0 then w.back else b :: w.back
          | none => w.back) }))
    s.armRecs t.osq

/-- Loads ordinal ord of the core's chunk: extents, k0 .. k7 (R307, R313); a park or a fault frees the core. The task then starts
with `start` at pc. -/
def State.loadIter (s : State) (c : Fin 320) (t : Task) (ord left : Nat) (pc : Nat) (fresh : Bool) : State :=
  match s.ctx t.osq with
  | none => s
  | some x =>
    match x.inv t.inv, x.wrec t.inv t.wrec with
    | some i, some w =>
      let r : LRec := w.raw
      let idx := recIdx r w.latch ord
      match s.extOps t.osq x i r w.latch idx (if r.latched then 15 else 16) 8 0 [] with
      | .fault cause info op s => s.walkFault t.osq x i ord cause info op
      | .park s => (s.setCore c { (s.core c) with task := some t }).endChunk c (some (ord, left + 1))
      | .ok l s =>
        let k := s.core c
        let k := if fresh then { (k.fresh i pc) with fr := { ((k.fresh i pc).fr) with img := i.img.getD 0 } } else k.succeed pc
        let k7 := x.tag.toNat * 2 ^ 48 + i.num.toNat * 2 ^ 32 + ord % 2 ^ 23 * 2 ^ 9 + c.val
        let kk : Vector Word 8 := Vector.ofFn (fun n =>
          if n.val < 6 then BitVec.ofNat 64 (idx.getD n.val 0) else if n.val = 6 then BitVec.ofNat 64 r.arg else BitVec.ofNat 64 k7)
        let k := { k with e := extRegs r w idx l, eop := l.map (·.2), k := kk, tilectx := x.tag, idle := s.tb.toNat, wper := s.plat.wdog, revoked := false,
                          task := some { t with ord := ord, left := left, idx := idx, entry := pc, stopping := none, exiting := false, arrived := none, parked := false, frozen := false } }
        (s.setCore c k).openPhase c
    | _, _ => s

/-- The L1 without its SK lines: they are invalid at the kernel boundary (R313, R322). -/
def Core.dropSk (k : Core) : List (Nat × List Nat) :=
  (k.l1.map (fun x => (x.1, x.2.filter (fun l => (spGet none k.sk l).isNone)))).filter (fun x => x.2 != [])

/-- The resident kernel clears EN where it dispatches a task of a process that is not opened to debugging (R402). -/
def Core.closed (k : Core) (x : Ctx) : Core := if x.dbgOk then k else { k with dbg := { k.dbg with ctl := k.dbg.ctl &&& ~~~ 1#64 } }

/-- Hands a chunk of a record to a core (R309, R311, R313). -/
def State.handOut (s : State) (q : Fin 16) (x : Ctx) (w : WRec) (c : Fin 320) : State :=
  match w.offer, x.inv w.inv with
  | some (o, n), some i =>
    let d : Fin 4 := Fin.ofNat 4 (c.val / 80)
    let cost := s.charge w n
    let die := s.dies[d]
    let excess := die.budget < cost
    let s := { s with dies := s.dies.set d { die with budget := if excess then 0 else die.budget - cost },
                      plat := if excess then { s.plat with overlog := s.plat.overlog ++ [(x.tag, i.num, w.ord)] } else s.plat }
    let s := s.modCtx q (fun x => x.modRec w.inv w.ord (fun w => { w.take with ready := some s.tb.toNat, defer := 0 }))
    let k := s.core c
    let k := if k.lastInv = (x.tag.toNat, w.inv) then k else { k with sk := [], l1 := k.dropSk, lastInv := (x.tag.toNat, w.inv) }
    let k := k.closed x
    let t : Task := { osq := q, inv := w.inv, wrec := w.ord, ord := o, left := n - 1, idx := [], entry := LRec.entry w.raw,
                      parked := false, frozen := false, stopping := none, exiting := false, arrived := none }
    (s.setCore c { k with task := some t }).loadIter c t o (n - 1) (LRec.entry w.raw) true
  | _, _ => s

/-- Notes that a context's first record is deferred in the window (R311). -/
def State.noteDefer (s : State) (q : Fin 16) (w : WRec) : State :=
  let now := windowOf s.tb.toNat
  s.modCtx q (fun x => x.modRec w.inv w.ord (fun w =>
    if w.defer ≠ 0 ∧ w.defWin = now then w
    else if w.defer ≠ 0 ∧ w.defWin + 1 = now then { w with defer := w.defer + 1, defWin := now }
    else { w with defer := 1, defWin := now }))

/-- One offer against another for the same core (R312): the higher effective priority, the earlier readiness, the lower OSQ. -/
def beats (tb : Nat) (q : Fin 16) (w : WRec) (q' : Fin 16) (w' : WRec) : Bool :=
  let p := w.prio tb
  let p' := w'.prio tb
  p' < p || (p' == p && (w.first < w'.first || (w.first == w'.first && q < q')))

/-- The walker of sequencer q hands out its next chunk (R309 to R312). -/
def State.dispatch (s : State) (q : Fin 16) : State :=
  let s := s.armRecs q
  match s.ctx q with
  | none => s
  | some x =>
    if x.preReq.isSome then s
    else match s.freeCores x with
    | [] => s
    | c :: _ =>
      let first := (x.offers s.tb.toNat).head?
      let s := match first with
        | some w => if w.overdue s.tb.toNat || (w.offer.any (fun o => s.charge w o.2 ≤ (s.dies[Fin.ofNat 4 (c.val / 80)]).budget)) then s else s.noteDefer q w
        | none => s
      match s.eligible x c with
      | none => s
      | some w =>
        let rival := (List.finRange 16).any (fun q' => q' != q && match s.ctx q' with
          | none => false
          | some x' => x'.preReq.isNone && (s.freeCores x').head? == some c && match s.eligible x' c with
            | none => false
            | some w' => beats s.tb.toNat q' w' q w)
        if rival then s else s.handOut q x w c

/-! ## The end of an iteration (R314) -/

/-- EXIT.E once its waits are over, or EXIT.N with the chunk exhausted (R106, R314, R384). -/
def State.exitEnd (s : State) (c : Fin 320) : State :=
  match (s.core c).task with
  | none => s
  | some t =>
    if t.left = 0 then s.endChunk c none
    else if (s.ctx t.osq).any (fun x => x.preReq.isSome) then s.endChunk c (some (t.ord + 1, t.left))
    else match (s.ctx t.osq).bind (fun x => x.wrec t.inv t.wrec) with
      | some w => s.loadIter c t (t.ord + 1) (t.left - 1) (LRec.entry w.raw) true
      | none => s.endChunk c none

/-- EXIT.S to a routine: same iteration, same k and extents (R314). -/
def State.exitSame (s : State) (c : Fin 320) (target : Nat) : State := (s.modCore c (fun k => k.succeed target)).openPhase c

/-- EXIT.N to a routine (R105, R314, R384). -/
def State.exitNext (s : State) (c : Fin 320) (target : Nat) : State :=
  match (s.core c).task with
  | none => s
  | some t =>
    if (s.ctx t.osq).any (fun x => x.preReq.isSome) then s.endChunk c (some (t.ord + 1, t.left))
    else s.loadIter c t (t.ord + 1) (t.left - 1) target false

end Sys2Proof.Machine
end

