-- ==== Sys2Proof/Machine/Slot.lean ====
section
/-! DEFINITION. One slot of a bundle (R64 to R66) and what follows when a bundle has issued: the next bundle (R95, R96, R103), the
deferred write of SWR (R35), the commits and ends of PHASE, SSTEP, PREEMPT, EXIT, HRET and OPEND. -/

namespace Sys2Proof.Machine

/-! ## Enabled slots (R64 to R66) -/

/-- The level's trip and counter inside a body. -/
def Core.level (k : Core) (l : Nat) : Option (Nat × Nat) :=
  match k.loops.run with
  | none => none
  | some r => if l < r.m && k.hs.isNone then some ((k.loops.lc.toList.getD l 0).toNat, r.trip.getD l 1) else none

/-- The qualifier selects the current iteration (R64). -/
def Core.selects (k : Core) (q : BitVec 2) (l : BitVec 3) : Bool :=
  if q = 0 then true
  else match k.level l.toNat with
    | none => false
    | some (i, t) => match q.toNat with
      | 1 => i == 0
      | 2 => i + 1 == t
      | _ => i != 0 && i + 1 != t

/-- The slot is enabled (R66). -/
def State.enabled (s : State) (g : Guard) : Bool :=
  (s.front.getP g.pd ^^ g.pn) && (match s.cur with
    | .core c => (s.core c).selects g.q g.lvl
    | .seq _ => g.q == 0)

/-! ## Traps and stalls of the unit in hand -/

/-- Takes a trap of the current unit (R366, R298); a cinch mismatch is a failure of the phase (R110, R381); a sequencer that meets an
uncorrectable error takes FATAL_HW (R378). -/
def State.raise (s : State) (t : Trap) : State :=
  let s := { s with iss := Issue.idle }.trapLeft s.cur t
  match s.cur with
  | .core c => if t.cause == .cinchEscalated then s.phaseFail c .cinchEscalated t.info (some 2) false t.slot else s.takeTrapUe c t
  | .seq q => if t.cause == .fatalHw then (s.countUe 0).fatalCtx (s.strike .fatalHw none) q else s.seqTrap q t

/-- A request leaves for a slot that waits for its answer; an atomic of a core is irrevocable from here on (R128, R382). -/
def State.sendSlot (s : State) (r : FReq) (data : Bool) : State :=
  let s := match s.cur with
    | .core c => if r.kind = 2 then s.modCore c (fun k => { k with ph := { k.ph with irrev := true } }) else s
    | .seq _ => s
  s.sendReq { r with hm := s.inHm s.cur } data

/-- The bundle in hand of core c waits for the answer to a request that it sent. -/
def State.sSent (s : State) (c : Fin 320) : Bool :=
  s.plat.reqs.any (fun r => r.unit == .core c && (r.kind == 0 || r.kind == 2) && !r.gone && r.hm == s.inHm (.core c))

/-- SSTEP's first part (R137): the phase commits and the core arrives; its checkpoint stands at the SSTEP until it issues. A core whose extents
were revoked while its phase was irrevocable parks there (R340). -/
def State.sstepArrive (s : State) (c : Fin 320) : State :=
  match s.taskInv c with
  | none => s
  | some i =>
    match s.phaseCommit c (s.core c).fr.pc with
    | .error t => s.raise t
    | .ok (s, sig) =>
      let s := s.modCore c (fun k => { k with task := k.task.map (fun t => { t with arrived := some i.sstep }) })
      match sig with
      | some t => s.raise t
      | none => s.modCore c (fun k => if k.revoked then k.park s.tb.toNat else k)

/-- A stall that acts: SSTEP arrives; a full spill table is asked to grow. -/
def stallActs (x : BitVec 8 × BitVec 8) : Bool := x == (11, 1) || x.1 == 0xF1

/-- The stall of the bundle in hand acts: it sends a request, arrives or asks. -/
def Issue.acts (i : Issue) : Bool := i.send.isSome || i.stall.any stallActs

/-- The trap that the bundle in hand takes: a slot's that stalls holds the bundle back before any traps, but a stall that acts gives way to a trap
(R83, R366; DESIGN CHOICE, log 9). -/
def Issue.traps (i : Issue) : Option Trap := if i.stall.isNone || i.acts then i.trap else none

/-- What a stall leaves behind: SSTEP arrives once; a sequencer parks for a page (R137, R296); a full spill table is asked to grow (R336). -/
def State.onStall (s : State) (why detail : BitVec 8) : State :=
  if why = 0xF1 then s.askSpill (Fin.ofNat 4 detail.toNat)
  else match s.cur with
  | .core c => if why = 11 && detail = 1 then s.sstepArrive c else s
  | .seq q => if why = 0xF0 then s.modCtx q (fun x => { x with pageWait := true }) else s

/-! ## The next bundle -/

/-- The image of the unit's routine. -/
def State.curImg (s : State) : Option Img := s.img s.front.img

/-- Code of the unit runs in the system view: its image is a vendor-signed system kernel (R9, R241). -/
def State.sysView (s : State) : Bool :=
  match s.curImg with
  | some g => g.sysv
  | none => false

/-- The bundle transfers no control and is the last of its routine (R96): the next offset is no bundle or opens a routine. -/
def State.fallsOff (s : State) : Bool :=
  let f := s.front
  let inner := match s.cur with
    | .core c => match (s.core c).atBodyEnd with
      | some n => (List.range n.m).any (fun j => ((s.core c).loops.lc.toList.getD j 0).toNat + 1 < n.trip.getD j 1)
      | none => false
    | .seq _ => false
  let leaves := match s.iss.post with
    | .none | .swr _ _ | .cinch | .phase | .sstep | .stop _ => true
    | .mark _ _ | .exit _ _ | .hret _ | .opend _ => false
  s.iss.next.isNone && leaves && !inner && (match s.curImg with
    | some g => !g.isBundle (f.pc + 32) || g.rs (f.pc + 32)
    | none => false)

/-- MARK starts the armed loop at the bundle after it (R103): lc[0 .. m-1] go to 0 unless a trip count is 0. DESIGN CHOICE (log 111): a base taken
here counts a result in flight that lands for the first body bundle, and the skip of a body with a zero trip count is no taken transfer, so it
opens no cinch segment. -/
def Core.startLoop (k : Core) (n m : Nat) : Core :=
  let start := k.fr.pc + 32
  let trip := k.loops.trips.take m
  let armed := k.loops.binds.filter (fun b => b.lvl < m)
  let k := { k with loops := { k.loops with trips := [1, 1, 1, 1, 1, 1], binds := [] } }
  if trip.any (· == 0) then { k with fr := { k.fr with pc := start + 32 * n } }
  else
    { k with loops := { k.loops with lc := k.loops.clearLc m, run := some { start := start, n := n, m := m, trip := trip, binds := armed.map (fun b => (b, k.bindVal b)), first := true } },
             fr := { k.fr with pc := start } }

/-- A taken transfer (R84, R104, R110): a running loop ends and a cinch segment opens, unless the handler takes it. -/
def Core.jump (k : Core) (pc : Nat) : Core :=
  let k := if k.hs.isSome then k else { (k.endLoop) with cinchN := 0, cinchC := 0xFFFFFFFF }
  { k with fr := { k.fr with pc := pc } }

/-! ## Register numbers of SWR (R28, R138), written after the bundle (R35) -/

def Core.setLc (k : Core) (i : Nat) (v : Word) : Core :=
  { k with loops := { k.loops with lc := k.loops.lc.set (Fin.ofNat 6 i) (v.truncate 32) } }

/-- The absolute value of an FP32 operand, +0 for a NaN (R34). -/
def hemTol (v : Word) : Word := let x := bits v 30 0; if 0x7F800000 < x then 0 else BitVec.ofNat 64 x

/-- The writable fields of a system-view or user-view SWR of core register n take v (R28, R29, R33, R34, R368, R371, R408, R412). -/
def Core.writeSys (k : Core) (n : Nat) (v : Word) (sysv : Bool) : Core :=
  let put (m : Word) : Core := { k with sys := k.sys.set n (v &&& m) }
  if n = 0x000 then
    let m : Word := if sysv then 0x32 else 0x10
    { k with mode := blend k.mode v m }
  else if n = 0x003 then { k with fr := { k.fr with scyc := v } }
  else if n = 0x004 then { k with arr := { k.arr with beatc := v } }
  else if 0x008 ≤ n ∧ n ≤ 0x00F then { k with arr := { k.arr with termc := k.arr.termc.set (Fin.ofNat 8 (n - 8)) (v.truncate 48) } }
  else if n = 0x010 then put 0xFFF
  else if n = 0x011 then put 0x0000FFFF0003FFFF
  else if n = 0x014 then put 0x77FFFFF
  else if n = 0x015 then put 0x1F01FF
  else if n = 0x018 then { k with sys := k.sys.set n (hemTol v) }
  else if n = 0x019 then { k with arr := { k.arr with hstat := v &&& 0x000000FF0003F8FF } }
  else if n = 0x01A then put 0xFFFFFFFF
  else if n = 0x01B then put 0xF
  else if n = 0x01C then put 0xF
  else if n = 0x01E then { k with arr := { k.arr with fs := v &&& 0xFCFFFF07 } }
  else if n = 0x01F then { k with arr := { k.arr with g := v.truncate 32 } }
  else if 0x020 ≤ n ∧ n ≤ 0x02F then
    { k with arr := { k.arr with perm := (List.range 8).foldl (fun (p : Vector (BitVec 8) 128) b =>
        p.set (Fin.ofNat 128 (8 * (n - 0x20) + b)) (BitVec.ofNat 8 (bits v (8 * b + 7) (8 * b)))) k.arr.perm } }
  else if 0x040 ≤ n ∧ n ≤ 0x043 then put 0x000FFFFFFFFFFFF0
  else if 0x044 ≤ n ∧ n ≤ 0x047 then put 0xFFFF
  else if 0x048 ≤ n ∧ n ≤ 0x04B then put 0xFFFF0000000001DD
  else if 0x050 ≤ n ∧ n ≤ 0x06F then
    let i : Fin 16 := Fin.ofNat 16 ((n - 0x50) / 2)
    let e := k.e[i]
    let w := if n % 2 = 0 then exHi e ++ (v &&& 0xFF80FFFFFFFFF000) else v ++ exLo e
    { k with e := k.e.set i w }
  else if 0x070 ≤ n ∧ n ≤ 0x077 then { k with k := k.k.set (Fin.ofNat 8 (n - 0x70)) v }
  else if 0x078 ≤ n ∧ n ≤ 0x07D then k.setLc (n - 0x78) v
  else if 0x080 ≤ n ∧ n ≤ 0x08F then { k with ft := k.ft.set (Fin.ofNat 16 (n - 0x80)) v }
  else put (BitVec.allOnes 64)

/-- The writable fields of a sequencer register (R295). -/
def State.writeSeq (s : State) (q : Fin 16) (n : Nat) (v : Word) : State :=
  s.modCtx q (fun x =>
    if n = 0x003 then { x with exp := x.exp.map (fun e => { e with fr := { e.fr with scyc := v } }) }
    else if n = 0x129 then { x with quota := BitVec.ofNat 8 (bits v 7 0) }
    else if n = 0x12A then { x with team := BitVec.ofNat 40 (bits v 39 0) }
    else if 0x130 ≤ n ∧ n ≤ 0x137 then
      match x.exp with
      | some e => x.modInv e.uid (fun i => { i with mbox := i.mbox.set (Fin.ofNat 8 (n - 0x130)) v })
      | none => x
    else x)

/-! ## The end of a bundle -/

/-- Whether a core's task may end now (R106): no beat, command or load is left, nor a watch match of a landing that has yet to reach the core (R441). -/
def Core.quiet (k : Core) : Bool :=
  k.arr.queue.isEmpty && k.eng.queue.isEmpty && k.eng.cls.toList.all (·.isEmpty) && k.fr.outs.isEmpty && k.eng.watch.isNone

def MOp.isFact : MOp → Bool
  | .fact _ _ _ _ _ _ _ _ _ => true
  | .mldw _ _ _ _ => false
  | .mswap => false
  | .mpush _ _ _ _ _ _ _ => false
  | .mdrain _ _ _ _ _ _ => false
  | .mzero _ => false
  | .mhem _ => false
  | .mtclr _ => false
  | .mperm _ => false

/-- The beat queue is over for a stop: empty, or headed by a factorisation that is stopped or has not begun (R190, R394). -/
def MArr.over (a : MArr) : Bool :=
  match a.queue with
  | [] => true
  | e :: _ => e.op.isFact && (!e.run || bit a.fs 30)

/-- A stopping task waits as EXIT.E waits, but for entries held at or behind a stopped factorisation (R384, R190). -/
def Core.quietStop (k : Core) : Bool :=
  k.arr.over && k.eng.queue.isEmpty && k.eng.cls.toList.all (·.isEmpty) && k.fr.outs.isEmpty && k.eng.watch.isNone

/-- What an EXIT does after its commit (R106). -/
def State.exitPost (s : State) (c : Fin 320) (fn : BitVec 2) (target : Nat) : State :=
  let k := s.core c
  let last := match k.task with
    | some t => t.left = 0 || (s.ctx t.osq).any (fun x => x.preReq.isSome)
    | none => true
  if fn = 1 then s.exitSame c target
  else if fn = 2 && !last then s.exitNext c target
  else if k.quiet then s.exitEnd c
  else s.setCore c { k with task := k.task.map (fun t => { t with exiting := true }), fr := { k.fr with fl := [] } }

/-- Superstep n of an invocation may end (R137 steps 2 and 3, R316, R353): every core that runs a task of it has arrived, no landing, flip or fold of those
cores' engines is to come, and no write to a window is on its way. A core without a task of it counts as arrived. Reads that engines have yet to make
stay in their superstep by what Core.keepOld keeps (log 120). -/
def State.stepOver (s : State) (q : Fin 16) (uid n : Nat) : Bool :=
  (s.coresOf q uid).all (fun d => (s.core d).task.all (fun t => t.arrived == some n) && !(s.core d).changesDue) &&
  !s.plat.reqs.any (fun r => r.osq == q && r.uid == uid && r.kind == 1)

/-- A superstep ends (R137 steps 3 and 4): its partials are folded and the number advances. -/
def State.endStep (s : State) (q : Fin 16) (uid : Nat) : State :=
  (s.foldParts q uid).modCtx q (fun x => x.modInv uid (fun i => { i with sstep := i.sstep + 1 }))

/-- The L1 without its lines that are not SK (R137 step 5, R322). -/
def Core.l1Step (k : Core) : Core :=
  { k with l1 := (k.l1.map (fun x => (x.1, x.2.filter (fun l => (spGet none k.sk l).isSome)))).filter (fun x => x.2 != []) }

/-- SSTEP has issued: the wait is over, the checkpoint stands at the next bundle, L1 lines that are not SK are invalid (R137). -/
def Core.sstepDone (k : Core) : Core :=
  { k.l1Step with task := k.task.map (fun t => { t with arrived := none }), ph := { k.ph with ckpt := k.checkpoint k.fr.pc } }

/-- OPEND has issued (R224): the routine is over, or starts again in the next superstep. -/
def State.opendPost (s : State) (q : Fin 16) (k : BitVec 2) : State :=
  match (s.ctx q).bind (fun x => x.exp.map (fun e => (x, e))) with
  | none => s
  | some (x0, e) =>
    if k = 2 then
      let s := s.endStep q e.uid
      let s := { s with cores := s.cores.mapFinIdx (fun i k _ => if x0.team.getLsbD (i / 8) && k.l1 != [] then k.l1Step else k) }
      s.modCtx q (fun x =>
        let x := x.modInv e.uid (fun i => { i with reps := i.reps + 1, opened := false, sealed := true })
        { x with exp := some { e with fr := { e.fr with pc := e.code, rtn := e.code, scyc := 0, ret := [] }, handledPage := false } })
    else
      s.modCtx q (fun x => { (x.modInv e.uid (fun i => { i with ended := true, opened := true, sealed := true, cancel := k == 1 })) with exp := none })

/-- A commit inside the end of a bundle; a refused doorbell or window line is raised after it (R431); a core whose extents were
revoked while its phase was irrevocable parks in place (R340). -/
def State.commitThen (s : State) (c : Fin 320) (bound : Nat) (k : State → State) : State :=
  match s.phaseCommit c (s.core c).fr.pc bound with
  | .error t => s.raise t
  | .ok (s, none) => k (s.modCore c (fun x => if x.revoked then x.park s.tb.toNat else x))
  | .ok (s, some t) => s.raise t

/-- A running factorisation stops at its next step boundary (R190). -/
def MArr.haltFact (a : MArr) : MArr := { a with fact := a.fact.map (fun f => { f with halt := true }) }

/-- The end of a bundle that issued on core c. -/
def State.finishCore (s : State) (c : Fin 320) : State :=
  let post := s.iss.post
  let next := s.iss.next
  let bound := s.iss.seq0.getD (s.core c).issued
  let s := { s with iss := Issue.idle }
  let k := s.core c
  let k := if k.hs.isSome then k else { k with fr := { k.fr with scyc := k.fr.scyc + 1 } }
  let k := match next, post with
    | some pc, _ => k.jump pc
    | none, .mark n m => k.startLoop n m
    | none, .exit _ _ => k
    | none, .hret _ => k
    | none, _ => k.advance
  let s := s.setCore c k
  match post with
  | .none => s
  | .swr n v => s.setCore c (k.writeSys n v s.sysView)
  | .mark _ _ => s
  | .cinch => s.setCore c { k with cinchN := 0, cinchC := 0xFFFFFFFF }
  | .phase => s.commitThen c bound id
  | .sstep => s.setCore c k.sstepDone
  | .exit fn target => s.commitThen c bound (fun s => s.exitPost c fn target)
  | .hret skip =>
    let s := s.setCore c (k.leaveHandler skip)
    if skip then s.orphan (fun r => r.unit == .core c && (r.kind == 0 || r.kind == 2)) else s
  | .opend _ => s
  | .stop live => s.commitThen c bound (fun s => s.modCore c (fun k => { k with arr := k.arr.haltFact, task := k.task.map (fun t => { t with stopping := some live }) }))

/-- The end of a bundle that issued on sequencer q. -/
def State.finishSeq (s : State) (q : Fin 16) : State :=
  let post := s.iss.post
  let next := s.iss.next
  let s := { s with iss := Issue.idle }
  let s := s.modCtx q (fun x => { x with exp := x.exp.map (fun e =>
    { e with fr := { e.fr with scyc := e.fr.scyc + 1, pc := match next with
      | some pc => pc
      | none => e.fr.pc + 32 } }) })
  match post with
  | .swr n v => s.writeSeq q n v
  | .opend k => s.opendPost q k
  | _ => s

/-- The end of a bundle of the current unit. -/
def State.finish (s : State) : State :=
  match s.cur with
  | .core c => s.finishCore c
  | .seq q => s.finishSeq q

/-- What a slot form alone leaves: its own effect, its transfer and its deferred part, without the bundle's counts. -/
def State.finish1 (s : State) : State :=
  match s.iss.post, s.iss.next with
  | .none, none => { s with iss := Issue.idle }
  | _, _ => s.finish

/-! ## Slots -/

/-- What a slot does in a bundle of which another slot already stalled or trapped: a stall of a lower reason replaces the one in hand, and any replaces one
that acts; the first trap stays (R411, R366). -/
def Issue.more (i : Issue) (e : Eff) : Issue :=
  match e with
  | .ok _ => i
  | .trap t => { i with trap := some (i.trap.getD t) }
  | .stall r d =>
    if stallActs (r, d) then (if i.stall.isNone then { i with stall := some (r, d) } else i)
    else if i.acts || i.stall.all (fun x => r < x.1) then { i with stall := some (r, d), send := none }
    else i
  | .send r w => if i.stall.isNone then { i with stall := some (1, 0), send := some (r, w) } else i

/-- One slot of the bundle in hand: nothing when it is not enabled; else its effect, or its stall or trap. Once a slot stalled or trapped, the others only
count for their own stalls and traps. Alone, it is a bundle of its own. -/
def slotDo (g : Guard) (f : State → Eff) (s : State) : Out :=
  if !s.enabled g then .next s
  else if s.iss.trap.isSome || s.iss.stall.isSome then .next { s with iss := s.iss.more (f s) }
  else match f s with
    | .ok t => .next (if s.iss.bundle then t else t.finish1)
    | .trap t => .next (if s.iss.bundle then { s with iss := { s.iss with trap := some t } } else s.raise t)
    | .stall r d => .next (if s.iss.bundle then { s with iss := { s.iss with stall := some (r, d) } } else s.onStall r d)
    | .send r w => .next (if s.iss.bundle then { s with iss := { s.iss with stall := some (1, 0), send := some (r, w) } } else s.sendSlot r w)

end Sys2Proof.Machine
end

