-- ==== Sys2Proof/Machine/Operands.lean ====
section
/-! DEFINITION. Operand forms of the slots: register pairs and triples with their poison (R82, R111), immediates (R69), consumed
operands (R112), addresses (R114), ring-slot operands (R21, R73, R102). -/

namespace Sys2Proof.Machine

/-- sext(IMM32, 32) (R69). -/
def sx32 (x : BitVec 32) : Word := x.signExtend 64
def zx32 (x : BitVec 32) : Word := x.zeroExtend 64
/-- sext(IMM28, 28) (R69). -/
def sx28 (x : BitVec 28) : Word := x.signExtend 64

/-- sD from one register (R88). -/
def alu1 (f : SA) (op : Word → Word) (s : State) : Eff :=
  withS f.a s fun a p => .ok (s.flyS 1 f.d (op a) p)

/-- sD from two registers, readable after `lat` bundles (R81, R88). -/
def alu2 (lat : Nat) (f : SA) (op : Word → Word → Word) (s : State) : Eff :=
  withS f.a s fun a pa => withS f.b s fun b pb => .ok (s.flyS lat f.d (op a b) (pa || pb))

/-- sD from three registers (R88). -/
def alu3 (lat : Nat) (f : SA) (op : Word → Word → Word → Word) (s : State) : Eff :=
  withS f.a s fun a pa => withS f.b s fun b pb => withS f.c s fun c pc => .ok (s.flyS lat f.d (op a b c) (pa || pb || pc))

/-- A division form (R90): a zero divisor raises DIV_ZERO unless an operand is poisoned, and then the poisoned value is free (R111). -/
def aluDiv (f : SA) (op : Word → Word → Word) (s : State) : Eff :=
  withS f.a s fun a pa => withS f.b s fun b pb =>
    if b = 0 then
      if pa || pb then .ok ({ s with free := s.free + 1 }.flyS 12 f.d (Config.freeWord s.free) true)
      else .trap (mkTrap .divZero (BitVec.ofNat 64 (65536 * f.b.toNat)) 0)
    else .ok (s.flyS 12 f.d (op a b) (pa || pb))

/-- sD from a register and an immediate (R91). -/
def aluI (f : SI) (op : Word → Word → Word) (s : State) : Eff :=
  withS f.a s fun a p => .ok (s.flyS 1 f.d (op a (sx32 f.imm)) p)

/-- The address sA + sext(IMM28, 28) of an SM form with its base consumed (R112, R114). -/
def withAddr (f : SM) (s : State) (k : Nat → Eff) : Eff := withC 0 f.a s fun a => k (a + sx28 f.imm).toNat

/-- Bytes of an access by its SZ field (R69). -/
def szBytes (z : BitVec 2) : Nat := 2 ^ z.toNat

/-- A loaded value of n bytes extended as SX selects (R114). -/
def extLoad (sx : Bool) (n v : Nat) : Word := if sx then wordOf (sintOf (8 * n) v) else BitVec.ofNat 64 v

/-- A ring operand that the form names: HANDLE when it is disabled or the encoded offset is above CNT (R20, R21). -/
def withRing (slot : BitVec 2) (h : BitVec 4) (off : Nat) (s : State) (k : Ring → Eff) : Eff :=
  let r := s.ringAt h
  if !hEn r.h || hSlots r.h ≤ off then .trap (handleTrap slot h) else k r

/-- The physical slot on the consume side of an effective offset (R21, R102). -/
def consSlot (r : Ring) (off : Nat) : Nat := (hCons r.h + effOff r off) % hSlots r.h
/-- The physical slot on the produce side. -/
def prodSlot (r : Ring) (off : Nat) : Nat := (hProd r.h + effOff r off) % hSlots r.h

/-- RS of a ring-slot operand: handle and offset (R73). -/
def rsH (x : BitVec 12) : BitVec 4 := x.truncate 4
def rsOff (x : BitVec 12) : Nat := x.toNat / 16

/-- A system register or field that the view may not write (R10). -/
def noRight (sys : Nat) : Eff := .trap (privTrap 0 sys)

end Sys2Proof.Machine
end

