-- ==== Sys2Proof/Machine/Flags.lean ====
section
/-! DEFINITION. Conditions: the comparisons of CMP and CMPI (R92), of NCMP and WAITSIG (R247, R288), the tables of PLOG and
VMSK.log (R93, R153). -/

namespace Sys2Proof.Machine

/-- The condition FN of CMP and CMPI (R92). -/
def cmpHolds (fn : Nat) (a x : Word) : Bool :=
  match fn % 8 with
  | 0 => a == x
  | 1 => a != x
  | 2 => a.toInt < x.toInt
  | 3 => x.toInt ≤ a.toInt
  | 4 => a.toNat < x.toNat
  | _ => x.toNat ≤ a.toNat

/-- The signed condition cc of NCMP and WAITSIG (R247, R288): 0 EQ, 1 NE, 2 LT, 3 LE, 4 GT, 5 GE. -/
def ncmpHolds (cc : BitVec 3) (a b : Word) : Bool :=
  match cc.toNat with
  | 0 => a == b
  | 1 => a != b
  | 2 => a.toInt < b.toInt
  | 3 => a.toInt ≤ b.toInt
  | 4 => b.toInt < a.toInt
  | _ => b.toInt ≤ a.toInt

/-- Entry 2a + b of a 4-bit table (R93). -/
def tableBit (tt : Nat) (a b : Bool) : Bool := Nat.testBit tt (2 * b2n a + b2n b)

/-- CMP and CMPI on consumed operands (R92, R112). -/
def cmpTo (d : BitVec 6) (fn : Nat) (a x : Word) (s : State) : Eff := .ok (s.fly 1 (.p (d.truncate 4) (cmpHolds fn a x)))

end Sys2Proof.Machine
end

