-- ==== Sys2Proof/Machine/Scalar.lean ====
section
/-! DEFINITION. The S-slot scalar family: integer arithmetic and logic (R88 to R90), immediates (R91), predicates and selection
(R92 to R94), CHK (R112), NOP (R65). -/

namespace Sys2Proof.Machine

/-- A product as unbounded integers, its bits 127 .. 64. -/
def mulHigh (a b : Int) : Word := wordOf ((a * b) / (2 ^ 64 : Nat))

/-- Leading zero bits (R88). -/
def clzW (x : Word) : Word := BitVec.ofNat 64 (if x = 0 then 64 else 63 - Nat.log2 x.toNat)
/-- Trailing zero bits (R88). -/
def ctzW (x : Word) : Word := BitVec.ofNat 64 (((List.range 64).find? (fun i => x.getLsbD i)).getD 64)
/-- Number of set bits (R88). -/
def popcW (x : Word) : Word := BitVec.ofNat 64 ((List.range 64).countP (fun i => x.getLsbD i))

/-- The bit field of EXT (R89). -/
def extW (fn : BitVec 8) (a b : Word) : Word :=
  let w := fn.toNat % 64 + 1
  let f := (a >>> (b.toNat % 64)).toNat % 2 ^ w
  if fn.getLsbD 6 then wordOf (sintOf w f) else BitVec.ofNat 64 f

/-- NOP does nothing (R65). -/
def execNop (_slot : BitVec 2) (s : State) : Out := .next s

/-- ADD (R88) -/
def execAdd (g : Guard) (f : SA) (s : State) : Out := slotDo g (alu2 1 f (fun a b => a + b)) s
/-- SUB (R88) -/
def execSub (g : Guard) (f : SA) (s : State) : Out := slotDo g (alu2 1 f (fun a b => a - b)) s
/-- MUL (R88) -/
def execMul (g : Guard) (f : SA) (s : State) : Out := slotDo g (alu2 3 f (fun a b => a * b)) s
/-- MULH (R88) -/
def execMulh (g : Guard) (f : SA) (s : State) : Out := slotDo g (alu2 3 f (fun a b => mulHigh a.toInt b.toInt)) s
/-- MULHU (R88) -/
def execMulhu (g : Guard) (f : SA) (s : State) : Out := slotDo g (alu2 3 f (fun a b => mulHigh a.toNat b.toNat)) s
/-- AND (R88) -/
def execAndR (g : Guard) (f : SA) (s : State) : Out := slotDo g (alu2 1 f (fun a b => a &&& b)) s
/-- OR (R88) -/
def execOrR (g : Guard) (f : SA) (s : State) : Out := slotDo g (alu2 1 f (fun a b => a ||| b)) s
/-- XOR (R88) -/
def execXorR (g : Guard) (f : SA) (s : State) : Out := slotDo g (alu2 1 f (fun a b => a ^^^ b)) s
/-- ANDN (R88) -/
def execAndn (g : Guard) (f : SA) (s : State) : Out := slotDo g (alu2 1 f (fun a b => a &&& ~~~ b)) s
/-- SHL (R88) -/
def execShl (g : Guard) (f : SA) (s : State) : Out := slotDo g (alu2 1 f (fun a b => a <<< (b.toNat % 64))) s
/-- SHR (R88) -/
def execShr (g : Guard) (f : SA) (s : State) : Out := slotDo g (alu2 1 f (fun a b => a >>> (b.toNat % 64))) s
/-- SRA (R88) -/
def execSra (g : Guard) (f : SA) (s : State) : Out := slotDo g (alu2 1 f (fun a b => a.sshiftRight (b.toNat % 64))) s
/-- MIN (R88) -/
def execMinR (g : Guard) (f : SA) (s : State) : Out := slotDo g (alu2 1 f (fun a b => if a.toInt ≤ b.toInt then a else b)) s
/-- MAX (R88) -/
def execMaxR (g : Guard) (f : SA) (s : State) : Out := slotDo g (alu2 1 f (fun a b => if b.toInt ≤ a.toInt then a else b)) s
/-- MINU (R88) -/
def execMinu (g : Guard) (f : SA) (s : State) : Out := slotDo g (alu2 1 f (fun a b => if a.toNat ≤ b.toNat then a else b)) s
/-- MAXU (R88) -/
def execMaxu (g : Guard) (f : SA) (s : State) : Out := slotDo g (alu2 1 f (fun a b => if b.toNat ≤ a.toNat then a else b)) s
/-- DIV, truncated toward zero (R88, R90) -/
def execDiv (g : Guard) (f : SA) (s : State) : Out := slotDo g (aluDiv f (fun a b => wordOf (Int.tdiv a.toInt b.toInt))) s
/-- DIVU (R88, R90) -/
def execDivu (g : Guard) (f : SA) (s : State) : Out := slotDo g (aluDiv f (fun a b => BitVec.ofNat 64 (a.toNat / b.toNat))) s
/-- REM (R88, R90) -/
def execRem (g : Guard) (f : SA) (s : State) : Out := slotDo g (aluDiv f (fun a b => wordOf (Int.tmod a.toInt b.toInt))) s
/-- REMU (R88, R90) -/
def execRemu (g : Guard) (f : SA) (s : State) : Out := slotDo g (aluDiv f (fun a b => BitVec.ofNat 64 (a.toNat % b.toNat))) s
/-- CLZ (R88) -/
def execClz (g : Guard) (f : SA) (s : State) : Out := slotDo g (alu1 f clzW) s
/-- CTZ (R88) -/
def execCtz (g : Guard) (f : SA) (s : State) : Out := slotDo g (alu1 f ctzW) s
/-- POPC (R88) -/
def execPopc (g : Guard) (f : SA) (s : State) : Out := slotDo g (alu1 f popcW) s
/-- EXT (R89) -/
def execExt (g : Guard) (f : SA) (s : State) : Out := slotDo g (alu2 1 f (extW f.fn)) s
/-- MADDR (R88) -/
def execMaddr (g : Guard) (f : SA) (s : State) : Out := slotDo g (alu3 3 f (fun a b c => a * b + c)) s
/-- SEL: the chosen arm with its poison (R94) -/
def execSel (g : Guard) (f : SA) (s : State) : Out := slotDo g (fun s => withS f.a s fun a pa => withS f.b s fun b pb =>
  if s.front.getP (f.c.truncate 4) then .ok (s.flyS 1 f.d a pa) else .ok (s.flyS 1 f.d b pb)) s
/-- CMP (R92) -/
def execCmp (g : Guard) (f : SA) (s : State) : Out := slotDo g (fun s => withC 0 f.a s fun a => withC 0 f.b s fun b => cmpTo f.d f.fn.toNat a b s) s
/-- PLOG (R93) -/
def execPlog (g : Guard) (f : SA) (s : State) : Out := slotDo g (fun s =>
  .ok (s.fly 1 (.p (f.d.truncate 4) (tableBit f.fn.toNat (s.front.getP (f.a.truncate 4)) (s.front.getP (f.b.truncate 4)))))) s
/-- ADDI (R91) -/
def execAddi (g : Guard) (f : SI) (s : State) : Out := slotDo g (aluI f (fun a x => a + x)) s
/-- ANDI (R91) -/
def execAndi (g : Guard) (f : SI) (s : State) : Out := slotDo g (aluI f (fun a x => a &&& x)) s
/-- ORI (R91) -/
def execOri (g : Guard) (f : SI) (s : State) : Out := slotDo g (aluI f (fun a x => a ||| x)) s
/-- XORI (R91) -/
def execXori (g : Guard) (f : SI) (s : State) : Out := slotDo g (aluI f (fun a x => a ^^^ x)) s
/-- SHLI (R91) -/
def execShli (g : Guard) (f : SI) (s : State) : Out := slotDo g (aluI f (fun a x => a <<< (x.toNat % 64))) s
/-- SHRI (R91) -/
def execShri (g : Guard) (f : SI) (s : State) : Out := slotDo g (aluI f (fun a x => a >>> (x.toNat % 64))) s
/-- SRAI (R91) -/
def execSrai (g : Guard) (f : SI) (s : State) : Out := slotDo g (aluI f (fun a x => a.sshiftRight (x.toNat % 64))) s
/-- LIH (R91) -/
def execLih (g : Guard) (f : SI) (s : State) : Out := slotDo g (aluI f (fun a x => BitVec.ofNat 64 (bits x 31 0 * 2 ^ 32 + bits a 31 0))) s
/-- MOVK: 16 bits at 16k replaced (R91) -/
def execMovk (g : Guard) (f : SI) (s : State) : Out := slotDo g (aluI f (fun a x => setBits a (16 * (f.fn.toNat % 4) + 15) (16 * (f.fn.toNat % 4)) (bits x 15 0))) s
/-- LI: never poisoned (R91) -/
def execLi (g : Guard) (f : SI) (s : State) : Out := slotDo g (fun s => .ok (s.flyS 1 f.d (sx32 f.imm) false)) s
/-- CMPI (R92) -/
def execCmpi (g : Guard) (f : SI) (s : State) : Out := slotDo g (fun s => withC 0 f.a s fun a => cmpTo f.d f.fn.toNat a (sx32 f.imm) s) s
/-- CHK: consumes the poison of sA (R112) -/
def execChk (g : Guard) (f : SC) (s : State) : Out := slotDo g (fun s => withC 0 f.a s fun _ => .ok s) s

end Sys2Proof.Machine
end

