-- ==== Sys2Proof/Machine/Control.lean ====
section
/-! DEFINITION. The S-slot control family (R95 to R110, R137): transfers, the loop buffer, traps and the return from a handler, the
end of a task, phases, pre-emption points, GAIT and CINCH. -/

namespace Sys2Proof.Machine

/-! ## Transfers (R95 to R97) -/

/-- A transfer to an image offset: ILLEGAL_BUNDLE unless it names a bundle that opens no routine (R96). -/
def goTo (s : State) (target : Int) (k : State → State) : Eff :=
  match s.curImg with
  | none => .trap xferTrap
  | some g =>
    if target < 0 || !g.isBundle target.toNat || g.rs target.toNat then .trap xferTrap
    else .ok (let t := k s
              { t with iss := { t.iss with next := some target.toNat } })

/-- The target 32 × offset from the unit's bundle (R69). -/
def brTarget (s : State) (imm : BitVec 32) : Int := (s.front.pc : Int) + 32 * imm.toInt

/-- BR (R95) -/
def execBr (g : Guard) (f : SC) (s : State) : Out := slotDo g (fun s => goTo s (brTarget s f.imm) id) s

/-- JMP (R95, R96) -/
def execJmp (g : Guard) (f : SC) (s : State) : Out :=
  slotDo g (fun s => withC 0 f.a s fun a =>
    let t := (a + sx32 f.imm * 32).toInt
    if t % 32 ≠ 0 then .trap (addrTrap .misalign 0 0 (a + sx32 f.imm * 32).toNat) else goTo s t id) s

/-- CALL (R95, R97) -/
def execCall (g : Guard) (f : SC) (s : State) : Out :=
  slotDo g (fun s =>
    if 8 ≤ s.front.ret.length then .trap (stackTrap 0)
    else goTo s (brTarget s f.imm) (fun s => let fr := s.front
                                             s.setFront { fr with ret := (fr.pc + 32) :: fr.ret })) s

/-- RET (R95, R97) -/
def execRet (g : Guard) (_f : SC) (s : State) : Out :=
  slotDo g (fun s =>
    match s.front.ret with
    | [] => .trap (stackTrap 0)
    | t :: l => goTo s (t : Int) (fun s => s.setFront { s.front with ret := l })) s

/-! ## Forms refused in handler mode (R373) -/

def notInHandler (s : State) (e : Eff) : Eff := if s.inHandler then .trap (hmTrap 0) else e

/-! ## The loop buffer (R100 to R104) -/

/-- MARK (R103, R104). No rule names the skip of a body with a zero trip count that leaves the routine: it raises ILLEGAL_BUNDLE as a transfer out of
the routine does, at the MARK (DESIGN CHOICE, log 111). -/
def execMark (g : Guard) (f : SC) (s : State) : Out :=
  slotDo g (fun s => notInHandler s
    (let k := s.core s.curCore
     let n := f.imm.toNat % 128
     let m := f.fn.toNat
     let body (i : Nat) : Bool := match s.curImg with
       | none => false
       | some g => g.isBundle (k.fr.pc + 32 * i) && !g.rs (k.fr.pc + 32 * i)
     if k.loops.run.isSome || !(List.range n).all (fun i => body (i + 1)) then .trap (mkTrap .illegalBundle 0 0)
     else if (k.loops.trips.take m).any (· == 0) && !body (n + 1) then .trap xferTrap
     else .ok { s with iss := { s.iss with post := .mark n m } })) s

/-- Arms the trip count of a level (R100). -/
def armTrip (s : State) (lvl : Nat) (src : Word) (imm : BitVec 32) : Eff :=
  let t := src.toNat + imm.toNat
  if 2 ^ 32 ≤ t then .trap (shapeTrap 0 lvl)
  else .ok (s.modCore s.curCore (fun k => { k with loops := { k.loops with trips := k.loops.trips.set lvl t } }))

/-- LSET (R100) -/
def execLset (g : Guard) (f : SC) (s : State) : Out :=
  slotDo g (fun s => notInHandler s
    (if f.b = 0 then withC 0 f.a s fun a => armTrip s f.fn.toNat a f.imm
     else armTrip s f.fn.toNat ((s.core s.curCore).mbox[Fin.ofNat 8 (f.b.toNat - 1)]) f.imm)) s

/-- Arms a stride binding (R101): one already armed for the level and target is replaced, a thirteenth raises STACK. -/
def armBind (s : State) (b : Binding) : Eff :=
  let l := (s.core s.curCore).loops.binds
  let same (x : Binding) : Bool := x.lvl == b.lvl && x.ring == b.ring && x.tgt == b.tgt
  if l.any same then
    .ok (s.modCore s.curCore (fun k => { k with loops := { k.loops with binds := k.loops.binds.map (fun x => if same x then b else x) } }))
  else if 12 ≤ l.length then .trap (stackTrap 0)
  else .ok (s.modCore s.curCore (fun k => { k with loops := { k.loops with binds := k.loops.binds ++ [b] } }))

/-- LSTR (R101) -/
def execLstr (g : Guard) (f : SC) (s : State) : Out :=
  slotDo g (fun s => notInHandler s
    (withC 0 f.b s fun b =>
      if f.a = 0 then armBind s { lvl := f.fn.toNat, ring := true, tgt := f.imm.toNat % 16, stride := b }
      else armBind s { lvl := f.fn.toNat, ring := false, tgt := f.a.toNat, stride := b + sx32 f.imm })) s

/-! ## Commits (R107): PHASE, EXIT, PREEMPT -/

/-- What PHASE and the forms that first do all it does need (R106, R107): no handler mode, its waits over, no race at the commit. -/
def withCommit (s : State) (k : State → Eff) : Eff :=
  let c := s.curCore
  notInHandler s
    (if !(s.core c).phaseReady then .stall 14 0
     else match s.phaseCommit c (s.core c).fr.pc with
      | .error t => .trap t
      | .ok r => spillWait s r.1 (k s))

/-- PHASE (R107) -/
def execPhase (g : Guard) (_f : SC) (s : State) : Out :=
  slotDo g (fun s => withCommit s fun s => .ok { s with iss := { s.iss with post := .phase } }) s

/-- A successor's target must open a task routine of the image (R105). The target is a signed offset in bundles, as BR's (DEDUCED, log 49). -/
def taskTarget (s : State) (imm : BitVec 32) (k : Nat → Eff) : Eff :=
  let t := brTarget s imm
  match s.curImg with
  | none => .trap xferTrap
  | some g => if 0 ≤ t && g.isTask t.toNat then k t.toNat else .trap xferTrap

/-- EXIT.E (R105, R106, R314) -/
def execExitE (g : Guard) (_f : SC) (s : State) : Out :=
  slotDo g (fun s => withCommit s fun s => .ok { s with iss := { s.iss with post := .exit 0 0 } }) s

/-- EXIT.S (R105, R106, R314) -/
def execExitS (g : Guard) (f : SC) (s : State) : Out :=
  slotDo g (fun s => notInHandler s (taskTarget s f.imm fun t =>
    withCommit s fun s => .ok { s with iss := { s.iss with post := .exit 1 t } })) s

/-- EXIT.N (R105, R106, R314) -/
def execExitN (g : Guard) (f : SC) (s : State) : Out :=
  slotDo g (fun s => notInHandler s (taskTarget s f.imm fun t =>
    withCommit s fun s => .ok { s with iss := { s.iss with post := .exit 2 t } })) s

/-- PREEMPT (R108, R384): with a request pending it commits and the task stops with the named state live. -/
def execPreempt (g : Guard) (f : SC) (s : State) : Out :=
  slotDo g (fun s => notInHandler s
    (if (s.ctx s.curSeq).any (fun x => x.preReq.isSome) then
       withCommit s fun s => .ok { s with iss := { s.iss with post := .stop (f.imm.truncate 16) } }
     else .ok s)) s

/-! ## Traps and HRET (R98, R99) -/

/-- TRAP (R98) -/
def execTrap (g : Guard) (f : SC) (s : State) : Out :=
  slotDo g (fun _ => .trap (mkTrap .break_ (BitVec.ofNat 64 (2 ^ 63 + f.imm.toNat)) 0)) s

/-- BRK (R98): a precise stop where the debugger is armed, else a kernel fault. -/
def execBrk (g : Guard) (f : SC) (s : State) : Out :=
  slotDo g (fun _ => .trap (mkTrap .break_ (BitVec.ofNat 64 f.imm.toNat) 0)) s

/-- The checks of both HRET forms (R99, R375). -/
def hretEff (skip : Bool) (s : State) : Eff :=
  match (s.core s.curCore).hs with
  | none => .trap (privTrap 0 0)
  | some h =>
    if s.front.ret.length ≠ h.depth then .trap (stackTrap 0)
    else .ok { s with iss := { s.iss with post := .hret skip } }

/-- HRET (R99, R374, R375) -/
def execHret (g : Guard) (_f : SC) (s : State) : Out := slotDo g (hretEff false) s

/-- HRET.skip (R99, R374, R375) -/
def execHretSkip (g : Guard) (_f : SC) (s : State) : Out := slotDo g (hretEff true) s

/-! ## Checking the schedule (R109, R110, R410) -/

/-- A gait record (R410). -/
def gaitRec (s : State) (k : Core) (expected : BitVec 32) (drift : Word) : List Byte :=
  leBytes 8 s.tb.toNat ++ k.name ++ leBytes 8 (k.k[7]).toNat ++ leBytes 4 expected.toNat ++ leBytes 4 0 ++ leBytes 8 k.gclk.toNat ++
  leBytes 8 drift.toNat ++ k.arr.termc.toList.flatMap (fun t => leBytes 6 t.toNat) ++ leBytes 8 k.arr.beatc.toNat ++ leBytes 16 0

/-- GAIT's effect (R410). -/
def State.gait (s : State) (c : Fin 320) (expected : BitVec 32) : State :=
  let k := s.core c
  let drift := k.gclk - zx32 expected
  let excess := bits (k.sys.get 0x01A) 31 0 < drift.toInt.natAbs
  let s := s.logTo c 0 (gaitRec s k expected drift)
  let s := s.modCore c (fun k => { k with dbg := { k.dbg with trace := excess } })
  if excess then s.fireSrc 1 c.val else s

/-- GAIT (R109, R410): nothing in handler mode. -/
def execGait (g : Guard) (f : SC) (s : State) : Out :=
  slotDo g (fun s => if s.inHandler then .ok s else .ok (s.gait s.curCore f.imm)) s

/-- CINCH (R110): a mismatch is a failure of the phase; nothing in handler mode. -/
def execCinch (f : SK) (s : State) : Out :=
  slotDo { pd := 0, pn := false, q := f.q, lvl := f.lvl } (fun s =>
    let k := s.core s.curCore
    let n := k.cinchN % 2 ^ 20
    let crc := ~~~ k.cinchC
    if s.inHandler then .ok s
    else if n = f.count.toNat ∧ crc = f.crc then .ok { s with iss := { s.iss with post := .cinch } }
    else .trap (mkTrap .cinchEscalated (BitVec.ofNat 64 (n + crc.toNat * 2 ^ 20)) 0)) s

/-- CINCH.Z (R110): closes the segment without a check. -/
def execCinchZ (g : Guard) (_f : SC) (s : State) : Out :=
  slotDo g (fun s => if s.inHandler then .ok s else .ok { s with iss := { s.iss with post := .cinch } }) s

end Sys2Proof.Machine
end

