-- ==== Sys2Proof/Machine/SeqMem.lean ====
section
/-! DEFINITION. A sequencer's accesses to device memory (R296, R338, R116, R248): checks, declared reads, undeclared accesses in the
race rules, stores at their home, window requests. Expansion routines and bytecode share them. -/

namespace Sys2Proof.Machine

/-- The outcome of a sequencer access's checks (R338). -/
inductive SeqAcc where
  | ok (w : Word) (pa : Nat) (s : State)
  | trap (t : Trap)
  | park

/-- The checks of an n-byte access at va in the order of R338; D is set by a store that they pass (R331). -/
def State.seqCheck (s : State) (q : Fin 16) (x : Ctx) (va n : Nat) (wr : Bool) : SeqAcc :=
  let info (a : Nat) : Word := BitVec.ofNat 64 (65536 * (a % 2 ^ 48))
  if va % n ≠ 0 then .trap (mkTrap .misalign (info va) 0)
  else if 2 ^ 48 ≤ va then .trap (mkTrap .extentMiss (info va) 0)
  else
    let (r, s1) := s.translate q x va false
    match r with
    | .absent => .trap (mkTrap .extentMiss (info va) 0)
    | .notResident => .park
    | .leaf w ea =>
      let pa := lfPa w va
      if (if wr then !lfW w || isWs pa || (s.cloakAt pa).isSome else !lfR w) then .trap { (mkTrap .extentPerm (info va) 0) with walk := some va }
      else .ok w pa (if wr then s1.touchLeaf x.slot.toNat w ea true else s1)

/-- The operands of an invocation that declare a byte as read: those whose bytes it lies among, of role input or in place (R296). -/
def State.declared (s : State) (x : Ctx) (i : Inv) (va : Nat) : List Opnd :=
  i.opnds.filter (fun o => o.role != 1 && (s.spanOf x o.tr).any (fun p => p.1 ≤ (va : Int) && (va : Int) ≤ p.2))

/-- The stamps of an undeclared sequencer access: one in every invocation of the context in flight (R296); an aborted one has none (R351). -/
def seqStamps (q : Fin 16) (x : Ctx) (kind : BitVec 3) (line : Nat) : List Stamp :=
  (x.invs.filter (fun i => !i.aborted)).map (fun i => { line := line, core := 320 + q.val, kind := kind, inv := i.uid, osq := q, ss := i.sstep, many := false, scope := 0 })

/-- Records an undeclared sequencer access, or MEMRACE against a plain store of the team that committed first (R296). -/
def State.seqStamp (s : State) (q : Fin 16) (x : Ctx) (kind : BitVec 3) (ilv pa va : Nat) : Except Word State :=
  if s.unstamped false pa then .ok s
  else
    let st := seqStamps q x kind (locKey ilv (pa / 64 * 64))
    match st.findSome? (fun a => (s.rivals a).head?.map (fun b => (s.raceTrap 0 a b va).info)) with
    | some info => .error info
    | none => .ok (st.foldl State.stamp s)

/-- The request of a sequencer to a window. -/
def State.seqReq (s : State) (q : Fin 16) (pa : Nat) (kind op : BitVec 4) (n : Nat) (mask : BitVec 64) (data : BitVec 512) : FReq :=
  { unit := .seq q, dev := s.devOf pa, addr := if kind = 2 then pa else pa / 64 * 64, kind := kind, op := op, n := n, tick := s.tb.toNat,
    uid := match (s.ctx q).bind (·.exp) with
      | some e => e.uid
      | none => 0,
    osq := q, mask := mask, data := data, blocked := false, st := 0, reason := 0 }

/-- What a sequencer's memory form does next: goes on with a value, traps, parks for a page, waits, waits for room in a spill table (R336), or sends a
request and waits. -/
inductive SeqRes where
  | val (v : Nat) (s : State)
  | trap (t : Trap)
  | park
  | wait
  | full (d : Fin 4)
  | send (r : FReq) (data : Bool)

/-- A trap of an access, behind the walk of its address (R331). -/
def SeqRes.fault (c : Cause) (info : Word) (va : Option Nat := none) : SeqRes := .trap { (mkTrap c info 0) with walk := va }

/-- An access from s to t that answers v (R336). -/
def State.spillVal (s t : State) (v : Nat) : SeqRes := match s.spillOver t with
  | some d => .full d
  | none => .val v t

/-- The SIGNAL_ACCESS of a refused request, which ends with it (R431). -/
def refusedTrap (pa : Nat) (kind : BitVec 4) (addr va : Nat) (r : FReq) : Trap :=
  { (mkTrap .signalAccess (sigInfo (peerAddrOf pa) r.dev r.reason.toNat) 0) with refused := some (kind, addr), walk := some va }

/-- A sequencer's access to a doorbell line that the home refuses (R433). -/
def State.doorFault (s : State) (x : Ctx) (pa n right va : Nat) : SeqRes :=
  .trap { (mkTrap .signalAccess (sigInfo pa (BitVec.ofNat 12 (bits s.plat.fabId 11 0)) (s.doorTry x.tag pa n right).1.toNat) 0) with
          walk := some va, door := some (pa, n, right) }

/-- The engine reads of a context's invocations that come before a write of its sequencer (R347). -/
def State.keepSeq (s : State) (q : Fin 16) (x : Ctx) (ilv pa : Nat) : State :=
  x.invs.foldl (fun s i => s.keepOld none 0 q i.uid i.sstep ilv (pa / 64)) s

/-- A read of n bytes at va: declared bytes wait for their producers (the roots of `decl` in its invocation) and never race (R296); `free`: no byte
races. -/
def State.seqRead (s : State) (q : Fin 16) (x : Ctx) (decl : Option (Nat × List Nat)) (free : Bool) (va n : Nat) : SeqRes :=
  match s.seqCheck q x va n false with
  | .trap t => .trap t
  | .park => .park
  | .ok w pa s1 =>
    if isWin pa then
      let line := pa / 64 * 64
      match s.reqOf (.seq q) 0 line with
      | some r =>
        if r.st = 1 then .val (r.data.toNat / 2 ^ (8 * (pa % 64)) % 2 ^ (8 * n)) (s1.dropReq (.seq q) 0 line)
        else if r.st = 2 then .trap (refusedTrap pa 0 line va r)
        else .wait
      | none =>
        if s.noRoute pa then .fault .signalAccess (sigInfo (peerAddrOf pa) (s.devOf pa) 0) (some va)
        else .send (s.seqReq q pa 0 0 n (BitVec.allOnes 64) 0) false
    else if s.wsBusy pa then .wait
    else if s.ueAt (lfIlv w) pa then .fault .fatalHw 0 (some va)
    else
      let v := if s.isDoor pa then 0 else s1.readPA (lfIlv w) pa n
      let s2 := (s1.noteCv pa n).homeLine x.slot.toNat (locKey (lfIlv w) (pa / 64 * 64)) (s1.readKey (lfIlv w) (pa / 64 * 64)) (lfNa w)
      if decl.any (fun d => d.2.any (fun root => x.unpublished d.1 root)) then .wait
      else
        if free then s.spillVal s2 v
        else match s2.seqStamp q x 0 (lfIlv w) pa va with
          | .error i => .fault .memrace i (some va)
          | .ok s3 => s.spillVal s3 v

/-- Performs n bytes at a local home (R116): of a doorbell line they are no whole enqueue (R433). -/
def State.seqStoreHome (s : State) (q : Fin 16) (x : Ctx) (w : Word) (pa va n v : Nat) (free : Bool) : SeqRes :=
  if s.isDoor pa then s.doorFault x pa n 1 va
  else
    let stamped := if free then .ok s else s.seqStamp q x 1 (lfIlv w) pa va
    match stamped with
    | .error i => .fault .memrace i (some va)
    | .ok s1 =>
      let key := locKey (lfIlv w) (pa / 64 * 64)
      let s1 := if free then s1 else s1.keepSeq q x (lfIlv w) pa
      let s2 := ((s1.recall none key).writePA (lfIlv w) pa v n).mscTouch x.slot.toNat key (lfNa w) (!lfNa w)
      s.spillVal (s2.invalRange (pa / 64 * 64) 64) 0

/-- A store of n bytes at va, performed at its home (R116, R248). -/
def State.seqWrite (s : State) (q : Fin 16) (x : Ctx) (free : Bool) (va n v : Nat) : SeqRes :=
  match s.seqCheck q x va n true with
  | .trap t => .trap t
  | .park => .park
  | .ok w pa s1 =>
    if isWin pa then
      let line := pa / 64 * 64
      match s.reqOf (.seq q) 1 line with
      | some r =>
        if r.st = 1 then .val 0 (s1.dropReq (.seq q) 1 line)
        else if r.st = 2 then .trap (refusedTrap pa 1 line va r)
        else .wait
      | none =>
        if s.noRoute pa then .fault .signalAccess (sigInfo (peerAddrOf pa) (s.devOf pa) 0) (some va)
        else .send (s.seqReq q pa 1 0 n (BitVec.ofNat 64 ((2 ^ n - 1) * 2 ^ (pa % 64))) (BitVec.ofNat 512 (v % 2 ^ (8 * n) * 2 ^ (8 * (pa % 64))))) true
    else s1.seqStoreHome q x w pa va n v free

/-! ## Atomic operations at a home (R125, R126, R127) -/

/-- op(old, b) of AMO on n-byte words (R125). -/
def amoOp (op : BitVec 4) (n old b : Nat) : Nat :=
  let w := 8 * n
  let b := b % 2 ^ w
  match op.toNat with
  | 0 => b
  | 1 => (old + b) % 2 ^ w
  | 2 => old &&& b
  | 3 => old ||| b
  | 4 => old ^^^ b
  | 5 => if sintOf w old ≤ sintOf w b then old else b
  | 6 => if sintOf w b ≤ sintOf w old then old else b
  | 7 => min old b
  | 8 => max old b
  | _ => (addF32 (BitVec.ofNat 32 old) (BitVec.ofNat 32 b)).toNat

/-- The value an atomic leaves: an AMO's, or a CAS's with its expected value b and new value c. -/
def atomNew (op : BitVec 4) (n old b c : Nat) : Nat :=
  if op = 15 then (if old = b % 2 ^ (8 * n) then c % 2 ^ (8 * n) else old) else amoOp op n old b

/-- Merges the committed update partials of a line into memory before an atomic (R127, R132). -/
def State.mergeParts (s : State) (line : Nat) : State :=
  let mine := s.parts.filter (fun p => p.word / 64 == line)
  let words := mine.foldl (fun l p => wordIns (p.word, p.n, p.ilv) l) []
  let s := words.foldl (fun s w => s.foldWord (mine.filter (fun p => p.word == w.1 && p.n == w.2.1)) w.1 w.2.1 w.2.2) s
  { s with parts := s.parts.filter (fun p => p.word / 64 != line) }

/-- An atomic at the home of a local word: the old value and the state after it. -/
def State.atomHome (s : State) (op : BitVec 4) (ilv pa n b c : Nat) : Nat × State :=
  let s := s.mergeParts (pa / 64)
  let old := s.readPA ilv pa n
  (old, (s.writePA ilv pa (atomNew op n old b c) n).invalRange (pa / 64 * 64) 64)

/-- The address and the scope agree (R127, R423). -/
def State.scopeOk (s : State) (scope op : BitVec 4) (pa : Nat) : Bool :=
  if isHostWin pa then scope == 6 && (op == 0 || op == 1 || op == 15)
  else if isPeerWin pa then scope == 8 || (scope == 7 && !bit (s.plat.slots.get (peerSlotOf pa)) 62)
  else 1 ≤ scope.toNat && scope.toNat ≤ 5

/-- The data flit of a remote atomic (R461). -/
def atomData (n b c : Nat) : BitVec 512 := BitVec.ofNat 512 (b % 2 ^ (8 * n) + c % 2 ^ (8 * n) * 2 ^ 64)

/-- An atomic of a sequencer, at the home whatever its scope (R127). -/
def State.seqAtom (s : State) (q : Fin 16) (x : Ctx) (scope op : BitVec 4) (va n b c : Nat) : SeqRes :=
  match s.seqCheck q x va n true with
  | .trap t => .trap t
  | .park => .park
  | .ok w pa s1 =>
    if !s.scopeOk scope op pa || lfSk w || lfCv w then .fault .extentPerm (BitVec.ofNat 64 (65536 * va)) (some va)
    else if isWin pa then
      match s.reqOf (.seq q) 2 pa with
      | some r =>
        if r.st = 1 then .val (r.data.toNat % 2 ^ (8 * n)) (s1.dropReq (.seq q) 2 pa)
        else if r.st = 2 then .trap (refusedTrap pa 2 pa va r)
        else .wait
      | none =>
        if s.noRoute pa then .fault .signalAccess (sigInfo (peerAddrOf pa) (s.devOf pa) 0) (some va)
        else .send (s.seqReq q pa 2 op n (BitVec.allOnes 64) (atomData n b c)) true
    else if s.isDoor pa then s.doorFault x pa n 2 va
    else if s.ueAt (lfIlv w) pa then .fault .fatalHw 0 (some va)
    else match s1.seqStamp q x 3 (lfIlv w) pa va with
      | .error i => .fault .memrace i (some va)
      | .ok s2 =>
        let s2 := s2.keepSeq q x (lfIlv w) pa
        let key := locKey (lfIlv w) (pa / 64 * 64)
        let r := (s2.homeLine x.slot.toNat key key (lfNa w)).atomHome op (lfIlv w) pa n b c
        s.spillVal r.2 r.1

/-! ## As slot effects of an expansion routine -/

def SeqRes.eff (r : SeqRes) (k : Nat → State → Eff) : Eff :=
  match r with
  | .val v s => k v s
  | .trap t => .trap t
  | .park => .stall 0xF0 0
  | .wait => .stall 1 0
  | .full d => .stall 0xF1 (BitVec.ofNat 8 d.val)
  | .send r d => .send r d

/-- The context and invocation of the routine on the current sequencer. -/
def withInv (s : State) (k : Fin 16 → Ctx → Inv → Eff) : Eff :=
  match s.cur with
  | .core _ => .stall 0 0
  | .seq q => match s.ctx q with
    | none => .stall 0 0
    | some x => match x.exp.bind (fun e => x.inv e.uid) with
      | none => .stall 0 0
      | some i => k q x i

/-- An address lies in the invocation area (R294). -/
def Inv.inArea (i : Inv) (va n : Nat) : Bool := i.area ≤ va && va + n ≤ i.area + 8192

/-- The roots of the operands that a routine's access of n bytes at va is declared for, byte by byte (R296). -/
def State.declRoots (s : State) (x : Ctx) (i : Inv) (va n : Nat) : List Nat :=
  ((List.range n).map (va + ·)).flatMap (fun a => (s.declared x i a).map (·.root))

/-- Every byte of a routine's access is declared for an operand or lies in the invocation area (R296). -/
def State.declFree (s : State) (x : Ctx) (i : Inv) (va n : Nat) : Bool :=
  ((List.range n).map (va + ·)).all (fun a => i.inArea a 1 || !(s.declared x i a).isEmpty)

/-- A routine's load (R296, R116). -/
def seqLd (s : State) (va n : Nat) (k : Nat → State → Eff) : Eff :=
  withInv s fun q x i =>
    (s.seqRead q x (some (i.uid, s.declRoots x i va n)) (s.declFree x i va n) va n).eff k

/-- A routine's store: the argument area is open until the pass's first WLNR, the captured records are read-only (R294, R296). -/
def seqSt (s : State) (va n v : Nat) : Eff :=
  withInv s fun q x i =>
    let arg := i.area + 4096 ≤ va && va < i.area + 8192
    let rec_ := i.area ≤ va && va < i.area + 1024
    if va % n = 0 ∧ ((arg && i.opened) || rec_) then .trap (addrTrap .extentPerm 0 0 va)
    else (s.seqWrite q x (i.inArea va n) va n v).eff (fun _ s => .ok s)

end Sys2Proof.Machine
end

