-- ==== Sys2Proof/Machine/MemSync.lean ====
section
/-! DEFINITION. The S-slot memory and synchronisation family (R113 to R138): loads, stores, scratchpad, rings, atomics, commutative
updates, fences, barriers, supersteps, system registers. -/

namespace Sys2Proof.Machine

/-- Adds an outstanding load or atomic of the unit in hand (R83). -/
def State.await (s : State) (d : BitVec 6) (v : Word) (psn : Bool) : State :=
  let f := s.front
  s.setFront { f with outs := f.outs ++ [{ d := d, val := v, psn := psn, hnd := s.inHandler, at_ := f.nb }] }

/-- A read of a peer or host window by a core: the request, or its answer with the core's own buffered bytes over it (R118, R431). -/
def coreWindow (s : State) (c : Fin 320) (pa n : Nat) (k : Nat → State → Eff) : Eff :=
  let line := pa / 64 * 64
  match s.reqOf (.core c) 0 line with
  | some r =>
    if r.st = 1 then
      let img := ((s.core c).ph.sb.filter (fun e => e.line == pa / 64)).foldl overlay r.data.toNat
      k (img / 2 ^ (8 * (pa % 64)) % 2 ^ (8 * n)) (s.dropReq (.core c) 0 line)
    else if r.st = 2 then .trap { (mkTrap .signalAccess (sigInfo (peerAddrOf pa) r.dev r.reason.toNat) 0) with refused := some (0, line) }
    else .stall 1 0
  | none =>
    if s.noRoute pa then .trap (mkTrap .signalAccess (sigInfo (peerAddrOf pa) (s.devOf pa) 0) 0)
    else .send { unit := .core c, dev := s.devOf pa, addr := line, kind := 0, op := 0, n := n, tick := s.tb.toNat,
                 uid := ((s.core c).task.map (·.inv)).getD 0, osq := ((s.core c).task.map (·.osq)).getD 0, mask := BitVec.allOnes 64, data := 0,
                 blocked := false, st := 0, reason := 0 } false

/-- The load of LD and LD.S on a core; `defer` receives the faults that LD.S defers (R114, R115). -/
def coreLd (s : State) (c : Fin 320) (va n : Nat) (defer : Trap → Eff) (k : Nat → State → Eff) : Eff :=
  if va % n ≠ 0 then defer (addrTrap .misalign 0 0 va)
  else match s.exCheck c va n .read with
  | some (cause, fl, a) => defer { (addrTrap cause 0 fl a) with tensor := s.hndOf c a }
  | none =>
    let pa := (s.exOf c va).2
    if isWin pa then (match coreWindow s c pa n k with
      | .trap t => .trap { t with tensor := s.hndOf c va }
      | e => e)
    else if s.wsBusy pa then .stall 1 0
    else match s.coreRead c 0 va n true with
      | .error t => .trap t
      | .ok (v, s1) => spillWait s s1 (k v s1)

/-- LD (R114, R296) -/
def execLd (g : Guard) (f : SM) (s : State) : Out :=
  slotDo g (fun s => withAddr f s fun a =>
    let n := szBytes f.sz
    let done (v : Nat) (s : State) : Eff := .ok (s.await f.d (extLoad f.sx n v) false)
    match s.cur with
    | .core c => coreLd s c a n .trap done
    | .seq _ => seqLd s a n done) s

/-- LD.S (R115): EXTENT_MISS, EXTENT_PERM and MISALIGN poison the destination. -/
def execLdS (g : Guard) (f : SM) (s : State) : Out :=
  slotDo g (fun s => withAddr f s fun a =>
    let n := szBytes f.sz
    let done (v : Nat) (s : State) : Eff := .ok (s.await f.d (extLoad f.sx n v) false)
    let poisoned : Eff := .ok (s.await f.d 0 true)
    match s.cur with
    | .core c => coreLd s c a n (fun _ => poisoned) done
    | .seq _ => match seqLd s a n done with
      | .trap t => if t.cause == .misalign || t.cause == .extentMiss || t.cause == .extentPerm then poisoned else .trap t
      | e => e) s

/-- Of the results for register d that land for the same bundle as the data of a load, those issued before it are not kept (R82). -/
def dropLate (l : List Flight) (d : BitVec 6) (n : Nat) : List Flight :=
  l.filter (fun f => !(f.pos ≤ 1 && f.at_ < n && (match f.dst with
    | .s r _ _ => r == d
    | _ => false)))

/-- LOAD_RETURN: the data of an outstanding load or atomic arrives (R83, R81); an earlier one to the same register arrives first. R82 does not say which
value stays when a fixed-latency result issued later has landed in the register before the data: the data, which arrives last, stays (DESIGN CHOICE,
log 123). -/
def execLoadReturn (u : UnitId) (n : Nat) (s : State) : Out :=
  let s := { s with cur := u }
  let f := s.front
  match f.outs[n]? with
  | none => .next s
  | some o =>
    let j := (f.outs.findIdx? (fun x => x.d == o.d && x.hnd == o.hnd)).getD n
    match f.outs[j]? with
    | none => .next s
    | some x =>
      let task (s : State) : State := match u with
        | .core c => if x.hnd then s else s.modCore c (fun k => { k with hs := k.hs.map (fun h => { h with fl := dropLate h.fl x.d x.at_ }) })
        | .seq _ => s
      let f := { f with outs := f.outs.eraseIdx j }
      let bank := match u with
        | .core c => if 56 ≤ x.d.toNat && !x.hnd then (s.core c).hs.isSome else false
        | .seq _ => false
      if bank then
        let s := task (s.setFront f)
        .next (s.modCore s.curCore (fun k => { k with hs := k.hs.map (fun h =>
          let i : Fin 8 := Fin.ofNat 8 (x.d.toNat - 56)
          { h with bank := h.bank.set i x.val, bankp := BitVec.ofNat 8 (if x.psn then h.bankp.toNat ||| 2 ^ i.val else h.bankp.toNat &&& (255 - 2 ^ i.val)) }) }))
      else .next (task (s.setFront ({ f with fl := dropLate f.fl x.d x.at_ }.putS x.d x.val x.psn)))

/-! ## Stores and the phase store buffer (R117, R118) -/

/-- Entries in use: lines of the buffer and lines of pending updates (R118, R130). -/
def Core.sbUsed (k : Core) : Nat :=
  k.ph.sb.length + ((k.ph.upds.filter (·.inSb)).foldl (fun (l : List Nat) u => if l.contains (u.word / 64) then l else (u.word / 64) :: l) []).length

/-- Masked bytes merged into the buffer's entry for a line. -/
def sbPut (l : List SbEnt) (line va ilv : Nat) (mask : BitVec 64) (data : BitVec 512) : List SbEnt :=
  if l.any (fun e => e.line == line) then
    l.map (fun e => if e.line == line then
      { e with mask := e.mask ||| mask, data := BitVec.ofNat 512 (overlay e.data.toNat { line := line, mask := mask, data := data, va := va, ilv := ilv }) } else e)
  else l ++ [{ line := line, mask := mask, data := data, va := va, ilv := ilv }]

/-- The partials of a line folded into the buffered copy before a plain store to it (R130). -/
def State.foldOwn (s : State) (c : Fin 320) (ilv line va : Nat) : State :=
  let k := s.core c
  let mine := k.ph.upds.filter (fun u => u.word / 64 == line)
  if mine.isEmpty then s
  else
    let s := mine.foldl (fun s u =>
      let k := s.core c
      let off := u.word % 64
      let img := s.coreLine c ilv line false false
      let v := foldUpd u.op u.n (img / 2 ^ (8 * off) % 2 ^ (8 * u.n)) u.val
      s.setCore c { k with ph := { k.ph with sb := sbPut k.ph.sb line va ilv (BitVec.ofNat 64 ((2 ^ u.n - 1) * 2 ^ off)) (BitVec.ofNat 512 (v * 2 ^ (8 * off))) } }) s
    s.modCore c (fun k => { k with ph := { k.ph with upds := k.ph.upds.filter (fun u => u.word / 64 != line) } })

/-- The early drain (R118): every line and every pending update entry leaves the buffer, with its race check; the phase is irrevocable. The refusal of a
line is on its way to the core, and the other lines are performed (R431). -/
def State.drainFull (s : State) (c : Fin 320) : Except Trap State :=
  let k := s.core c
  let moved := k.ph.upds.filter (·.inSb)
  let race := k.ph.sb.findSome? (fun e =>
    if isWin (e.line * 64) then none
    else (s.accOf c 1 e.ilv (e.line * 64) 0).bind (fun a => (s.rivals a).head?.map (fun b => { (s.raceTrap 0 a b e.va) with tensor := s.hndOf c e.va })))
  let raceU := moved.findSome? (fun (u : Upd) =>
    (s.accOf c 2 u.ilv u.word 0).bind (fun a => (s.rivals a).head?.map (fun b => { (s.raceTrap 0 a b u.va) with tensor := s.hndOf c u.va })))
  match race, raceU with
  | some t, _ => .error t
  | none, some t => .error t
  | none, none =>
    let (s, sig) := s.drainAll c k.ph.sb
    let s := match k.task with
      | none => s
      | some t => moved.foldl (fun s (u : Upd) => match s.accOf c 2 u.ilv u.word 0 with
          | some a => s.stamp a
          | none => s) (s.passParts c t moved)
    .ok (s.modCore c (fun k => { k with ph := { k.ph with sb := [], upds := k.ph.upds.filter (fun u => !u.inSb), irrev := true },
                                        async := k.async ++ sig.toList }))

/-- A checked store enters the buffer; a 257th entry first drains it (R118): the state, or the race at the drain. -/
def State.sbStore (s : State) (c : Fin 320) (va n v : Nat) : Except Trap State :=
  let (e, pa) := s.exOf c va
  let line := pa / 64
  let k := s.core c
  let put (s : State) : State := (s.foldOwn c (exIlv e) line (va / 64 * 64)).modCore c (fun k => { k with ph := { k.ph with
    sb := sbPut k.ph.sb line (va / 64 * 64) (exIlv e) (BitVec.ofNat 64 ((2 ^ n - 1) * 2 ^ (pa % 64))) (BitVec.ofNat 512 (v % 2 ^ (8 * n) * 2 ^ (8 * (pa % 64)))) } })
  if k.ph.sb.any (fun e => e.line == line) || k.ph.upds.any (fun u => u.inSb && u.word / 64 == line) || k.sbUsed < 256 then .ok (put s)
  else match s.drainFull c with
    | .error t => .error t
    | .ok s => .ok (put s)

/-- ST (R117, R296) -/
def execSt (g : Guard) (f : SM) (s : State) : Out :=
  slotDo g (fun s => withAddr f s fun a => withC 0 f.d s fun v =>
    let n := szBytes f.sz
    match s.cur with
    | .seq _ => seqSt s a n v.toNat
    | .core c =>
      if a % n ≠ 0 then .trap (addrTrap .misalign 0 0 a)
      else match s.exCheck c a n .write with
      | some (cause, fl, x) => .trap { (addrTrap cause 0 fl x) with tensor := s.hndOf c x }
      | none =>
        match s.watchCore c 0 (s.exOf c a).2 n v.toNat with
        | (_, some t) => .trap t
        | (s1, none) => match s1.sbStore c a n v.toNat with
          | .error t => .trap t
          | .ok t => spillWait s t (.ok t)) s

/-! ## Scratchpad (R119) -/

/-- The checks of an LDSP or STSP access. -/
def scrCheck (s : State) (a n : Nat) (e : Eff) : Eff :=
  if a % n ≠ 0 then .trap (addrTrap .misalign 0 256 a)
  else if !s.grantedRange s.curCore a n then .trap (addrTrap .extentMiss 0 256 a)
  else e

/-- LDSP (R119) -/
def execLdsp (g : Guard) (f : SM) (s : State) : Out :=
  slotDo g (fun s => withAddr f s fun a =>
    let n := szBytes f.sz
    let k := s.core s.curCore
    scrCheck s a n (.ok (s.flyS 4 f.d (extLoad f.sx n (k.getScr a n)) (k.marked a n)))) s

/-- STSP (R119) -/
def execStsp (g : Guard) (f : SM) (s : State) : Out :=
  slotDo g (fun s => withAddr f s fun a => withC 0 f.d s fun v =>
    let n := szBytes f.sz
    scrCheck s a n (.ok (s.modCore s.curCore (fun k => k.putScr a v.toNat n)))) s

/-! ## Rings (R121 to R124) -/

/-- A handle that an instruction names without an offset. -/
def withHandle (h : BitVec 4) (s : State) (k : Ring → Eff) : Eff := withRing 0 h 0 s k

/-- A queued entry whose slot of ring h on one side lies among the n slots from position p that a core advance passes has its slot
ready for good (R166). -/
def MEnt.passed (e : MEnt) (cons : Bool) (h : BitVec 4) (p n size : Nat) : MEnt :=
  let hit (slot : Nat) : Bool := decide ((slot + size - p % size) % size < n)
  match e.op with
  | .mpush g slot _ _ _ _ _ => if cons && g == h && hit slot then { e with run := true } else e
  | .mdrain g slot _ _ _ _ => if !cons && g == h && hit slot then { e with run := true } else e
  | _ => e

/-- The tau slot of a running MQR lies among the slots that a core advance of PROD passes (R181). -/
def MEnt.passedTau (e : MEnt) (h : BitVec 4) (p n size : Nat) : Bool :=
  match e.op with
  | .fact op _ _ _ _ _ _ g slot => e.run && op == 3 && g == h && decide ((slot + size - p % size) % size < n)
  | _ => false

def Core.passed (k : Core) (cons : Bool) (h : BitVec 4) (p n size : Nat) : Core :=
  let tau := !cons && k.arr.queue.any (fun e => e.passedTau h p n size)
  { k with arr := { k.arr with queue := k.arr.queue.map (fun e => e.passed cons h p n size),
                               fact := if tau then k.arr.fact.map (fun x => { x with free := true }) else k.arr.fact } }

/-- ADVC (R122, R124) -/
def execAdvc (g : Guard) (f : SM) (s : State) : Out :=
  slotDo g (fun s => withHandle f.h s fun r =>
    let n := f.imm.toNat
    if hFill r.h < n then .trap (handleTrap 0 f.h)
    else .ok ((s.modRing f.h (fun r => { r with h := hAdvC r.h n, pendC := if hPh r.h then r.pendC + n else r.pendC, adC := r.adC + n })).modCore s.curCore
      (fun k => k.passed true f.h (hCons r.h) n (hSlots r.h)))) s

/-- ADVP (R122, R124) -/
def execAdvp (g : Guard) (f : SM) (s : State) : Out :=
  slotDo g (fun s => withHandle f.h s fun r =>
    let n := f.imm.toNat
    if hSlots r.h < hFill r.h + n then .trap (handleTrap 0 f.h)
    else .ok ((s.modRing f.h (fun r => { r with h := hAdvP r.h n, pendP := if hPh r.h then r.pendP + n else r.pendP, adP := r.adP + n })).modCore s.curCore
      (fun k => k.passed false f.h (hProd r.h) n (hSlots r.h)))) s

/-- WAITC (R123) -/
def execWaitc (g : Guard) (f : SM) (s : State) : Out :=
  slotDo g (fun s => withHandle f.h s fun r =>
    let n := f.imm.toNat
    if hSlots r.h < n then .trap (handleTrap 0 f.h)
    else if hFill r.h < n then .stall 2 (f.h.zeroExtend 8) else .ok s) s

/-- WAITP (R123) -/
def execWaitp (g : Guard) (f : SM) (s : State) : Out :=
  slotDo g (fun s => withHandle f.h s fun r =>
    let n := f.imm.toNat
    if hSlots r.h < n then .trap (handleTrap 0 f.h)
    else if hSlots r.h < hFill r.h + n then .stall 3 (f.h.zeroExtend 8) else .ok s) s

/-- The rings a command names (R198). -/
def cmdRings (m : Cmd) : List (BitVec 4) :=
  match m.op.toNat with
  | 0x01 | 0x02 | 0x03 | 0x07 | 0x0C | 0x10 => [m.h]
  | 0x08 | 0x0A | 0x0B => [m.h, m.h2]
  | _ => []

/-- The ring a beat-queue entry names. -/
def mentRing (e : MEnt) : Option (BitVec 4) :=
  match e.op with
  | .mpush h _ _ _ _ _ _ => some h
  | .mdrain h _ _ _ _ _ => some h
  | .fact op _ _ _ _ _ _ h _ => if op = 3 then some h else none
  | .mldw _ _ _ _ => none
  | .mswap => none
  | .mzero _ => none
  | .mhem _ => none
  | .mtclr _ => none
  | .mperm _ => none

/-- A handle is named by a queued or running beat or engine command (R121). -/
def Core.ringBusy (k : Core) (h : BitVec 4) : Bool :=
  k.arr.queue.any (fun e => mentRing e == some h) || (k.eng.queue ++ k.eng.cls.toList.flatten).any (fun m => (cmdRings m).contains h)

/-- A handle value with EN set is well-formed (R20). -/
def State.ringOk (s : State) (c : Fin 320) (v : Word) : Bool :=
  let n := hSlots v
  bits v 17 14 = 0 && hBase v + n * hSize v ≤ 786432 && hProd v < n && hCons v < n && hFill v ≤ n && hProd v = (hCons v + hFill v) % n &&
  s.grantedRange c (hBase v) (n * hSize v)

/-- HSET (R121, R20) -/
def execHset (g : Guard) (f : SM) (s : State) : Out :=
  slotDo g (fun s => withC 0 f.a s fun v =>
    if (s.core s.curCore).ringBusy f.h || (hEn v && !s.ringOk s.curCore v) then .trap (handleTrap 0 f.h)
    else .ok (s.modRing f.h (fun r => { r with h := v, pendC := 0, pendP := 0, doneW := [], doneR := [] }))) s

/-- HGET (R121) -/
def execHget (g : Guard) (f : SM) (s : State) : Out :=
  slotDo g (fun s => .ok (s.flyS 1 f.d (s.ringAt f.h).h false)) s

/-! ## Atomics (R125 to R128) -/

/-- The own pending update partials of a line are merged into it before an atomic (R128). -/
def State.mergeOwn (s : State) (c : Fin 320) (line : Nat) : State :=
  let k := s.core c
  let s := (k.ph.upds.filter (fun u => u.word / 64 == line)).foldl (fun s u =>
    s.writePA u.ilv u.word (foldUpd u.op u.n (s.readPA u.ilv u.word u.n) u.val) u.n) s
  s.modCore c (fun k => { k with ph := { k.ph with upds := k.ph.upds.filter (fun u => u.word / 64 != line) } })

/-- An atomic of core c on local memory that nothing forbids: the old value of the word at pa, and the machine after it (R126, R127, R128). Its own
partials of the line are merged first; it acts at the home MSC or, at the narrow scopes, in the cluster's L2. -/
def State.atomAt (s : State) (c : Fin 320) (op : BitVec 4) (e : BitVec 128) (pa n b x : Nat) (acc : Stamp) : Nat × State :=
  let t := (s.keepOld (some c) (s.core c).issued acc.osq acc.inv acc.ss (exIlv e) (pa / 64)).stamp acc |>.mergeOwn c (pa / 64)
  let key := locKey (exIlv e) (pa / 64 * 64)
  if atHome acc then
    let (v, t) := t.atomHome op (exIlv e) pa n b x
    (v, t.homeLine (s.slotOf c) key key (exNa e))
  else
    let v := t.readPA (exIlv e) pa n
    (v, (t.writePA (exIlv e) pa (atomNew op n v b x) n).cacheLine (c.val / 8) (s.slotOf c) key key true (exNa e) (!exNa e))

/-- An atomic or an update of a core at a doorbell line, which takes none (R433; log 134). -/
def State.coreDoor (s : State) (c : Fin 320) (pa n a : Nat) : Trap :=
  { (mkTrap .signalAccess (sigInfo pa (BitVec.ofNat 12 (bits s.plat.fabId 11 0)) (s.doorTry (s.core c).tilectx pa n 2).1.toNat) 0) with
    tensor := s.hndOf c a, door := some (pa, n, 2) }

/-- The atomic of a core at address a (R125 to R128, R338): checks, watch, window request or execution at once. The record of a watch match behind a window is
made with the answer, when the value after the atomic is known; a match that stops the core before the request leaves has the operand in its place
(DESIGN CHOICE, log 129). -/
def coreAtom (s : State) (c : Fin 320) (scope op : BitVec 4) (a n b x : Nat) (d : BitVec 6) : Eff :=
  if a % n ≠ 0 then .trap (addrTrap .misalign 0 0 a)
  else match s.exCheck c a n .atomic with
  | some (cause, fl, y) => .trap { (addrTrap cause 0 fl y) with tensor := s.hndOf c y }
  | none =>
    let (e, pa) := s.exOf c a
    if !s.scopeOk scope op pa then .trap { (addrTrap .extentPerm 0 0 a) with tensor := s.hndOf c a }
    else
      let irr (s : State) : State := s.modCore c (fun k => { k with ph := { k.ph with irrev := true } })
      if s.isDoor pa then .trap (s.coreDoor c pa n a)
      else if isWin pa then
        match s.reqOf (.core c) 2 pa with
        | some r =>
          if r.st = 1 then
            let old := r.data.toNat % 2 ^ (8 * n)
            match s.watchCore c 0 pa n (atomNew op n old b x) with
            | (_, some t) => .trap t
            | (s, none) => .ok ((irr (s.dropReq (.core c) 2 pa)).await d (BitVec.ofNat 64 old) false)
          else if r.st = 2 then .trap { (mkTrap .signalAccess (sigInfo (peerAddrOf pa) r.dev r.reason.toNat) 0) with tensor := s.hndOf c a, refused := some (2, pa) }
          else .stall 1 0
        | none =>
          if s.noRoute pa then .trap { (mkTrap .signalAccess (sigInfo (peerAddrOf pa) (s.devOf pa) 0) 0) with tensor := s.hndOf c a }
          else match s.watchCore c 0 pa n b with
            | (_, some t) => .trap t
            | (_, none) => .send
              { unit := .core c, dev := s.devOf pa, addr := pa, kind := 2, op := op, n := n, tick := s.tb.toNat,
                uid := ((s.core c).task.map (·.inv)).getD 0, osq := ((s.core c).task.map (·.osq)).getD 0, mask := BitVec.allOnes 64,
                data := atomData n b x, blocked := false, st := 0, reason := 0 } true
      else
        let after := atomNew op n (s.readPA (exIlv e) pa n) b x
        match s.watchCore c 0 pa n after with
        | (_, some t) => .trap t
        | (s0, none) =>
          if s.ueAt (exIlv e) pa then .trap { (ueTrap 0 0 a) with tensor := s.hndOf c a }
          else match s.accOf c 3 (exIlv e) pa scope with
          | none => .stall 0 0
          | some acc => match s.rivals acc with
            | r :: _ => .trap { (s.raceTrap 0 acc r a) with tensor := s.hndOf c a }
            | [] =>
              let r := s0.atomAt c op e pa n b x acc
              spillWait s r.2 (.ok ((irr r.2).await d (BitVec.ofNat 64 r.1) false))

/-- AMO with operation op (R125) -/
def amoEff (op : BitVec 4) (f : SY) (s : State) : Eff :=
  withC 0 f.a s fun a => withC 0 f.b s fun b =>
    let n := szBytes f.sz
    match s.cur with
    | .core c => coreAtom s c f.scope op a.toNat n b.toNat 0 f.d
    | .seq q => withInv s fun _ x _ => (s.seqAtom q x f.scope op a.toNat n b.toNat 0).eff (fun v s => .ok (s.await f.d (BitVec.ofNat 64 v) false))

/-- AMO.swap (R125) -/
def execAmoSwap (g : Guard) (f : SY) (s : State) : Out := slotDo g (amoEff 0 f) s
/-- AMO.add (R125) -/
def execAmoAdd (g : Guard) (f : SY) (s : State) : Out := slotDo g (amoEff 1 f) s
/-- AMO.and (R125) -/
def execAmoAnd (g : Guard) (f : SY) (s : State) : Out := slotDo g (amoEff 2 f) s
/-- AMO.or (R125) -/
def execAmoOr (g : Guard) (f : SY) (s : State) : Out := slotDo g (amoEff 3 f) s
/-- AMO.xor (R125) -/
def execAmoXor (g : Guard) (f : SY) (s : State) : Out := slotDo g (amoEff 4 f) s
/-- AMO.min (R125) -/
def execAmoMin (g : Guard) (f : SY) (s : State) : Out := slotDo g (amoEff 5 f) s
/-- AMO.max (R125) -/
def execAmoMax (g : Guard) (f : SY) (s : State) : Out := slotDo g (amoEff 6 f) s
/-- AMO.minu (R125) -/
def execAmoMinu (g : Guard) (f : SY) (s : State) : Out := slotDo g (amoEff 7 f) s
/-- AMO.maxu (R125) -/
def execAmoMaxu (g : Guard) (f : SY) (s : State) : Out := slotDo g (amoEff 8 f) s
/-- AMO.fadd (R125) -/
def execAmoFadd (g : Guard) (f : SY) (s : State) : Out := slotDo g (amoEff 9 f) s

/-- CAS (R126) -/
def execCas (g : Guard) (f : SY) (s : State) : Out :=
  slotDo g (fun s => withC 0 f.a s fun a => withC 0 f.b s fun b => withC 0 f.c s fun x =>
    let n := szBytes f.sz
    match s.cur with
    | .core c => coreAtom s c f.scope 15 a.toNat n b.toNat x.toNat f.d
    | .seq q => withInv s fun _ y _ => (s.seqAtom q y f.scope 15 a.toNat n b.toNat x.toNat).eff (fun v s => .ok (s.await f.d (BitVec.ofNat 64 v) false))) s

/-! ## Commutative updates (R129, R130) -/

/-- CUPD's effect on the core's partials (R130): one partial for each word and size. A CUPD of another operation on the same word folds into it by its own
operation, which is the partial's from then on (R130 is silent; DESIGN CHOICE, log 25). -/
def State.update (s : State) (c : Fin 320) (op : BitVec 4) (va n v : Nat) : State :=
  let (e, pa) := s.exOf c va
  let k := s.core c
  let same (u : Upd) : Bool := u.word == pa && u.n == n
  let upds := if k.ph.upds.any same then k.ph.upds.map (fun u => if same u then { u with val := foldUpd op n u.val (v % 2 ^ (8 * n)), op := op } else u)
    else k.ph.upds ++ [{ word := pa, op := op, n := n, val := v % 2 ^ (8 * n), va := va, ilv := exIlv e, inSb := false }]
  s.setCore c (({ k with ph := { k.ph with upds := upds } }).l1Touch (pa / 64))

/-- CUPD with fold op (R129, R130) -/
def cupdEff (op : BitVec 4) (f : SY) (s : State) : Eff :=
  let c := s.curCore
  notInHandler s (withC 0 f.a s fun a => withC 0 f.b s fun b =>
    let n := szBytes f.sz
    if a.toNat % n ≠ 0 then .trap (addrTrap .misalign 0 0 a.toNat)
    else match s.exCheck c a.toNat n .update with
    | some (cause, fl, y) => .trap { (addrTrap cause 0 fl y) with tensor := s.hndOf c y }
    | none =>
      if s.isDoor (s.exOf c a.toNat).2 then .trap (s.coreDoor c (s.exOf c a.toNat).2 n a.toNat)
      else match s.watchCore c 0 (s.exOf c a.toNat).2 n b.toNat with
      | (_, some t) => .trap t
      | (s, none) => .ok (s.update c op a.toNat n b.toNat))

/-- CUPD.add (R129) -/
def execCupdAdd (g : Guard) (f : SY) (s : State) : Out := slotDo g (cupdEff 0 f) s
/-- CUPD.fadd (R129) -/
def execCupdFadd (g : Guard) (f : SY) (s : State) : Out := slotDo g (cupdEff 1 f) s
/-- CUPD.min (R129) -/
def execCupdMin (g : Guard) (f : SY) (s : State) : Out := slotDo g (cupdEff 2 f) s
/-- CUPD.max (R129) -/
def execCupdMax (g : Guard) (f : SY) (s : State) : Out := slotDo g (cupdEff 3 f) s
/-- CUPD.or (R129) -/
def execCupdOr (g : Guard) (f : SY) (s : State) : Out := slotDo g (cupdEff 4 f) s

/-! ## Fences and barriers (R133 to R136) -/

/-- FENCE (R133) -/
def execFence (g : Guard) (f : SY) (s : State) : Out :=
  slotDo g (fun s =>
    if f.scope.toNat ≤ 1 then .ok s
    else if !s.front.outs.isEmpty then .stall 1 0
    else if 6 ≤ f.scope.toNat && s.plat.reqs.any (fun r => r.unit == s.cur && r.kind == 1) then .stall 1 0
    else .ok s) s

/-- b0 .. b3 are refused in the user view, every barrier form in handler mode (R136). In the system view b0 is a slot like any other, apart from SSTEP's own
arrivals; the manual does not say what BARCFG, BARARR and BARWAIT do on it there (DESIGN CHOICE, log 145). -/
def barRight (f : SY) (s : State) (e : Eff) : Eff :=
  notInHandler s (if f.c.toNat % 32 < 4 && !s.sysView then .trap (privTrap 0 0) else e)

/-- The instance of a barrier slot that serves a core: its team's or its cluster's (R134). BARARR and BARWAIT name no scope: of a slot configured at both, the
instance configured latest serves (DESIGN CHOICE, log 145). -/
def State.barrOf (s : State) (c : Fin 320) (b : Nat) : Option Barr :=
  s.barrs.find? (fun x => x.slot == b && (if x.pkg then x.own == 40 + s.curSeq.val else x.own == c.val / 8))

/-- BARCFG (R134) -/
def execBarcfg (g : Guard) (f : SY) (s : State) : Out :=
  slotDo g (fun s => barRight f s
    (let b := f.c.toNat % 32
     let pkg := f.scope == 4
     let own := if pkg then 40 + s.curSeq.val else s.curCore.val / 8
     let n := f.sys.toNat
     let old := s.barrs.find? (fun x => x.slot == b && x.own == own && x.pkg == pkg)
     let new : Barr := match old with
       | some x => { x with conf := n }
       | none => { slot := b, own := own, conf := n, n := n, arr := 0, gen := 0, pkg := pkg }
     .ok { s with barrs := new :: s.barrs.filter (fun x => !(x.slot == b && x.own == own && x.pkg == pkg)) })) s

/-- An arrival (R135). -/
def Barr.arrive (x : Barr) : Barr :=
  let n := if x.arr = 0 then x.conf else x.n
  if n ≤ x.arr + 1 then { x with n := n, arr := 0, gen := x.gen + 1 } else { x with n := n, arr := x.arr + 1 }

/-- BARARR (R135) -/
def execBararr (g : Guard) (f : SY) (s : State) : Out :=
  slotDo g (fun s => barRight f s
    (let b := f.c.toNat % 32
     match s.barrOf s.curCore b with
     | none => .trap (mkTrap .handle (BitVec.ofNat 64 (b + 256)) 0)
     | some x =>
       let s := { s with barrs := s.barrs.map (fun y => if y == x then x.arrive else y) }
       .ok (s.modCore s.curCore (fun k => { k with gens := (b, x.own, x.gen) :: k.gens.filter (fun e => e.1 != b) })))) s

/-- BARWAIT (R135): the generation is that of the instance at which the core arrived. -/
def execBarwait (g : Guard) (f : SY) (s : State) : Out :=
  slotDo g (fun s => barRight f s
    (let b := f.c.toNat % 32
     match (s.core s.curCore).gens.find? (fun e => e.1 == b) with
     | some (_, own, gen) => match s.barrs.find? (fun x => x.slot == b && x.own == own) with
       | some x => if gen < x.gen then .ok s else .stall 10 (BitVec.ofNat 8 b)
       | none => .ok s
     | none => .ok s)) s

/-- SSTEP (R137): it commits and arrives once, and issues once the superstep has ended; the first core to find that it may end ends it. -/
def execSstep (g : Guard) (_f : SY) (s : State) : Out :=
  slotDo g (fun s => notInHandler s
    (let c := s.curCore
     match (s.core c).task, s.taskInv c with
     | some t, some i => match t.arrived with
       | none =>
         if !(s.core c).phaseReady then .stall 11 0
         else match s.phaseCommit c (s.core c).fr.pc with
           | .error t => .trap t
           | .ok r => spillWait s r.1 (.stall 11 1)
       | some n =>
         if n < i.sstep then .ok { s with iss := { s.iss with post := .sstep } }
         else if s.stepOver t.osq t.inv n then let s := s.endStep t.osq t.inv
                                              .ok { s with iss := { s.iss with post := .sstep } }
         else .stall 11 0
     | _, _ => .stall 11 0)) s

/-! ## System registers (R28, R138, R295) -/

/-- MODE as it reads (R29, R30). The DARB bit of an operator sequencer, of which R295 names no source, is that of core 0 (DESIGN CHOICE, log 143). -/
def State.modeWord (s : State) : Word :=
  let k := s.core s.curCore
  let lock := s.plat.lpt != 0
  let own := if s.isSeq then 0 else k.mode
  BitVec.ofNat 64 (128 * b2n s.rec_ + 64 * b2n s.inHandler + 32 * b2n (bit own 5 || (s.rec_ && !s.isSeq)) + 16 * b2n (bit own 4) +
    8 * b2n (lock || s.rec_) + 4 * b2n s.sysView + 2 * b2n (bit k.mode 1 || s.rec_))

/-- CLK of a die (R31). -/
def State.clkWord (s : State) (die : Fin 4) : Word := BitVec.ofNat 64 (s.plat.lpt.toNat * 65536 + (s.dies[die]).mhz.toNat)

/-- WS.RGRP (R326). -/
def State.rgrpWord (s : State) : Word := BitVec.ofNat 64 (s.tb.toNat / 2000 % 16)

/-- A core register as SRD returns it; none for an unlisted number (R28). -/
def State.readSys (s : State) (c : Fin 320) (n : Nat) : Option Word :=
  let k := s.core c
  if n = 0x000 then some s.modeWord
  else if n = 0x001 then some (s.clkWord (Fin.ofNat 4 (c.val / 80)))
  else if n = 0x002 then some s.tb
  else if n = 0x003 then some k.fr.scyc
  else if n = 0x004 then some k.arr.beatc
  else if 0x008 ≤ n ∧ n ≤ 0x00F then some ((k.arr.termc[Fin.ofNat 8 (n - 8)]).zeroExtend 64)
  else if (0x010 ≤ n ∧ n ≤ 0x015) ∨ n = 0x018 ∨ (0x01A ≤ n ∧ n ≤ 0x01C) ∨ (0x040 ≤ n ∧ n ≤ 0x04B) then some (k.sys.get n)
  else if n = 0x019 then some k.arr.hstat
  else if n = 0x01D then some s.rgrpWord
  else if n = 0x01E then some k.arr.fs
  else if n = 0x01F then some (k.arr.g.zeroExtend 64)
  else if 0x020 ≤ n ∧ n ≤ 0x02F then some (BitVec.ofNat 64 (leNat ((List.range 8).map (fun b => k.arr.perm[Fin.ofNat 128 (8 * (n - 0x20) + b)]))))
  else if 0x030 ≤ n ∧ n ≤ 0x037 then some k.mbox[Fin.ofNat 8 (n - 0x30)]
  else if 0x050 ≤ n ∧ n ≤ 0x06F then
    let e := k.e[Fin.ofNat 16 ((n - 0x50) / 2)]
    some (if n % 2 = 0 then exLo e else exHi e)
  else if 0x070 ≤ n ∧ n ≤ 0x077 then some k.k[Fin.ofNat 8 (n - 0x70)]
  else if 0x078 ≤ n ∧ n ≤ 0x07D then some ((k.loops.lc[Fin.ofNat 6 (n - 0x78)]).zeroExtend 64)
  else if 0x080 ≤ n ∧ n ≤ 0x08F then some k.ft[Fin.ofNat 16 (n - 0x80)]
  else none

/-- The user view may not read the register (R28: the watchpoints). -/
def sysHidden (n : Nat) : Bool := 0x040 ≤ n && n ≤ 0x04B

/-- The view may write at least one field of a core register (R10, R28). R28's rows call e0.lo .. e15.hi, k7, FS and FT0 .. FT15 RO in the system view
where the field tables of R23, R26, R32 and R55 give them writable fields: the model follows the field tables (DESIGN CHOICE, log 130). -/
def sysWritable (n : Nat) (sysv : Bool) : Bool :=
  let user := n = 0x000 || n = 0x018 || n = 0x01A || n = 0x01B || n = 0x01C
  user || (sysv && !(n = 0x001 || n = 0x002 || n = 0x01D || (0x030 ≤ n && n ≤ 0x037) || (0x070 ≤ n && n ≤ 0x076)))

/-- A sequencer register (R295) as SRD returns it; none for an unlisted number. -/
def State.readSeq (s : State) (q : Fin 16) (x : Ctx) (i : Inv) (n : Nat) : Option Word :=
  let w (v : Nat) : Option Word := some (BitVec.ofNat 64 v)
  let clus := (List.range 40).countP (fun j => x.team.getLsbD j)
  if n = 0x000 then some s.modeWord
  else if n = 0x001 then some (s.clkWord (Fin.ofNat 4 (q.val / 4)))
  else if n = 0x002 then some s.tb
  else if n = 0x003 then some s.front.scyc
  else if n = 0x100 then some i.opVpc
  else if n = 0x101 then w (i.num.toNat + i.reps % 65536 * 65536)
  else if n = 0x102 then some i.fld
  else if n = 0x103 then w (i.opnds.length + 16 * i.nout)
  else if 0x104 ≤ n ∧ n ≤ 0x107 then some (i.args.getD (n - 0x104) 0)
  else if 0x110 ≤ n ∧ n ≤ 0x117 then w (if n - 0x110 < i.opnds.length then i.area + 128 * (n - 0x110) else 0)
  else if 0x118 ≤ n ∧ n ≤ 0x11F then
    match i.opnds[n - 0x118]? with
    | some o => w (o.hnd.toNat + o.root % 256 * 256 + o.role.toNat * 65536 + 2 ^ 18)
    | none => w 0
  else if n = 0x120 then w (i.area + 4096)
  else if n = 0x121 then w i.nrec
  else if n = 0x128 then w (8 * clus + clus * 512)
  else if n = 0x129 then some (x.quota.zeroExtend 64)
  else if n = 0x12A then some (x.team.zeroExtend 64)
  else if 0x130 ≤ n ∧ n ≤ 0x137 then some i.mbox[Fin.ofNat 8 (n - 0x130)]
  else if 0x140 ≤ n ∧ n ≤ 0x14F then some i.ft[Fin.ofNat 16 (n - 0x140)]
  else if n = 0x150 then some (i.ftb.zeroExtend 64)
  else none

/-- SRD (R138, R35) -/
def execSrd (g : Guard) (f : SY) (s : State) : Out :=
  slotDo g (fun s =>
    let n := f.sys.toNat
    match s.cur with
    | .core c =>
      if sysHidden n && !s.sysView then noRight n
      else match s.readSys c n with
        | some v => .ok (s.flyS 1 f.d v false)
        | none => .trap (mkTrap .illegalBundle 0 0)
    | .seq _ => withInv s fun q x i =>
      match s.readSeq q x i n with
      | some v => .ok (s.flyS 1 f.d v false)
      | none => .trap (mkTrap .illegalBundle 0 0)) s

/-- The value checks of a core SWR (R32, R33). Of an FS whose K exceeds N, or whose N exceeds 128, the trap names K; which of the two R370 means the manual
does not say (DESIGN CHOICE, log 141). -/
def swrCheck (k : Core) (n : Nat) (v : Word) (e : Eff) : Eff :=
  let running := bits k.arr.fs 2 0 ≠ 0 && !bit k.arr.fs 30
  if n = 0x01B && bit v 3 && 6 ≤ bits v 2 0 then .trap (formatTrap 0 (bits v 2 0))
  else if (n = 0x01E || n = 0x01F || (0x020 ≤ n && n ≤ 0x02F)) && running then noRight n
  else if n = 0x01E && (4 < bits v 2 0) then .trap (formatTrap 0 (bits v 2 0))
  else if n = 0x01E && (bits v 15 8 < bits v 23 16 || 128 < bits v 15 8) then .trap (formatTrap 0 (bits v 23 16))
  else e

/-- SWR (R138, R35, R216) -/
def execSwr (g : Guard) (f : SY) (s : State) : Out :=
  slotDo g (fun s => withC 0 f.a s fun v =>
    let n := f.sys.toNat
    let ok : Eff := .ok { s with iss := { s.iss with post := .swr n v } }
    match s.cur with
    | .core c =>
      if (s.readSys c n).isNone then .trap (mkTrap .illegalBundle 0 0)
      else if !sysWritable n s.sysView then noRight n
      else swrCheck (s.core c) n v ok
    | .seq _ => withInv s fun q x i =>
      if (s.readSeq q x i n).isNone then .trap (mkTrap .illegalBundle 0 0)
      else if 0x130 ≤ n ∧ n ≤ 0x137 then (if i.sealed then noRight n else ok)
      else if s.sysView && (n = 0x003 || n = 0x129 || n = 0x12A) then ok
      else noRight n) s

end Sys2Proof.Machine
end

