-- ==== Sys2Proof/Machine/Seq.lean ====
section
/-! DEFINITION. The forms of an expansion routine (R217 to R224, R301 to R304): loop-nest records, scratchpad regions, the scoreboard,
trace records, the latch table, the end of the routine. -/

namespace Sys2Proof.Machine

/-- A trap of a sequencer form. -/
def seqFault (c : Cause) (info : Nat) (hnd : Option (BitVec 8)) : Eff :=
  .trap { (mkTrap c (BitVec.ofNat 64 info) 0) with tensor := hnd }

/-! ## Scratchpad regions (R219, R220, R301, R397) -/

/-- The granules of a list of granted regions. -/
def Inv.granules (i : Inv) : List (Nat × Nat) := i.regions.toList.filterMap id

/-- The granules granted on some core of a team: by every context whose team meets it. -/
def State.takenGranules (s : State) (team : BitVec 40) : List (Nat × Nat) :=
  (List.finRange 16).flatMap (fun q => match s.ctx q with
    | some x => if x.team &&& team = 0 then [] else x.invs.flatMap Inv.granules
    | none => [])

def inRuns (l : List (Nat × Nat)) (g : Nat) : Bool := l.any (fun r => r.1 ≤ g && g < r.1 + r.2)

/-- The lowest free run of n granules, and the longest free run, given the runs taken. -/
def scanRuns (l : List (Nat × Nat)) (n : Nat) : Option Nat × Nat :=
  let r := (List.range 192).foldl (fun (a : Nat × Nat × Option Nat) g =>
    let run := if inRuns l g then 0 else a.1 + 1
    (run, max a.2.1 run, match a.2.2 with
      | some x => some x
      | none => if run = n then some (g + 1 - n) else none)) (0, 0, none)
  (r.2.2, r.2.1)

def sumRuns (l : List (Nat × Nat)) : Nat := l.foldl (fun a r => a + r.2) 0

/-- The granules of a grant read as zero, their marks clear, on each core where the last holder was another context (R301). -/
def Core.grant (k : Core) (tag : BitVec 16) (g n : Nat) : Core :=
  (List.range n).foldl (fun (k : Core) i =>
    let k := if spGet 0 k.gran (g + i) = tag then k
      else { k with scr := Mem.clear k.scr ((g + i) * 4096) 4096, marks := k.marks.filter (fun w => w / 1024 != g + i) }
    { k with gran := spSet 0 k.gran (g + i) tag }) k

/-- A grant of region r at granule g on every core of the team. -/
def State.grantRegion (s : State) (q : Fin 16) (x : Ctx) (uid : Nat) (r g n : Nat) : State :=
  let s := (List.finRange 320).foldl (fun (s : State) c =>
    if x.team.getLsbD (c.val / 8) then s.modCore c (fun k => k.grant x.tag g n) else s) s
  s.modCtx q (fun x => x.modInv uid (fun i => { i with regions := i.regions.set (Fin.ofNat 16 r) (some (g, n)) }))

/-- What a request for a region of n granules finds (R301, R397): the lowest free run, a wait for earlier invocations of the context, or
neither, with the longest run that the free granules and the quota still permit. -/
inductive Room where
  | found (granule : Nat)
  | wait
  | short (run : Nat)
deriving DecidableEq, Repr

def State.roomFor (s : State) (x : Ctx) (i : Inv) (r n : Nat) : Room :=
  let taken := s.takenGranules x.team
  let mine := sumRuns (x.invs.flatMap Inv.granules)
  let quota := x.quota.toNat
  let short := Room.short (min (scanRuns taken 1).2 (quota - mine))
  let none_ := if quota < mine + n then Room.short (quota - mine) else short
  if n = 0 || 192 < n || (i.regions[Fin.ofNat 16 r]).isSome then short
  else
    match (scanRuns taken n).1, decide (mine + n ≤ quota) with
    | some gr, true => .found gr
    | _, _ =>
      let old := (x.invs.filter (fun y => y.uid < i.uid)).flatMap Inv.granules
      let rest := taken.filter (fun t => !old.contains t)
      if (scanRuns rest n).1.isSome && decide (mine - sumRuns old + n ≤ quota) then .wait else none_

/-- TRAP.INFO of REGION_ALLOC at an RGALLOC (R370, R397). -/
def roomInfo (r n run : Nat) : Nat := n % 256 + 256 * run + 2 ^ 20 * r

/-- RGALLOC (R219, R301, R397) -/
def execRgalloc (g : Guard) (f : SA) (s : State) : Out :=
  slotDo g (fun s => withInv s fun q x i => withS f.a s fun a pa =>
    let n := a.toNat
    let r := f.fn.toNat % 16
    match s.roomFor x i r n with
    | .found gr => .ok ((s.grantRegion q x i.uid r gr n).flyS 1 f.d (BitVec.ofNat 64 (gr * 4096)) pa)
    | .wait => .stall 0 0
    | .short run => seqFault .regionAlloc (roomInfo r n run) none) s

/-- A task of the invocation dispatched so far has not ended. -/
def Ctx.live (x : Ctx) (uid : Nat) : Bool := x.recs.any (fun w => w.inv == uid && w.out != 0)

/-- RGFREE (R220) -/
def execRgfree (g : Guard) (f : SA) (s : State) : Out :=
  slotDo g (fun s => withInv s fun q x i =>
    let r := f.fn.toNat % 16
    if (i.regions[Fin.ofNat 16 r]).isNone then seqFault .regionAlloc (2 ^ 20 * r) none
    else if x.live i.uid then .stall 0 0
    else .ok (s.modCtx q (fun x => x.modInv i.uid (fun i => { i with regions := i.regions.set (Fin.ofNat 16 r) none })))) s

/-! ## The scoreboard (R221) -/

/-- SBWAIT (R221) -/
def execSbwait (g : Guard) (f : SA) (s : State) : Out :=
  slotDo g (fun s => withInv s fun _ x i =>
    match i.opnds.find? (fun o => o.hnd == f.fn) with
    | none => seqFault .handle 0 (some f.fn)
    | some o => if x.unpublished i.uid o.root then .stall 0 0 else .ok s) s

/-- SBPUB (R221) -/
def execSbpub (g : Guard) (f : SA) (s : State) : Out :=
  slotDo g (fun s => withInv s fun q x i =>
    match i.opnds.find? (fun o => o.hnd == f.fn && o.role != 0) with
    | none => seqFault .handle 0 (some f.fn)
    | some o =>
      if x.live i.uid then .stall 0 0
      else .ok ((s.modCtx q (fun x => x.modInv i.uid (fun i =>
        { i with opnds := i.opnds.map (fun p => if p.root == o.root && p.role != 0 then { p with pub := true } else p) }))).armRecs q)) s

/-! ## Trace records (R222, R417) -/

/-- TREC (R222, R417) -/
def execTrec (g : Guard) (f : SA) (s : State) : Out :=
  slotDo g (fun s => withInv s fun q _ i => withS f.a s fun a _ =>
    .ok (s.ctxTrace q (leBytes 8 s.tb.toNat ++ leBytes 8 i.opVpc.toNat ++ leBytes 8 (f.fn.toNat + 256 * i.num.toNat) ++ leBytes 8 a.toNat))) s

/-! ## The latch table (R214, R223) -/

def Latch.idle : Latch := { st := 0, n := 0, got := 0, cnt := Vector.replicate 256 0, pre := Vector.replicate 256 0, out := 0 }

/-- The latch entry that FN[3:0] names. -/
def latchNo (f : SA) : Fin 16 := Fin.ofNat 16 f.fn.toNat

/-- HLAT_ARM (R223) -/
def execHlatArm (g : Guard) (f : SA) (s : State) : Out :=
  slotDo g (fun s => withInv s fun q x _ => withS f.a s fun a _ =>
    if a = 0 || 320 < a.toNat then .trap (shapeTrap 0 0)
    else if (x.latch[latchNo f]).st = 1 then seqFault .handle 0 none
    else .ok (s.modCtx q (fun x => { x with latch := x.latch.set (latchNo f) { Latch.idle with st := 1, n := a.toNat } }))) s

/-- A latched entry's value; HANDLE of an idle one, a stall until an armed one latches (R223). -/
def withLatch (f : SA) (s : State) (k : Latch → Eff) : Eff :=
  withInv s fun _ x _ =>
    let l := x.latch[latchNo f]
    if l.st = 0 then seqFault .handle 0 none else if l.st = 1 then .stall 0 0 else k l

/-- A bin number in sB with its poison, which the result takes (R111, R112). -/
def withBin (f : SA) (s : State) (k : Fin 256 → Bool → Eff) : Eff :=
  withS f.b s fun b p => if 255 < b.toNat then .trap (shapeTrap 0 0) else k (Fin.ofNat 256 b.toNat) p

/-- HLAT_CNT (R223) -/
def execHlatCnt (g : Guard) (f : SA) (s : State) : Out :=
  slotDo g (fun s => withBin f s fun b p => withLatch f s fun l => .ok (s.flyS 1 f.d (zx32 l.cnt[b]) p)) s

/-- HLAT_PRE (R223) -/
def execHlatPre (g : Guard) (f : SA) (s : State) : Out :=
  slotDo g (fun s => withBin f s fun b p => withLatch f s fun l => .ok (s.flyS 1 f.d (zx32 l.pre[b]) p)) s

/-- HLAT_OUT (R223) -/
def execHlatOut (g : Guard) (f : SA) (s : State) : Out :=
  slotDo g (fun s => withLatch f s fun l => .ok (s.flyS 1 f.d (zx32 l.out) false)) s

/-- The saturated sum of the counts. -/
def Latch.total (l : Latch) : Nat := min (2 ^ 32 - 1) (l.cnt.toList.foldl (fun a c => a + c.toNat) 0)

/-- HLAT_TOT (R223) -/
def execHlatTot (g : Guard) (f : SA) (s : State) : Out :=
  slotDo g (fun s => withLatch f s fun l => .ok (s.flyS 1 f.d (BitVec.ofNat 64 l.total) false)) s

/-! ## Loop-nest records (R218, R302 to R304) -/

/-- The first failing header field of a record (R304), as its byte offset. -/
def headerBad (s : State) (x : Ctx) (i : Inv) (r : LRec) : Option Nat :=
  let nd := r.ndim
  let perm := (List.range nd).all (fun d => (List.range nd).any (fun p => r.enum p == d))
  let pos (d : Nat) : Nat := ((List.range nd).find? (fun p => r.enum p == d)).getD 0
  let img := i.img.bind s.img
  let trip := (List.range 6).find? (fun d => r.trip d != 0 && (nd ≤ d || (r.lten && d == r.ltd)))
  if nbits r.h0 47 47 ≠ 0 then some 5
  else if nbits r.h1 63 50 ≠ 0 then some 14
  else if Mem.read r 16 16 / 2 ^ 126 ≠ 0 then some 31
  else if nd = 0 || 6 < nd then some 1
  else if !perm || !(List.range 6).all (fun p => p < nd || r.enum p == 7) then some 2
  else if !img.any (fun g => g.isTask r.entry) then some 0
  else if r.prio = 3 && !img.any (·.sysv) then some 2
  else match trip with
  | some d => some (16 + 21 * d / 8)
  | none =>
    if !r.latched then none
    else if nd ≤ r.ltd || nd ≤ r.lbd || r.lbd == r.ltd || pos r.lbd ≤ pos r.ltd then some 6
    else if 256 < r.trip r.lbd then some (16 + 21 * r.lbd / 8)
    else if (x.latch[Fin.ofNat 16 r.le]).st = 0 then some 7
    else none

/-- The lowest first byte and the length that cover an operand's ranges over every iteration; none when they depend on latched
values or no iteration exists. -/
def opSweep (r : LRec) (j : Nat) : Option (Int × Nat) :=
  let e := r.opnd j
  let dep := (r.lben && r.lbmask j && loDA e != 6) || (r.lten && (r.ltd == loDA e || r.ltd == loDB e))
  if dep || !(List.range r.ndim).all (fun d => r.trip d != 0 || (r.lten && d == r.ltd)) then none
  else
    let reach (d : Nat) (st : Int) : Int := if d = 6 then 0 else ((r.trip d : Int) - 1) * st
    let a := reach (loDA e) (loStrA e)
    let b := reach (loDB e) (loStrB e)
    let lo := min 0 a + min 0 b
    let hi := max 0 a + max 0 b
    some ((loBase e : Int) + lo, (hi - lo).toNat + loLen e)

/-- The first failing operand field of a record (R304), as its byte offset. -/
def operandBad (s : State) (x : Ctx) (i : Inv) (r : LRec) (j : Nat) : Option Nat :=
  let e := r.opnd j
  let off := 32 + 12 * j
  let bad (d : Nat) : Bool := d = 7 || (r.ndim ≤ d && d < 6)
  if loAcc e = 0 then none
  else if bad (loDA e) || bad (loDB e) || (loDA e == loDB e && loDA e != 6) then some (off + 5)
  else match i.opnds[j]? with
  | some o =>
    if 2 ≤ loAcc e && (o.role == 0 || o.pub) then some (off + 5)
    else match opSweep r j with
      | some (lo, n) => if inSpan (s.spanOf x o.tr) lo n then none else some off
      | none => none
  | none =>
    if loAcc e ≠ 1 then some (off + 5)
    else match opSweep r j with
      | some (lo, n) => if (i.area : Int) + 4096 ≤ lo && lo + n ≤ (i.area : Int) + 8192 then none else some off
      | none => none

/-- ARG lies in the argument area and a read operand of fixed base covers its 128 bytes (R304). -/
def argOk (i : Inv) (r : LRec) : Bool :=
  i.area + 4096 ≤ r.arg && r.arg < i.area + 8192 && (List.range 8).any (fun j =>
    let e := r.opnd j
    loAcc e == 1 && loDA e == 6 && loDB e == 6 && loBase e ≤ r.arg && r.arg + 128 ≤ loBase e + loLen e)

/-- The kernel constants keep lo[63] clear unless the image is a system kernel (R304). -/
def constsOk (sysv : Bool) (c : Mem) : Bool := sysv || (List.range 8).all (fun i => (c.get (16 * i + 7)).toNat < 128)

/-- The first failing field of a record without its constants (R304). -/
def recordBad (s : State) (x : Ctx) (i : Inv) (r : LRec) : Option Nat :=
  match headerBad s x i r with
  | some o => some o
  | none => match (List.range 8).findSome? (operandBad s x i r) with
    | some o => some o
    | none => if argOk i r then none else some 8

/-- 128 bytes at va as a sequencer reads them, in two halves of one line each. -/
def seqBlock (s : State) (va : Nat) (k : Mem → State → Eff) : Eff :=
  seqLd s va 64 fun a s => seqLd s (va + 64) 64 fun b s => k (Mem.write (Mem.write [] 0 a 64) 64 b 64) s

/-- Queues a checked record: the first of a pass closes the argument area and seals the mailboxes (R216, R296). -/
def State.submit (s : State) (q : Fin 16) (uid : Nat) (r consts : Mem) : State :=
  (s.modCtx q (fun x =>
    let ord := ((x.inv uid).map (·.nrec)).getD 0
    let w : WRec := { inv := uid, ord := ord, raw := r, consts := consts, latch := none, total := none, next := 0, back := [], out := 0,
                      ready := none, first := 0, defer := 0, defWin := 0 }
    { (x.modInv uid (fun i => { i with nrec := i.nrec + 1, sealed := true, opened := true })) with recs := x.recs ++ [w] })).armRecs q

/-- WLNR (R218, R304). R112 does not list it: poison of its address passes on to its result (R111). -/
def execWlnr (g : Guard) (f : SA) (s : State) : Out :=
  slotDo g (fun s => withInv s fun q x i => withS f.a s fun a pa =>
    let va := a.toNat
    let rec_ (o : Nat) : Eff := seqFault .record o none
    if va % 128 ≠ 0 then .trap (addrTrap .misalign 0 0 va)
    else if 32 ≤ x.recs.length then .stall 0 0
    else seqBlock s va fun r s =>
      match recordBad s x i r with
      | some o => rec_ o
      | none => seqBlock s (LRec.arg r) fun c s =>
        if constsOk s.sysView c then .ok ((s.submit q i.uid r c).flyS 1 f.d (BitVec.ofNat 64 i.nrec) pa) else rec_ 8) s

/-! ## The end of the routine (R224) -/

/-- OPEND_DONE (R224) -/
def execOpendDone (g : Guard) (_f : SA) (s : State) : Out :=
  slotDo g (fun s => withInv s fun _ _ _ => .ok { s with iss := { s.iss with post := .opend 0 } }) s

/-- OPEND_CANCEL (R224): RECORD after a WLNR. -/
def execOpendCancel (g : Guard) (_f : SA) (s : State) : Out :=
  slotDo g (fun s => withInv s fun _ _ i =>
    if i.nrec ≠ 0 then seqFault .record 0 none else .ok { s with iss := { s.iss with post := .opend 1 } }) s

/-- OPEND_REPEAT (R224): it waits for the tasks dispatched so far and for what the superstep has on its way (R137 step 3). -/
def execOpendRepeat (g : Guard) (_f : SA) (s : State) : Out :=
  slotDo g (fun s => withInv s fun _ x i =>
    if x.live i.uid || !s.stepOver s.curSeq i.uid i.sstep then .stall 0 0 else .ok { s with iss := { s.iss with post := .opend 2 } }) s

end Sys2Proof.Machine
end

