-- ==== Sys2Proof/Machine/Vector.lean ====
section
/-! DEFINITION. The V slot (R139 to R163): element types, masks and poison, arithmetic, bitwise forms, conversions, compares, selects,
masks, ordered reductions and scans, lane moves, classes, terms, block quantisation, ring and scratchpad accesses, VCHK. -/

namespace Sys2Proof.Machine

/-! ## Element types and lanes (R71, R72, R139, R140) -/

/-- The element width of a TY code (R71). -/
def tyW (t : BitVec 3) : Nat := [32, 16, 16, 32, 16, 8, 4, 8].getD t.toNat 8
/-- Sub-elements per lane (R71). -/
def tyE (t : BitVec 3) : Nat := 32 / tyW t
/-- The format code of a TY code, `.q` naming QFMT (R39, R71). -/
def tyFmt (t : BitVec 3) (q : BitVec 8) : BitVec 8 := [0x01, 0x02, 0x03, 0x04, 0x05, 0x06, 0x08].getD t.toNat q
def tyIsF (t : BitVec 3) : Bool := t.toNat < 3
def tyIsQ (t : BitVec 3) : Bool := t == 7

def laneOf (v : Lanes) (l : Nat) : Nat := (v[Fin.ofNat 64 l]).toNat
/-- Sub-element j of width w of a lane. -/
def subOf (x j w : Nat) : Nat := x / 2 ^ (w * j) % 2 ^ w

/-- The sub-elements that take part (R72). -/
def parts (part : BitVec 4) (e : Nat) : List Nat := if part = 0 then List.range e else [part.toNat - 1]

/-- Lane l of vector r and its poison. -/
def Core.vec (k : Core) (r : BitVec 6) : Lanes := k.v[r.toFin]
def Core.vpsn (k : Core) (r : BitVec 6) (l : Nat) : Bool := (k.vp[r.toFin]).getLsbD l

/-- The lanes that a mask enables, ascending (R139). -/
def enLanes (m : Word) : List Nat := (List.range 64).filter (fun l => m.getLsbD l)

/-- What a form writes into one lane: sub-elements as (value, position, width), and its poison. -/
abbrev LaneOut := List (Nat × Nat × Nat) × Bool

def laneVal (o : LaneOut) : Lane := BitVec.ofNat 32 (o.1.foldl (fun a x => a + x.1 % 2 ^ x.2.2 * 2 ^ (x.2.1 * x.2.2)) 0)
def laneMsk (o : LaneOut) : Lane := BitVec.ofNat 32 (o.1.foldl (fun a x => a + (2 ^ x.2.2 - 1) * 2 ^ (x.2.1 * x.2.2)) 0)

/-- A vector result in flight: f gives what each written lane takes; the others keep value and poison (R139, R140). -/
def State.flyV (s : State) (lat : Nat) (d : BitVec 6) (f : Nat → Option LaneOut) : State :=
  let outs : Vector LaneOut 64 := Vector.ofFn (fun l => (f l.val).getD ([], false))
  s.fly lat (.v d (outs.map laneVal) (outs.map laneMsk) (bvOf 64 (fun l => ((f l).getD ([], false)).2)))

/-- The core of the V slot. -/
def State.vc (s : State) : Core := s.core s.curCore

/-- The entry in force for a form that works on `.q`: FORMAT when it is unsound or QFMT is 0 (R56, R141). -/
def withQ (s : State) (k : Word → Eff) : Eff :=
  withFt 1 s (fun ft => if ftQ ft = 0 then .trap (formatTrap 1 0) else k ft)

/-- QFMT where the type is `.q`, unread otherwise. -/
def withTy (ty : BitVec 3) (s : State) (k : Word → Eff) : Eff := if tyIsQ ty then withQ s k else k 0

/-! ## Element-wise forms (R145 to R148) -/

/-- An element-wise form of n sources: op on the sub-elements' contents; B reads swizzled (R72). -/
def ewise (n lat : Nat) (f : VA) (op : Nat → Nat → Nat → Nat) (s : State) : Eff :=
  let k := s.vc
  let m := k.getM f.msk
  let w := tyW f.ty
  let e := tyE f.ty
  .ok (s.flyV lat f.d (fun l =>
    if !m.getLsbD l then none
    else some ((parts f.part e).map (fun j =>
        (op (subOf (laneOf (k.vec f.a) l) j w) (if n < 2 then 0 else subOf (laneOf (k.vec f.b) l) (if f.swz then e - 1 - j else j) w)
          (if n < 3 then 0 else subOf (laneOf (k.vec f.c) l) j w), j, w)),
      k.vpsn f.a l || (2 ≤ n && k.vpsn f.b l) || (3 ≤ n && k.vpsn f.c l))))

/-- A floating operation on contents, rounded once (R51). -/
def flOp (ty : BitVec 3) (g : Val → Val → Val → Val) (a b c : Nat) : Nat :=
  let f := tyFmt ty 0
  rneTo f (g (valOf f a) (valOf f b) (valOf f c))

/-- An integer operation on signed values modulo 2^w, clamped to the range with `sat` (R145). -/
def intOp (w : Nat) (sat : Bool) (g : Int → Int → Int → Int) (a b c : Nat) : Nat :=
  let x := g (sintOf w a) (sintOf w b) (sintOf w c)
  let hi : Int := 2 ^ (w - 1) - 1
  intBits w (if sat then (if x < -hi - 1 then -hi - 1 else if hi < x then hi else x) else x)

/-- A form with a floating and an integer meaning. -/
def arith (n lat : Nat) (sat : Bool) (fg : Val → Val → Val → Val) (ig : Int → Int → Int → Int) (f : VA) (s : State) : Eff :=
  ewise n lat f (if tyIsF f.ty then flOp f.ty fg else intOp (tyW f.ty) sat ig) s

def vsat (f : VA) : Bool := f.fn.getLsbD 0

/-- VADD (R145) -/
def execVadd (g : Guard) (f : VA) (s : State) : Out :=
  slotDo g (arith 2 2 (vsat f) (fun a b _ => a.add b) (fun a b _ => a + b) f) s
/-- VSUB (R145) -/
def execVsub (g : Guard) (f : VA) (s : State) : Out :=
  slotDo g (arith 2 2 (vsat f) (fun a b _ => a.sub b) (fun a b _ => a - b) f) s
/-- VMUL (R145) -/
def execVmul (g : Guard) (f : VA) (s : State) : Out :=
  slotDo g (arith 2 4 false (fun a b _ => a.mul b) (fun a b _ => a * b) f) s
/-- VFMA (R145, R62) -/
def execVfma (g : Guard) (f : VA) (s : State) : Out :=
  slotDo g (arith 3 4 false (fun a b c => (a.mul b).add c) (fun a b c => a * b + c) f) s
/-- VFMS (R145, R62) -/
def execVfms (g : Guard) (f : VA) (s : State) : Out :=
  slotDo g (arith 3 4 false (fun a b c => (a.mul b).sub c) (fun a b c => a * b - c) f) s
/-- VFNMA (R145, R62) -/
def execVfnma (g : Guard) (f : VA) (s : State) : Out :=
  slotDo g (arith 3 4 false (fun a b c => c.sub (a.mul b)) (fun a b c => c - a * b) f) s

/-- An integer choice of VMIN and VMAX, unsigned with FN[0]. -/
def pick (u : Bool) (w : Nat) (lo : Bool) (a b : Nat) : Nat :=
  let le : Bool := if u then decide (a ≤ b) else decide (sintOf w a ≤ sintOf w b)
  if le == lo then a else b

/-- VMIN (R145, R146) -/
def execVmin (g : Guard) (f : VA) (s : State) : Out :=
  slotDo g (ewise 2 2 f (if tyIsF f.ty then flOp f.ty (fun a b _ => a.min b) else fun a b _ => pick (f.fn.getLsbD 0) (tyW f.ty) true a b)) s
/-- VMAX (R145, R146) -/
def execVmax (g : Guard) (f : VA) (s : State) : Out :=
  slotDo g (ewise 2 2 f (if tyIsF f.ty then flOp f.ty (fun a b _ => a.max b) else fun a b _ => pick (f.fn.getLsbD 0) (tyW f.ty) false a b)) s
/-- VABS (R145, R146) -/
def execVabs (g : Guard) (f : VA) (s : State) : Out :=
  slotDo g (arith 1 2 (vsat f) (fun a _ _ => a.abs) (fun a _ _ => a.natAbs) f) s
/-- VNEG (R145, R146) -/
def execVneg (g : Guard) (f : VA) (s : State) : Out :=
  slotDo g (arith 1 2 (vsat f) (fun a _ _ => a.neg) (fun a _ _ => -a) f) s
/-- VDIV (R145) -/
def execVdiv (g : Guard) (f : VA) (s : State) : Out := slotDo g (ewise 2 8 f (flOp f.ty (fun a b _ => a.div b))) s
/-- VSQRT (R147) -/
def execVsqrt (g : Guard) (f : VA) (s : State) : Out := slotDo g (ewise 1 8 f (flOp f.ty (fun a _ _ => a.sqrt))) s
/-- VRSQ (R147) -/
def execVrsq (g : Guard) (f : VA) (s : State) : Out := slotDo g (ewise 1 8 f (flOp f.ty (fun a _ _ => a.rsqrt))) s
/-- VEXP2 (R147) -/
def execVexp2 (g : Guard) (f : VA) (s : State) : Out := slotDo g (ewise 1 8 f (flOp f.ty (fun a _ _ => a.exp2))) s
/-- VLOG2 (R147) -/
def execVlog2 (g : Guard) (f : VA) (s : State) : Out := slotDo g (ewise 1 8 f (flOp f.ty (fun a _ _ => a.log2))) s

/-- A bitwise form (R148); `.q` reads QFMT (R141). -/
def bitForm (f : VA) (op : Nat → Nat → Nat) (s : State) : Eff := withTy f.ty s fun _ => ewise 2 2 f (fun a b _ => op a b) s

/-- VAND (R148) -/
def execVand (g : Guard) (f : VA) (s : State) : Out := slotDo g (bitForm f (fun a b => a &&& b)) s
/-- VOR (R148) -/
def execVor (g : Guard) (f : VA) (s : State) : Out := slotDo g (bitForm f (fun a b => a ||| b)) s
/-- VXOR (R148) -/
def execVxor (g : Guard) (f : VA) (s : State) : Out := slotDo g (bitForm f (fun a b => a ^^^ b)) s
/-- VSHL (R148) -/
def execVshl (g : Guard) (f : VA) (s : State) : Out :=
  slotDo g (ewise 2 2 f (fun a b _ => a * 2 ^ (b % tyW f.ty) % 2 ^ tyW f.ty)) s
/-- VSHR (R148) -/
def execVshr (g : Guard) (f : VA) (s : State) : Out := slotDo g (ewise 2 2 f (fun a b _ => a / 2 ^ (b % tyW f.ty))) s
/-- VSRA (R148) -/
def execVsra (g : Guard) (f : VA) (s : State) : Out :=
  slotDo g (ewise 2 2 f (fun a b _ => intBits (tyW f.ty) (Int.fdiv (sintOf (tyW f.ty) a) (2 ^ (b % tyW f.ty) : Nat)))) s

/-! ## Conversions (R149, R150) -/

/-- The source type of a conversion form. -/
def srcTy (f : VA) : BitVec 3 := f.fn.truncate 3

/-- The entry in force for a conversion (R56, R57): checked, with QFMT when either side is `.q`. -/
def withCvt (f : VA) (s : State) (k : Word → Eff) : Eff := if tyIsQ f.ty || tyIsQ (srcTy f) then withQ s k else withFt 1 s k

/-- The sub-element pairs (source, destination) of a lane (R149). -/
def cvtPairs (f : VA) : List (Nat × Nat) :=
  let ws := tyW (srcTy f)
  let wd := tyW f.ty
  if ws = wd then (parts f.part (tyE f.ty)).map (fun j => (j, j))
  else
    let j0 := f.part.toNat - 1
    (List.range (32 / max ws wd)).map (fun i => if ws < wd then (j0 + i, i) else (i, j0 + i))

/-- How many enabled lanes lie below l. -/
def rankOf (m : Word) (l : Nat) : Nat := (List.range l).countP (fun i => m.getLsbD i)

/-- VCVT (R149, R50) -/
def execVcvt (g : Guard) (f : VA) (s : State) : Out :=
  slotDo g (fun s => withCvt f s fun ft =>
    let k := s.vc
    let m := k.getM f.msk
    let src := tyFmt (srcTy f) (ftQ ft)
    let dst := tyFmt f.ty (ftQ ft)
    let ps := cvtPairs f
    let t := s.flyV 3 f.d (fun l =>
      if !m.getLsbD l then none
      else some ((List.range ps.length).map (fun i =>
          let p := ps.getD i (0, 0)
          (cvtElem ft src dst (srAt s.sr (rankOf m l * ps.length + i)) (subOf (laneOf (k.vec f.a) l) p.1 (tyW (srcTy f))), p.2, tyW f.ty)),
        k.vpsn f.a l))
    .ok (t.useDraws (ftRm ft) ((enLanes m).length * ps.length))) s

/-- Element i of a vector numbered l × E + j, and its lane's poison (R71). -/
def Core.elemOf (k : Core) (r : BitVec 6) (ty : BitVec 3) (i : Nat) : Nat × Bool :=
  let e := tyE ty
  (subOf (laneOf (k.vec r) (i / e)) (i % e) (tyW ty), k.vpsn r (i / e))

/-- VPACK (R150) -/
def execVpack (g : Guard) (f : VA) (s : State) : Out :=
  slotDo g (fun s => withCvt f s fun ft =>
    let k := s.vc
    let m := k.getM f.msk
    let st := srcTy f
    let ed := tyE f.ty
    let half := 64 * tyE st
    let at_ (i : Nat) : Nat × Bool := if i < half then k.elemOf f.a st i else k.elemOf f.b st (i - half)
    let t := s.flyV 3 f.d (fun l =>
      if !m.getLsbD l then none
      else some ((List.range ed).map (fun j =>
          (cvtElem ft (tyFmt st (ftQ ft)) (tyFmt f.ty (ftQ ft)) (srAt s.sr (rankOf m l * ed + j)) (at_ (l * ed + j)).1, j, tyW f.ty)),
        (List.range ed).any (fun j => (at_ (l * ed + j)).2)))
    .ok (t.useDraws (ftRm ft) ((enLanes m).length * ed))) s

/-- VUNPK (R150): widening; the entry in force takes part only where `.q` does (R57). -/
def execVunpk (g : Guard) (f : VA) (s : State) : Out :=
  slotDo g (fun s =>
    let q := tyIsQ f.ty || tyIsQ (srcTy f)
    (if q then withQ s else fun k => k 0) fun ft =>
    let k := s.vc
    let m := k.getM f.msk
    let st := srcTy f
    let ed := tyE f.ty
    let off := if f.fn.getLsbD 3 then 64 * ed else 0
    let t := s.flyV 3 f.d (fun l =>
      if !m.getLsbD l then none
      else some ((List.range ed).map (fun j =>
          (cvtElem ft (tyFmt st (ftQ ft)) (tyFmt f.ty (ftQ ft)) (srAt s.sr (rankOf m l * ed + j)) (k.elemOf f.a st (l * ed + j + off)).1, j, tyW f.ty)),
        (List.range ed).any (fun j => (k.elemOf f.a st (l * ed + j + off)).2)))
    .ok (if q then t.useDraws (ftRm ft) ((enLanes m).length * ed) else t)) s

/-! ## Compares, selects and masks (R151 to R153) -/

/-- The condition of VCMP (R151). -/
def vcond (f : VA) (a b : Nat) : Bool :=
  let cc := f.fn.toNat % 8
  if tyIsF f.ty then
    let c := tyFmt f.ty 0
    let x := valOf c a
    let y := valOf c b
    match cc with
    | 0 => Val.eq x y
    | 1 => !Val.eq x y
    | 2 => Val.lt false x y
    | 3 => Val.lt false x y || Val.eq x y
    | 4 => Val.lt false y x
    | 5 => Val.lt false y x || Val.eq x y
    | _ => x.isNan || y.isNan
  else
    let w := tyW f.ty
    let lt (p q : Nat) : Bool := if f.fn.getLsbD 3 then decide (p < q) else decide (sintOf w p < sintOf w q)
    match cc with
    | 0 => a == b
    | 1 => a != b
    | 2 => lt a b
    | 3 => !lt b a
    | 4 => lt b a
    | _ => !lt a b

/-- VCMP (R151) -/
def execVcmp (g : Guard) (f : VA) (s : State) : Out :=
  slotDo g (fun s =>
    let k := s.vc
    let m := k.getM f.msk
    let w := tyW f.ty
    let j := f.part.toNat - 1
    let jb := if f.swz then tyE f.ty - 1 - j else j
    .ok (s.fly 2 (.m (f.d.truncate 3) (bvOf 64 (fun l => m.getLsbD l && !k.vpsn f.a l && !k.vpsn f.b l &&
      vcond f (subOf (laneOf (k.vec f.a) l) j w) (subOf (laneOf (k.vec f.b) l) jb w)))))) s

/-- VSEL (R152): each lane takes element and poison of the arm that mC chooses. -/
def execVsel (g : Guard) (f : VA) (s : State) : Out :=
  slotDo g (fun s => withTy f.ty s fun _ =>
    let k := s.vc
    let m := k.getM f.msk
    let mc := k.getM (f.c.truncate 3)
    let w := tyW f.ty
    let e := tyE f.ty
    .ok (s.flyV 2 f.d (fun l =>
      if !m.getLsbD l then none
      else
        let first := mc.getLsbD l
        let r := if first then f.a else f.b
        some ((parts f.part e).map (fun j => (subOf (laneOf (k.vec r) l) (if f.swz && !first then e - 1 - j else j) w, j, w)), k.vpsn r l)))) s

/-- VMSK.log (R153) -/
def execVmskLog (g : Guard) (f : VA) (s : State) : Out :=
  slotDo g (fun s =>
    let a := s.vc.getM (f.a.truncate 3)
    let b := s.vc.getM (f.b.truncate 3)
    .ok (s.fly 2 (.m (f.d.truncate 3) (bvOf 64 (fun l => tableBit f.fn.toNat (a.getLsbD l) (b.getLsbD l)))))) s
/-- VMSK.set (R153) -/
def execVmskSet (g : Guard) (f : VA) (s : State) : Out :=
  slotDo g (fun s => withS f.a s fun a p => .ok (s.fly 2 (.m (f.d.truncate 3) (if p then 0 else a)))) s
/-- VMSK.first (R153) -/
def execVmskFirst (g : Guard) (f : VA) (s : State) : Out :=
  slotDo g (fun s => withS f.a s fun a p => .ok (s.fly 2 (.m (f.d.truncate 3) (if p then 0 else BitVec.ofNat 64 (2 ^ min a.toNat 64 - 1))))) s
/-- VMSK.get (R153) -/
def execVmskGet (g : Guard) (f : VA) (s : State) : Out :=
  slotDo g (fun s => .ok (s.flyS 2 f.d (s.vc.getM (f.a.truncate 3)) false)) s

/-! ## Ordered reductions and scans (R154, R62) -/

/-- The fold of a type and operator. -/
def foldOp (ty : BitVec 3) (op : Nat) (r x : Nat) : Nat :=
  let w := tyW ty
  if tyIsF ty then
    let c := tyFmt ty 0
    let a := valOf c r
    let b := valOf c x
    match op with
    | 0 => rneTo c (a.add b)
    | 1 => rneTo c (a.min b)
    | 2 => rneTo c (a.max b)
    | _ => rneTo c (a.abs.max b.abs)
  else match op with
    | 0 => (r + x) % 2 ^ w
    | 1 => pick false w true r x
    | 2 => pick false w false r x
    | 4 => r &&& x
    | 5 => r ||| x
    | _ => r ^^^ x

/-- The identity of an operator. -/
def foldId (ty : BitVec 3) (op : Nat) : Nat :=
  let w := tyW ty
  if tyIsF ty then
    match op with
    | 1 => rneTo (tyFmt ty 0) (.inf false)
    | 2 => rneTo (tyFmt ty 0) (.inf true)
    | _ => 0
  else match op with
    | 1 => 2 ^ (w - 1) - 1
    | 2 => 2 ^ (w - 1)
    | 4 => 2 ^ w - 1
    | _ => 0

/-- The running value at the first element: a NaN is canonical, and `.amax` takes the magnitude. -/
def foldFirst (ty : BitVec 3) (op x : Nat) : Nat :=
  if tyIsF ty then
    let c := tyFmt ty 0
    rneTo c (if op = 3 then (valOf c x).abs else valOf c x)
  else x

/-- The participating elements in order with, for each, the fold of those before it and up to it, and the running poison
before and after. -/
def scanList (ty : BitVec 3) (op : Nat) : List (Nat × Nat × Nat × Bool) → Option Nat → Bool → List (Nat × Nat × Nat × Nat × Bool × Bool)
  | [], _, _ => []
  | (l, j, x, p) :: t, r, pr =>
    let now := match r with
      | none => foldFirst ty op x
      | some v => foldOp ty op v x
    (l, j, r.getD (foldId ty op), now, pr, pr || p) :: scanList ty op t (some now) (pr || p)

/-- The participating elements of vA as (lane, sub-element, contents, poison). -/
def scanElems (k : Core) (f : VA) : List (Nat × Nat × Nat × Bool) :=
  (enLanes (k.getM f.msk)).flatMap (fun l => (parts f.part (tyE f.ty)).map (fun j => (l, j, subOf (laneOf (k.vec f.a) l) j (tyW f.ty), k.vpsn f.a l)))

/-- VRED (R154) -/
def execVred (g : Guard) (f : VA) (s : State) : Out :=
  slotDo g (fun s =>
    let op := f.fn.toNat % 8
    let r := (scanList f.ty op (scanElems s.vc f) none false).getLast?
    let j := f.part.toNat - 1
    .ok (s.flyV 6 f.d (fun l => if l = 0 then some ([((r.map (·.2.2.2.1)).getD (foldId f.ty op), j, tyW f.ty)], (r.map (·.2.2.2.2.2)).getD false) else none))) s

/-- VSCAN (R154) -/
def execVscan (g : Guard) (f : VA) (s : State) : Out :=
  slotDo g (fun s =>
    let x := f.fn.getLsbD 3
    let r := scanList f.ty (f.fn.toNat % 8) (scanElems s.vc f) none false
    let m := s.vc.getM f.msk
    .ok (s.flyV 6 f.d (fun l =>
      if !m.getLsbD l then none
      else
        let mine := r.filter (fun y => y.1 == l)
        some (mine.map (fun y => (if x then y.2.2.1 else y.2.2.2.1, y.2.1, tyW f.ty)), mine.any (fun y => if x then y.2.2.2.2.1 else y.2.2.2.2.2))))) s

/-! ## Lane moves (R155 to R157) -/

/-- VBCST of a scalar (R155) -/
def execVbcst (g : Guard) (f : VA) (s : State) : Out :=
  slotDo g (fun s => withTy f.ty s fun _ => withS f.a s fun a p =>
    let m := s.vc.getM f.msk
    .ok (s.flyV 2 f.d (fun l => if m.getLsbD l then some ((parts f.part (tyE f.ty)).map (fun j => (a.toNat, j, tyW f.ty)), p) else none))) s

/-- VBCST of a lane (R155) -/
def execVbcstLane (g : Guard) (f : VA) (s : State) : Out :=
  slotDo g (fun s => withTy f.ty s fun _ =>
    let k := s.vc
    let m := k.getM f.msk
    let x := laneOf (k.vec f.a) f.b.toNat
    .ok (s.flyV 2 f.d (fun l => if m.getLsbD l then some ((parts f.part (tyE f.ty)).map (fun j => (subOf x j (tyW f.ty), j, tyW f.ty)), k.vpsn f.a f.b.toNat) else none))) s

/-- VMOVS (R155) -/
def execVmovs (g : Guard) (f : VA) (s : State) : Out :=
  slotDo g (fun s => withTy f.ty s fun _ =>
    let k := s.vc
    let w := if f.part = 0 then 32 else tyW f.ty
    let x := subOf (laneOf (k.vec f.a) f.b.toNat) (f.part.toNat - 1) w
    .ok (s.flyS 2 f.d (if f.fn.getLsbD 0 then wordOf (sintOf w x) else BitVec.ofNat 64 x) (k.vpsn f.a f.b.toNat))) s

/-- VINS (R155) -/
def execVins (g : Guard) (f : VA) (s : State) : Out :=
  slotDo g (fun s => withTy f.ty s fun _ => withS f.a s fun a p =>
    let w := if f.part = 0 then 32 else tyW f.ty
    .ok (s.flyV 2 f.d (fun l => if l = f.b.toNat then some ([(a.toNat, f.part.toNat - 1, w)], p) else none))) s

/-- VIOTA (R156) -/
def execViota (g : Guard) (f : VA) (s : State) : Out :=
  slotDo g (fun s => withS f.a s fun a pa => withS f.b s fun b pb =>
    let m := s.vc.getM f.msk
    let e := tyE f.ty
    .ok (s.flyV 2 f.d (fun l =>
      if !m.getLsbD l then none
      else some ((parts f.part e).map (fun j => (a.toNat + ((if f.fn.getLsbD 0 then rankOf m l else l) * e + j) * b.toNat, j, tyW f.ty)), pa || pb)))) s

/-- VSHUF (R157) -/
def execVshuf (g : Guard) (f : VA) (s : State) : Out :=
  slotDo g (fun s =>
    let k := s.vc
    let m := k.getM f.msk
    .ok (s.flyV 2 f.d (fun l =>
      if !m.getLsbD l then none
      else
        let x := laneOf (k.vec f.b) l % 128
        let pb := k.vpsn f.b l
        if x < 64 then some ([(laneOf (k.vec f.a) x, 0, 32)], k.vpsn f.a x || pb)
        else if f.fn.getLsbD 0 then some ([(laneOf (k.vec f.c) (x - 64), 0, 32)], k.vpsn f.c (x - 64) || pb)
        else some ([(0, 0, 32)], pb)))) s

/-- VROT (R157) -/
def execVrot (g : Guard) (f : VA) (s : State) : Out :=
  slotDo g (fun s => withS f.b s fun n pn =>
    let k := s.vc
    let m := k.getM f.msk
    .ok (s.flyV 2 f.d (fun l =>
      if !m.getLsbD l then none
      else if f.fn.getLsbD 0 && decide (64 ≤ l + n.toNat) then some ([(0, 0, 32)], pn)
      else
        let x := (l + n.toNat) % 64
        some ([(laneOf (k.vec f.a) x, 0, 32)], k.vpsn f.a x || pn)))) s

/-! ## Classes, terms, block quantisation (R158 to R160) -/

/-- The class code of contents x of a floating format (R158). -/
def classOf (f : Fmt) (x : Nat) : Nat :=
  match f.decode x with
  | .nan => 8
  | .inf s => if s then 7 else 3
  | .fin s m e => (if s then 4 else 0) + (if m = 0 then 0 else if e + bitLen m - 1 < f.emin then 1 else 2)

/-- The class of an element; of a non-zero integer `.q` element the manual states none (log 2): free value n. -/
def classIn (c : BitVec 8) (n x : Nat) : Nat :=
  match fmtOf c with
  | some f => if f.isFloat then classOf f x else if x = 0 then 0 else (Config.freeWord n).toNat
  | none => 0

/-- VCLASS (R158) -/
def execVclass (g : Guard) (f : VA) (s : State) : Out :=
  slotDo g (fun s => withTy f.ty s fun ft =>
    let k := s.vc
    let m := k.getM f.msk
    let c := tyFmt f.ty (ftQ ft)
    let t := s.flyV 2 f.d (fun l =>
      if !m.getLsbD l then none
      else some ((parts f.part (tyE f.ty)).map (fun j => (classIn c (s.free + 8 * l + j) (subOf (laneOf (k.vec f.a) l) j (tyW f.ty)), j, tyW f.ty)), k.vpsn f.a l))
    .ok (if (fmtOf c).any (·.isInt) then { t with free := t.free + 512 } else t)) s

/-- VTERM (R159, R52) -/
def execVterm (g : Guard) (f : VA) (s : State) : Out :=
  slotDo g (fun s => withTy f.ty s fun ft => ewise 1 2 f (fun a _ _ => match fmtOf (tyFmt f.ty (ftQ ft)) with
    | some m => m.terms a
    | none => 0) s) s

/-- The values of block b that enabled lanes hold (R160). -/
def qBlock (k : Core) (f : VA) (b : Nat) : List Val :=
  let st := srcTy f
  let es := tyE st
  ((List.range 32).filter (fun i => (k.getM f.msk).getLsbD ((32 * b + i) / es))).map (fun i => valOf (tyFmt st 0) (k.elemOf f.a st (32 * b + i)).1)

/-- VQSC, scale form (R160, R59) -/
def execVqsc (g : Guard) (f : VA) (s : State) : Out :=
  slotDo g (fun s => withQ s fun ft =>
    let k := s.vc
    let es := tyE (srcTy f)
    .ok (s.flyV 3 f.d (fun l =>
      if l ≠ 0 then none
      else some ((List.range 4).map (fun b => (if b < 2 * es then (quantScale (ftQ ft) (ftCap ft) (qBlock k f b)).toNat else 0, b, 8)),
        (enLanes (k.getM f.msk)).any (fun l => k.vpsn f.a l))))) s

/-- VQSC, code form (R160) -/
def execVqscEnc (g : Guard) (f : VA) (s : State) : Out :=
  slotDo g (fun s => withQ s fun ft =>
    let k := s.vc
    let m := k.getM f.msk
    let st := srcTy f
    let es := tyE st
    let t := s.flyV 3 f.d (fun l =>
      if !m.getLsbD l then none
      else some ((List.range es).map (fun i =>
          let b := BitVec.ofNat 8 (subOf (laneOf (k.vec f.b) 0) ((l * es + i) / 32) 8)
          (quantCode ft (ftQ ft) true b (srAt s.sr (rankOf m l * es + i)) (valOf (tyFmt st 0) (k.elemOf f.a st (l * es + i)).1), f.part.toNat - 1 + i, 8)),
        k.vpsn f.a l || k.vpsn f.b 0))
    .ok (t.useDraws (ftRm ft) ((enLanes m).length * es))) s

/-! ## VCHK (R163) -/

/-- POISON naming the lowest poisoned lane of the list. -/
def noPoison (r : BitVec 6) (l : List Nat) (s : State) (e : Eff) : Eff :=
  match l.find? (fun l => s.vc.vpsn r l) with
  | some x => .trap (poisonLane 1 r x)
  | none => e

/-- VCHK (R163) -/
def execVchk (g : Guard) (f : VA) (s : State) : Out :=
  slotDo g (fun s => noPoison f.a (enLanes (s.vc.getM f.msk)) s (.ok s)) s

/-! ## Ring accesses (R161) -/

/-- The checks of VLDH and VSTH (R161): the element width in the slot, the chunk's bytes, its first scratchpad byte and its length. -/
def withChunk (f : VR) (cons : Bool) (s : State) (k : Ring → Nat → Nat → Nat → Eff) : Eff :=
  withRing 1 (rsH f.rs) (rsOff f.rs) s fun r =>
    let ef := hFmt r.h
    if ef ≠ 0 && !isVecFmt ef then .trap (formatTrap 1 ef.toNat)
    else
      let we := if ef = 0 then tyW f.ty else codeWidth ef
      let n := if ef = 0 then 256 else 64 * tyE f.ty * we / 8
      let size := hSize r.h
      let c := f.fn.toNat
      if size < (c + 1) * n && !(c = 0 && size < n) then .trap (handleTrap 1 (rsH f.rs))
      else k r we (hByte r.h (if cons then consSlot r (rsOff f.rs) else prodSlot r (rsOff f.rs)) + c * n) (min n size)

/-- VLDH's conversion of one element by the entry in force, exact where it widens (R161, R51, R149). -/
def vldhElem (ft : Word) (ef dst : BitVec 8) (draw x : Nat) : Nat := if ef = 0 then x else cvtElem ft ef dst draw x

/-- VLDH (R161) -/
def execVldh (g : Guard) (f : VR) (s : State) : Out :=
  slotDo g (fun s => withChunk f true s fun r we a len =>
    let ef := hFmt r.h
    let w := tyW f.ty
    let e := tyE f.ty
    (if tyIsQ f.ty then withQ s else if ef ≠ 0 then withFt 1 s else fun k => k 0) fun ft =>
      if hFill r.h ≤ effOff r (rsOff f.rs) then .stall 4 ((rsH f.rs).zeroExtend 8)
      else
        let k := s.vc
        let m := k.getM f.msk
        let blob := k.getScr a len
        let ew := if ef = 0 then 32 else we
        let es := if ef = 0 then 1 else e
        let inside (i : Nat) : Bool := (i + 1) * ew ≤ 8 * len
        let t := s.flyV 4 f.d (fun l =>
          if !m.getLsbD l then none
          else some ((List.range es).map (fun j =>
              let i := l * es + j
              (if inside i then vldhElem ft ef (tyFmt f.ty (ftQ ft)) (srAt s.sr (rankOf m l * es + j)) (elem blob ew i) else 0, j, if ef = 0 then 32 else w)),
            (List.range es).any (fun j => inside (l * es + j) && k.marked (a + (l * es + j) * ew / 8) (max 1 (ew / 8)))))
        .ok (if ef = 0 then t else t.useDraws (ftRm ft) ((List.range (64 * es)).countP (fun i => m.getLsbD (i / es) && inside i)))) s

/-- VSTH (R161) -/
def execVsth (g : Guard) (f : VR) (s : State) : Out :=
  slotDo g (fun s => withChunk f false s fun r we a len =>
    let ef := hFmt r.h
    let w := tyW f.ty
    let e := tyE f.ty
    let m := s.vc.getM f.msk
    noPoison f.d (enLanes m) s
      ((if tyIsQ f.ty then withQ s else if ef ≠ 0 then withFt 1 s else fun k => k 0) fun ft =>
        if hSlots r.h - hFill r.h ≤ effOff r (rsOff f.rs) then .stall 5 ((rsH f.rs).zeroExtend 8)
        else
          let k := s.vc
          let ew := if ef = 0 then 32 else we
          let es := if ef = 0 then 1 else e
          let old := k.getScr a len
          let n := min (64 * es) (8 * len / ew)
          let at_ (i : Nat) : Nat :=
            let l := i / es
            if !m.getLsbD l then elem old ew i
            else if ef = 0 then laneOf (k.vec f.d) l
            else cvtElem ft (tyFmt f.ty (ftQ ft)) ef (srAt s.sr (rankOf m l * es + i % es)) (subOf (laneOf (k.vec f.d) l) (i % es) w)
          let blob := packEl ew ((List.range n).map at_)
          let wrote (b : Nat) : Bool := (List.range 8).any (fun t => (8 * b + t) / ew < n && m.getLsbD ((8 * b + t) / ew / es))
          let k' := (List.range len).foldl (fun (k : Core) b => if wrote b then k.putScr (a + b) (blob / 2 ^ (8 * b)) 1 else k) k
          let t := s.setCore s.curCore k'
          .ok (if ef = 0 then t else t.useDraws (ftRm ft) ((List.range n).countP (fun i => m.getLsbD (i / es)))))) s

/-! ## Scratchpad accesses (R162) -/

/-- The byte offset of lane l: A + sext(IMM20, 20) + 4 l, in exact arithmetic (R36). -/
def vsAddr (f : VS) (a : Word) (l : Nat) : Int := a.toNat + f.imm.toInt + 4 * l

/-- The four bytes of a lane lie in granted regions. -/
def State.laneGranted (s : State) (x : Int) : Bool := 0 ≤ x && s.grantedRange s.curCore x.toNat 4

/-- An offset as TRAP.INFO takes it: its low bits. -/
def offBits (x : Int) : Nat := (BitVec.ofInt 64 x).toNat

/-- VLDS (R162) -/
def execVlds (g : Guard) (f : VS) (s : State) : Out :=
  slotDo g (fun s => withS f.a s fun a pa =>
    let k := s.vc
    let m := k.getM f.msk
    .ok (s.flyV 4 f.d (fun l =>
      let x := vsAddr f a l
      if !m.getLsbD l then none
      else if pa || x % 4 ≠ 0 || !s.laneGranted x then some ([(0, 0, 32)], true)
      else some ([(k.getScr x.toNat 4, 0, 32)], k.marked x.toNat 4)))) s

/-- VSTS (R162) -/
def execVsts (g : Guard) (f : VS) (s : State) : Out :=
  slotDo g (fun s => withS f.a s fun a pa =>
    let m := s.vc.getM f.msk
    let en := enLanes m
    let x := vsAddr f a
    match (if pa then en.head? else none) with
    | some l => .trap (poisonLane 1 f.d l)
    | none => noPoison f.d en s
      (if x 0 % 4 ≠ 0 then .trap (addrTrap .misalign 1 256 (offBits (x 0)))
       else match en.find? (fun l => !s.laneGranted (x l)) with
       | some l => .trap (addrTrap .extentMiss 1 256 (offBits (x l)))
       | none => .ok (s.modCore s.curCore (fun k => en.foldl (fun (k : Core) l => k.putScr (x l).toNat (laneOf (k.vec f.d) l) 4) k)))) s

end Sys2Proof.Machine
end

