-- ==== Sys2Proof/Machine/Matrix.lean ====
section
/-! DEFINITION. The M slot and the array (R164 to R177, R185 to R189): entries of the beat queue, weight planes, beats, drains and
their hem checks, the waits and the pivot replacement, and the delivery of asynchronous failures (R165). -/

namespace Sys2Proof.Machine

/-! ## Queueing (R164, R165) -/

/-- The RS operand of an M-slot form (R74). -/
def mRs (f : MF) : BitVec 12 := f.b ++ f.a

def tileNo (t : Bool) : Fin 2 := if t then 1 else 0

/-- An entry whose slot an advance of its own bundle has passed: the S slot comes before the M slot (R66), and the entry fixed its slot as the ring stood at
issue (R166, R82). -/
def Core.passedOver (k : Core) (r0 : Vector Ring 16) (e : MEnt) : MEnt :=
  match mentRing e with
  | none => e
  | some h =>
    let a := r0[h.toFin]
    let b := k.rings[h.toFin]
    (e.passed true h (hCons a.h) (b.adC - a.adC) (hSlots a.h)).passed false h (hProd a.h) (b.adP - a.adP) (hSlots a.h)

/-- Appends an entry to the beat queue of the current core. -/
def State.enqM (s : State) (op : MOp) : State :=
  s.modCore s.curCore (fun k =>
    let e : MEnt := { op := op, run := false, phase := k.ph.num, fail := false, seq := k.issued }
    let q := k.arr.queue ++ [match s.iss.rings0 with
      | some r => k.passedOver r e
      | none => e]
    { k with issued := k.issued + 1, arr := { k.arr with queue := q } })

/-- An M-slot form that takes an entry: refused in handler mode (R189), it waits for room in the queue (R83). -/
def mForm (opc : Nat) (s : State) (e : Eff) : Eff :=
  if s.inHandler then .trap (mkTrap .matrixInHandler (BitVec.ofNat 64 opc) 2)
  else if 16 ≤ s.vc.arr.queue.length then .stall 6 0 else e

/-- MLDW (R170) -/
def execMldw (g : Guard) (f : MF) (s : State) : Out :=
  slotDo g (fun s => mForm 0x01 s (withC 2 f.a s fun a =>
    if a.toNat % 64 ≠ 0 then .trap (addrTrap .misalign 2 512 a.toNat)
    else if 524288 ≤ a.toNat then .trap (addrTrap .extentMiss 2 512 a.toNat)
    else withFt 2 s fun ft => .ok (s.enqM (.mldw a.toNat (ftB ft) (ftScB ft) (ftCap ft))))) s

/-- MSWAP (R171) -/
def execMswap (g : Guard) (_f : MF) (s : State) : Out := slotDo g (fun s => mForm 0x02 s (.ok (s.enqM .mswap))) s

/-- The A bytes of a beat: 128 elements, with four scale bytes when A is scaled (R172). -/
def beatBytes (fmt : BitVec 8) (scA : Bool) : Nat := 16 * codeWidth fmt + (if scA then 4 else 0)

/-- MPUSH (R172) -/
def execMpush (g : Guard) (f : MF) (s : State) : Out :=
  slotDo g (fun s => mForm 0x03 s (withRing 2 (rsH (mRs f)) (rsOff (mRs f)) s fun r => withFt 2 s fun ft =>
    let rix := f.aux.toNat / 2 % 8
    let lc := if rix = 0 then 0 else (s.vc.loops.lc.toList.getD (rix - 1) 0).toNat
    if hSize r.h < beatBytes (ftA ft) (ftScA ft) then .trap (handleTrap 2 (rsH (mRs f)))
    else if hFmt r.h ≠ 0 && hFmt r.h ≠ ftA ft then .trap (formatTrap 2 (hFmt r.h).toNat)
    else .ok (s.enqM (.mpush (rsH (mRs f)) (consSlot r (rsOff (mRs f))) f.t ((f.row.toNat + lc) % 128) (f.aux.getLsbD 0) (ftA ft) (ftScA ft))))) s

/-- The bytes of one drained row (R173). -/
def drainRow (ef : BitVec 8) : Nat := if ef = 0 then 512 else 16 * codeWidth ef

/-- MDRAIN (R173): the entry in force travels with it where it converts. Into a ring of EFMT 0x00 it converts nothing and takes no entry: R56 and R173 do not
say whether it consumes one there, and the model makes no check (DESIGN CHOICE, log 122). -/
def execMdrain (g : Guard) (f : MF) (s : State) : Out :=
  slotDo g (fun s => mForm 0x04 s (withRing 2 (rsH (mRs f)) (rsOff (mRs f)) s fun r =>
    let ef := hFmt r.h
    let n := f.aux.toNat + 1
    let put (ft : Word) : Eff := .ok (s.enqM (.mdrain (rsH (mRs f)) (prodSlot r (rsOff (mRs f))) f.t f.row.toNat n ft))
    if hSize r.h < n * drainRow ef then .trap (handleTrap 2 (rsH (mRs f)))
    else if ef ≠ 0 && !isVecFmt ef then .trap (formatTrap 2 ef.toNat)
    else if ef = 0 then put 0 else withFt 2 s put)) s

/-- MZERO (R174) -/
def execMzero (g : Guard) (f : MF) (s : State) : Out := slotDo g (fun s => mForm 0x05 s (.ok (s.enqM (.mzero f.t)))) s

/-- MHEM (R175) -/
def execMhem (g : Guard) (f : MF) (s : State) : Out := slotDo g (fun s => mForm 0x06 s (.ok (s.enqM (.mhem (f.aux.truncate 2))))) s

/-- MTCLR (R174) -/
def execMtclr (g : Guard) (f : MF) (s : State) : Out := slotDo g (fun s => mForm 0x07 s (.ok (s.enqM (.mtclr ((mRs f).truncate 9))))) s

/-- MPERM (R188) -/
def execMperm (g : Guard) (f : MF) (s : State) : Out := slotDo g (fun s => mForm 0x14 s (.ok (s.enqM (.mperm f.t)))) s

/-! ## Waits and replacement (R186, R187) -/

def fsOp (fs : Word) : Nat := bits fs 2 0
def fsPend (fs : Word) : Bool := bit fs 30
def fsK (fs : Word) : Nat := bits fs 23 16

/-- MRES (R186): no effect unless a factorisation is stopped; in handler mode the sequencer resumes at once (R189). -/
def State.mres (s : State) (use : Bool) (v : Word) : State :=
  s.modCore s.curCore (fun k =>
    if !fsPend k.arr.fs then k
    else
      let fs := setBits k.arr.fs 30 30 0
      let fs' := if use then fs ||| 0x80000000 else fs
      let fa := k.arr.fact.map (fun x => { x with repl := if use then some (v.truncate 32) else none, hres := k.hs.isSome, halt := false })
      { k with arr := { k.arr with fs := fs', fact := fa } })

/-- MRES (R186) -/
def execMres (g : Guard) (f : MF) (s : State) : Out :=
  slotDo g (fun s => if f.aux.getLsbD 0 then withC 2 f.a s fun a => .ok (s.mres true a) else .ok (s.mres false 0)) s

/-- What MFWAIT waits for (R187). -/
def Core.fwaitDone (k : Core) : Bool :=
  let idle := fsOp k.arr.fs = 0 || fsPend k.arr.fs
  idle && (k.hs.isSome || k.arr.queue.isEmpty || (fsPend k.arr.fs && (match k.arr.queue.head? with
    | some e => e.op.isFact && e.run
    | none => false)))

/-- MFWAIT (R187) -/
def execMfwait (g : Guard) (_f : MF) (s : State) : Out :=
  slotDo g (fun s => if s.vc.fwaitDone then .ok s else .stall 8 0) s

/-! ## The head of the queue (R164 to R166) -/

/-- An asynchronous trap of the array (R165): slot M, INFO[10] where the cause has it. -/
def arrTrap (c : Cause) (info : Nat) : Trap := { (mkTrap c (BitVec.ofNat 64 info) 2) with async := true }

/-- The failure of the head entry: it stays, and the trap is on its way to the core. -/
def State.failM (s : State) (c : Fin 320) (t : Trap) : State :=
  s.modCore c (fun k =>
    let q := match k.arr.queue with
      | e :: l => { e with fail := true } :: l
      | [] => []
    { k with async := k.async ++ [{ t with phase := k.arr.queue.head?.map (·.phase) }], arr := { k.arr with queue := q } })

/-- Whether the trap of a failed entry has not yet been taken and left. -/
def Core.mTrapOpen (k : Core) : Bool := (k.async ++ k.held).any (fun t => t.slot == some 2)

/-- The head entry, when the array may act on it: not in handler mode (R189), not while slots are landed again (R380), and after a failure only once its trap has been dealt with. -/
def Core.mHead (k : Core) : Option MEnt :=
  if k.hs.isSome || k.heldAll || !k.ph.redo.isEmpty then none
  else match k.arr.queue with
  | e :: _ => if e.fail && k.mTrapOpen then none else some e
  | [] => none

/-- The head entry leaves. -/
def Core.popM (k : Core) : Core := { k with arr := { k.arr with queue := k.arr.queue.drop 1 } }

/-- The slot of a queued MPUSH lies among the filled slots, or that of a drain among the free ones (R166). -/
def slotFilled (h : Word) (slot : Nat) : Bool := decide ((slot + hSlots h - hCons h % hSlots h) % hSlots h < hFill h)
def slotFree (h : Word) (slot : Nat) : Bool := decide ((slot + hSlots h - hProd h % hSlots h) % hSlots h < hSlots h - hFill h)

/-! ## Weight planes (R170, R171, R175) -/

/-- Element b[k][j] of a plane as a value times its block factor; none when it has no term (R60, R61). -/
def Plane.at (p : Plane) (k j : Nat) : Option Val :=
  let v := valOf p.fmt ((p.vals[Fin.ofNat 128 k])[Fin.ofNat 128 j]).toNat
  if v.isZero then none
  else some (if p.scB then scaleVal v (BitVec.ofNat 8 ((p.scl[Fin.ofNat 128 j]).toNat / 2 ^ (8 * (k / 32)))) else v)

/-- The segments of an image from byte off of the weight buffer (R206), each checked (R170, R207); the error is the refused value. -/
def readSegs (wb : Mem) (fmt : BitVec 8) (cap : Nat) : Nat → Nat → Except Nat (List Seg)
  | 0, _ => .ok []
  | n + 1, off =>
    let rd (m : Nat) : Option (List Byte) := if off + m ≤ 524288 then some (leBytes m (Mem.read wb off m)) else none
    match decSeg rd with
    | .error v => .error v
    | .ok g =>
      if g.fmt ≠ fmt then .error g.fmt.toNat
      else if cap ≠ 0 && cap < g.terms then .error g.terms
      else match readSegs wb fmt cap n (off + g.len) with
        | .error v => .error v
        | .ok l => .ok (g :: l)

/-- The plane of 128 segments: values, term counts and the hem column (R167, R175). -/
def planeOf (fmt : BitVec 8) (scB : Bool) (cap : Nat) (l : List Seg) : Plane :=
  let col (j : Nat) : List Nat := (l[j]?).elim [] (·.col)
  let p : Plane :=
    { vals := Vector.ofFn (fun k => Vector.ofFn (fun j => BitVec.ofNat 32 ((col j.val).getD k.val 0))), fmt := fmt, scB := scB, cap := cap,
      scl := Vector.ofFn (fun j => (l[j.val]?).elim 0x7F7F7F7F (·.scl)),
      tg := Vector.ofFn (fun g => (List.range 16).foldl (fun a i => max a ((l[16 * g.val + i]?).elim 0 (·.terms))) 0),
      terms := Vector.ofFn (fun g => (List.range 16).foldl (fun a i => (col (16 * g.val + i)).foldl (fun a x => a + termsOf fmt x) a) 0),
      hem := Vector.replicate 128 0 }
  { p with hem := Vector.ofFn (fun k => (List.range 128).foldl (fun acc j => match p.at k.val j with
      | some v => rneF32 ((f32Val acc).add v)
      | none => acc) 0) }

/-- The first byte past an image as its segment headers stand (R206). -/
def imageEnd (wb : Mem) (w : Nat) : Nat → Nat → Nat
  | 0, off => off
  | n + 1, off => if 524288 < off + 24 then off else imageEnd wb w n (off + segBytes w (wb.get (off + 17)).toNat)

/-! ## Beats (R60, R168, R172, R175) -/

/-- One accumulation of R60: the products of a row of A values with a column of stationary values, in ascending k. -/
def accum (av : List Val) (b : Nat → Option Val) (acc : Lane) : Lane :=
  (av.zipIdx).foldl (fun acc x => match b x.2 with
    | some v => fmaF32 acc x.1 v
    | none => acc) acc

/-- The A row of a beat, scaled (R58). -/
def beatRow (k : Core) (a : Nat) (fmt : BitVec 8) (scA : Bool) : List Val :=
  let w := codeWidth fmt
  let blob := k.getScr a (16 * w)
  (List.range 128).map (fun i =>
    let v := valOf fmt (elem blob w i)
    if scA then scaleVal v (BitVec.ofNat 8 (k.getScr (a + 16 * w + i / 32) 1)) else v)

/-- The A-clocks of one beat: the largest τ of its groups (R167, R53). -/
def Plane.tau (p : Plane) (flat : Bool) : Nat :=
  let tm := ((fmtOf p.fmt).map Fmt.tmax).getD 0
  let t (g : Fin 8) : Nat := if flat then (if p.cap ≠ 0 && p.cap < tm then p.cap else tm) else p.tg[g]
  (List.finRange 8).foldl (fun a g => max a (max 1 ((t g + 1) / 2))) 0

/-- Flat timing is in force on a core (R30). -/
def State.flat (s : State) (c : Fin 320) : Bool := bit (s.core c).mode 4 || bit (s.core c).mode 5 || s.rec_

/-- The hem state after a beat into row r (R175). -/
def Hem.beat (h : Hem) (p : Plane) (av : List Val) (r : Nat) (acc : Bool) : Hem :=
  let i : Fin 128 := Fin.ofNat 128 r
  let hc (k : Nat) : Option Val := let v := f32Val (p.hem[Fin.ofNat 128 k])
                                   if v.isZero then none else some v
  { h with
    col := h.col.set i (accum av hc (if acc then h.col[i] else 0)),
    row := Vector.ofFn (fun j => accum av (fun k => p.at k j.val) h.row[j]),
    valid := h.valid ||| (1#128 <<< r),
    ovr := h.ovr || (h.epoch.isSome && !acc && h.hit.getLsbD r),
    hit := if h.epoch.isSome then h.hit ||| (1#128 <<< r) else h.hit }

/-- The array after a beat: row, hem, counters (R60, R168). -/
def MArr.beat (a : MArr) (av : List Val) (t : Bool) (r : Nat) (acc : Bool) (flat : Bool) : MArr :=
  let p := a.cur
  let ti := tileNo t
  let i : Fin 128 := Fin.ofNat 128 r
  let old := (a.tiles[ti])[i]
  let new : Row := Vector.ofFn (fun j => accum av (fun k => p.at k j.val) (if acc then old[j] else 0))
  { a with
    tiles := a.tiles.set ti ((a.tiles[ti]).set i new), hems := a.hems.set ti ((a.hems[ti]).beat p av r acc),
    beatc := a.beatc + BitVec.ofNat 64 (p.tau flat),
    termc := Vector.ofFn (fun g => a.termc[g] + BitVec.ofNat 48 p.terms[g]) }

/-- BEAT (R172, R168): once its slot holds landed data; a marked word raises POISON and leaves the beat at the head. -/
def execBeat (c : Fin 320) (s : State) : Out :=
  let k := s.core c
  .next (match k.mHead with
    | none => s
    | some e => match e.op with
      | .mpush h slot t row acc fmt scA =>
        let r := k.rings[h.toFin]
        if !(e.run || slotFilled r.h slot) then s
        else
          let a := hByte r.h slot
          let n := beatBytes fmt scA
          match (List.range ((a + n - 1) / 4 - a / 4 + 1)).find? (fun i => k.marks.has (a / 4 + i)) with
          | some i => s.failM c { (arrTrap .poison (2 + 8 * 3 + 1024 + (a / 4 + i) * 4 * 2 ^ 32)) with ring := some h }
          | none => s.setCore c { k.popM with arr := k.popM.arr.beat (beatRow k a fmt scA) t row acc (s.flat c) }
      | _ => s)

/-! ## Drains and hem checks (R173, R176, R177) -/

/-- The comparison of R176 in FP32. -/
def hemMismatch (tol : Lane) (x y : Lane) : Bool :=
  let a := f32Val x
  let b := f32Val y
  if a.isNan || b.isNan then !(a.isNan && b.isNan)
  else if a.isInf || b.isInf then !(Val.eq a b)
  else
    let m := (a.abs.max b.abs).max (.fin false 1 (-100))
    Val.lt false (f32Val (rneF32 ((f32Val tol).mul m))) (f32Val (rneF32 (a.sub b).abs))

/-- A rne-chain from +0 (R176, R184). -/
def chain (l : List Lane) : Lane := l.foldl addF32 0

/-- HEM.STAT after a mismatch (R177): column check, factorisation step, tile, index. -/
def hemStat (st : Word) (col fact t : Bool) (idx : Nat) : Word :=
  let st := setBits st 39 32 (min 255 (bits st 39 32 + 1))
  setBits (setBits st 15 12 (8 + 4 * b2n col + 2 * b2n fact + b2n t)) 7 0 idx

/-- A hem mismatch cancels the phase in which the core stands (R176, R381); on a stopped core it waits for resume (R404). -/
def State.hemFail (s : State) (c : Fin 320) (st : Word) : State :=
  let s := s.modCore c (fun k => { k with arr := { k.arr with hstat := st } })
  let info := BitVec.ofNat 64 (bits st 15 0)
  if (s.core c).stopped then (s.fireFirst c 3).holdFail c .hemEscalated info none else s.phaseFail c .hemEscalated info (some 3) true none

/-- The highest row written in the epoch, if any. -/
def Hem.top (h : Hem) : Option Nat := ((List.range 128).reverse).find? (fun i => h.hit.getLsbD i)

/-- The first mismatch of a drain of n rows from row r0: whether a column, and its index; and whether the column check ran (R176). -/
def drainCheck (a : MArr) (tol : Lane) (t : Bool) (r0 n : Nat) : Option (Bool × Nat) × Bool × Bool :=
  let h := a.hems[tileNo t]
  let tile := a.tiles[tileNo t]
  if a.hmode = 2 then (none, false, false)
  else
    let rowBad (i : Nat) : Bool := h.valid.getLsbD (r0 + i) && hemMismatch tol (chain (tile[Fin.ofNat 128 (r0 + i)]).toList) h.col[Fin.ofNat 128 (r0 + i)]
    match (List.range n).find? rowBad with
    | some i => (some (false, r0 + i), false, false)
    | none =>
      match h.top with
      | none => (none, false, false)
      | some top =>
        if !(a.hmode = 0 && h.epoch == some 0 && top < r0 + n) then (none, false, false)
        else if h.ovr then (none, false, true)
        else
          let colBad (j : Nat) : Bool :=
            hemMismatch tol (chain ((List.range (top + 1)).map (fun i => (tile[Fin.ofNat 128 i])[Fin.ofNat 128 j]))) h.row[Fin.ofNat 128 j]
          match (List.range 128).find? colBad with
          | some j => (some (true, j), false, false)
          | none => (none, true, false)

/-- The tolerance HEM.TOL (R34). -/
def Core.tol (k : Core) : Lane := BitVec.ofNat 32 (bits (k.sys.get 0x018) 31 0)

/-- The bytes of the drained rows (R173). -/
def drainBytes (s : State) (ef : BitVec 8) (ft : Word) (tile : Tile) (r0 n : Nat) : Nat :=
  let w := if ef = 0 then 32 else codeWidth ef
  packEl w ((List.range (n * 128)).map (fun i =>
    let x := ((tile[Fin.ofNat 128 (r0 + i / 128)])[Fin.ofNat 128 (i % 128)]).toNat
    if ef = 0 then x else cvtElem ft 0x01 ef (srAt s.sr i) x))

/-- MDRAIN_EXECUTE (R173, R176) -/
def execMdrainExecute (c : Fin 320) (s : State) : Out :=
  let k := s.core c
  .next (match k.mHead with
    | none => s
    | some e => match e.op with
      | .mdrain h slot t r0 n ft =>
        let r := k.rings[h.toFin]
        if !(e.run || slotFree r.h slot) then s
        else match drainCheck k.arr k.tol t r0 n with
        | (some (col, i), _, _) => s.hemFail c (hemStat k.arr.hstat col false t i)
        | (none, colDone, skipped) =>
          let ef := hFmt r.h
          let ti := tileNo t
          let x := k.arr.hems[ti]
          let x := { x with valid := bvOf 128 (fun i => x.valid.getLsbD i && !(r0 ≤ i && i < r0 + n)), epoch := if colDone then none else x.epoch }
          let k := k.popM
          let k := { k with arr := { k.arr with hems := k.arr.hems.set ti x, hstat := if skipped then k.arr.hstat ||| 0x800 else k.arr.hstat } }
          let k := k.putScr (hByte r.h slot) (drainBytes s ef ft k.arr.tiles[ti] r0 n) (n * drainRow ef)
          let s := { (s.setCore c k) with cur := .core c }
          if ef = 0 then s else s.useDraws (ftRm ft) (128 * n)
      | _ => s)

/-! ## The other entries (R171, R174, R175, R188) -/

/-- A tile's epoch ends and its valid bits clear (R175). -/
def Hem.close (h : Hem) : Hem := { h with valid := 0, epoch := none }

/-- P is a permutation of 0 .. 127. -/
def permOk (p : Vector (BitVec 8) 128) : Bool := (List.range 128).all (fun i => p.toList.contains (BitVec.ofNat 8 i))

/-- M_SLOT_ENTRY_EXECUTE: MSWAP, MZERO, MHEM, MTCLR and MPERM at the head of the queue (R171, R174, R175, R188). -/
def execMSlotEntryExecute (c : Fin 320) (s : State) : Out :=
  let k := s.core c
  let a := k.popM.arr
  let put (a : MArr) : State := s.setCore c { k with arr := a }
  .next (match k.mHead with
    | none => s
    | some e => match e.op with
      | .mswap => put { a with cur := a.back, back := a.cur }
      | .mzero t =>
        let h : Hem := { Hem.reset with epoch := some a.hmode }
        put { a with tiles := a.tiles.set (tileNo t) Tile.zero, hems := a.hems.set (tileNo t) h }
      | .mhem m => put { a with hmode := m, hstat := setBits a.hstat 17 16 m.toNat }
      | .mtclr m =>
        put { a with termc := Vector.ofFn (fun g => if m.getLsbD g.val then 0 else a.termc[g]), beatc := if m.getLsbD 8 then 0 else a.beatc }
      | .mperm t =>
        if !permOk a.perm then s.failM c (arrTrap .format (1024 + 2 * 4096))
        else
          let ti := tileNo t
          let old := a.tiles[ti]
          put { a with tiles := a.tiles.set ti (Vector.ofFn (fun i => old[Fin.ofNat 128 (a.perm[i]).toNat])), hems := a.hems.set ti (a.hems[ti]).close }
      | .mldw _ _ _ _ => s
      | .mpush _ _ _ _ _ _ _ => s
      | .mdrain _ _ _ _ _ _ => s
      | .fact _ _ _ _ _ _ _ _ _ => s)

/-! ## Asynchronous traps (R165, R193, R185) -/

/-- ASYNC_TRAP_DELIVERY: the oldest asynchronous failure on its way reaches the core, at the bundle about to issue (R99, R165); in handler
mode it is held until HRET (R372), on a stopped core until resume (R404). -/
def execAsyncTrapDelivery (c : Fin 320) (s : State) : Out :=
  let k := s.core c
  .next (match k.async with
    | [] => s
    | t :: l => if k.stopped then s else (s.setCore c { k with async := l }).takeTrapUe c t)

end Sys2Proof.Machine
end

