-- ==== Sys2Proof/Machine/Factor.lean ====
section
/-! DEFINITION. The factorisations (R178 to R186, R393, R394): issue of MLU, MCHOL, MQR and MTRSM, and one step of the factorisation
sequencer with its arithmetic, its clocks and terms, its hem check, its stop and its completion. -/

namespace Sys2Proof.Machine

/-! ## Issue (R178) -/

/-- An order or column count outside 1 .. 128 (R178). -/
def badOrder (v : Word) : Bool := v = 0 || 128 < v.toNat

/-- MLU (R178, R179) -/
def execMlu (g : Guard) (f : MF) (s : State) : Out :=
  slotDo g (fun s => mForm 0x10 s (withC 2 f.a s fun n =>
    if badOrder n then .trap (shapeTrap 2 0) else .ok (s.enqM (.fact 1 f.t n.toNat 0 false false false 0 0)))) s

/-- MCHOL (R178, R180) -/
def execMchol (g : Guard) (f : MF) (s : State) : Out :=
  slotDo g (fun s => mForm 0x11 s (withC 2 f.a s fun n =>
    if badOrder n then .trap (shapeTrap 2 0) else .ok (s.enqM (.fact 2 f.t n.toNat 0 false false false 0 0)))) s

/-- MQR (R178, R181) -/
def execMqr (g : Guard) (f : MF) (s : State) : Out :=
  slotDo g (fun s => mForm 0x12 s (withC 2 f.a s fun n =>
    let hn : BitVec 4 := f.aux.truncate 4
    if badOrder n then .trap (shapeTrap 2 0)
    else withRing 2 hn 0 s fun r =>
      if hSize r.h < 4 * n.toNat then .trap (handleTrap 2 hn)
      else if 1 < (hFmt r.h).toNat then .trap (formatTrap 2 (hFmt r.h).toNat)
      else .ok (s.enqM (.fact 3 f.t n.toNat 0 false false false hn 0)))) s

/-- MTRSM (R178, R182) -/
def execMtrsm (g : Guard) (f : MF) (s : State) : Out :=
  slotDo g (fun s => mForm 0x13 s (withC 2 f.a s fun n => withC 2 f.b s fun c =>
    if badOrder n || badOrder c then .trap (shapeTrap 2 0)
    else .ok (s.enqM (.fact 4 f.t n.toNat c.toNat (f.aux.getLsbD 0) (f.aux.getLsbD 1) (f.aux.getLsbD 2) 0 0)))) s

/-! ## Tiles and FP32 steps -/

def tAt (t : Tile) (i j : Nat) : Lane := (t[Fin.ofNat 128 i])[Fin.ofNat 128 j]

/-- A tile with the elements that f gives replaced. -/
def tGen (t : Tile) (f : Nat → Nat → Option Lane) : Tile :=
  Vector.ofFn (fun i => Vector.ofFn (fun j => (f i.val j.val).getD (t[i])[j]))

/-- mag(x) = x[30:0] (R178). -/
def mag (x : Lane) : Nat := x.toNat % 2 ^ 31

/-- rne(x − y × z), fused (R178). -/
def fnma (x y z : Lane) : Lane := rneF32 ((f32Val x).sub ((f32Val y).mul (f32Val z)))
def fma (x y z : Lane) : Lane := fmaF32 x (f32Val y) (f32Val z)
def subF32 (x y : Lane) : Lane := rneF32 ((f32Val x).sub (f32Val y))
def negF32 (x : Lane) : Lane := rneF32 (f32Val x).neg

/-- 0 .. n − 1 from k on. -/
def upto (k n : Nat) : List Nat := (List.range (n - k)).map (· + k)

/-- Product rows of a step (R393): the stationary values with their columns. -/
abbrev PRows := List (List (Lane × Nat))

/-- What a step gives: a stop with nothing written, or the tiles, P, the tau of MQR, the product rows, and the comparisons
(sum, checksum) of R184. -/
inductive FStep where
  | stop
  | done (tiles : Vector Tile 2) (perm : Vector (BitVec 8) 128) (tau : Lane) (rows : PRows) (cmp : List (Lane × Lane))

/-- Step k of MLU (R179, R184). -/
def luStep (a : MArr) (t : Fin 2) (n k : Nat) (repl : Option Lane) : FStep :=
  let a0 := a.tiles[t]
  let p := match repl with
    | some _ => k
    | none => (upto k n).foldl (fun b i => if mag (tAt a0 b k) < mag (tAt a0 i k) then i else b) k
  let piv := repl.getD (tAt a0 p k)
  if mag piv = 0 then .stop
  else
    let sw (i : Nat) : Nat := if i = k then p else if i = p then k else i
    let a1 := tGen a0 (fun i j => if i < n && j < n then some (if i = k && j = k then piv else tAt a0 (sw i) j) else none)
    let l := (List.range n).map (fun i => if k < i then divF32 (tAt a1 i k) piv else 0)
    let a2 := tGen a1 (fun i j =>
      if k < i && i < n && j < n then (if j = k then some (l.getD i 0) else if k < j then some (fnma (tAt a1 i j) (l.getD i 0) (tAt a1 k j)) else none)
      else none)
    let cols := upto (k + 1) n
    let pf (i : Fin 128) : BitVec 8 := a.perm[Fin.ofNat 128 (if i.val < n then sw i.val else i.val)]
    .done (a.tiles.set t a2) (Vector.ofFn pf) 0 (cols.map (fun _ => cols.map (fun j => (tAt a1 k j, j))))
      (cols.map (fun i => (chain (cols.map (tAt a2 i)), fnma (chain (cols.map (tAt a1 i))) (l.getD i 0) (chain (cols.map (tAt a1 k))))))

/-- Step k of MCHOL (R180, R184). -/
def cholStep (a : MArr) (t : Fin 2) (n k : Nat) (repl : Option Lane) : FStep :=
  let a0 := a.tiles[t]
  let dot (i : Nat) : Lane := (List.range k).foldl (fun x j => fnma x (tAt a0 i j) (tAt a0 k j)) (tAt a0 i k)
  let d0 := dot k
  let d := repl.getD d0
  if !Val.lt false (.fin false 0 0) (f32Val d) then .stop
  else
    let lkk := sqrtF32 d
    let rows := upto (k + 1) n
    let ts := (List.range n).map (fun i => if k < i then dot i else d0)
    let a1 := tGen a0 (fun i j => if j = k && k ≤ i && i < n then some (if i = k then lkk else divF32 (ts.getD i 0) lkk) else none)
    let all := upto k n
    let sum := chain (d0 :: rows.map (fun i => ts.getD i 0))
    let chk := (List.range k).foldl (fun h j => fnma h (tAt a0 k j) (chain (all.map (fun i => tAt a0 i j)))) (chain (all.map (fun i => tAt a0 i k)))
    .done (a.tiles.set t a1) a.perm 0 ((List.range k).map (fun j => all.map (fun _ => (tAt a0 k j, k)))) (if k = 0 then [] else [(sum, chk)])

/-- Step k of MQR (R181, R184). -/
def qrStep (a : MArr) (t : Fin 2) (n k : Nat) : FStep :=
  let a0 := a.tiles[t]
  let below := upto (k + 1) n
  let all := upto k n
  if below.all (fun i => mag (tAt a0 i k) = 0) then .done a.tiles a.perm 0 [] []
  else
    let al := tAt a0 k k
    let s := all.foldl (fun s i => fma s (tAt a0 i k) (tAt a0 i k)) 0
    let r := sqrtF32 s
    let be := if al.getLsbD 31 then r else negF32 r
    -- an underflow of s to +0 gives NaN whatever alpha is, as R181 says in words (log 117)
    let tau := if mag be = 0 then 0x7FC00000 else rneF32 (Val.div ((f32Val be).sub (f32Val al)) (f32Val be))
    let de := subF32 al be
    let v := (List.range n).map (fun i => if k < i then divF32 (tAt a0 i k) de else 0)
    let vi (i : Nat) : Lane := v.getD i 0
    let q := (List.range n).map (fun j => if k < j then mulF32 tau (below.foldl (fun w i => fma w (vi i) (tAt a0 i j)) (tAt a0 k j)) else 0)
    let qj (j : Nat) : Lane := q.getD j 0
    let a1 := tGen a0 (fun i j =>
      if k ≤ i && i < n && k ≤ j && j < n then
        some (if j = k then (if i = k then be else vi i) else if i = k then subF32 (tAt a0 k j) (qj j) else fnma (tAt a0 i j) (vi i) (qj j))
      else none)
    let bigV := below.foldl (fun x i => addF32 x (vi i)) 0x3F800000
    .done (a.tiles.set t a1) a.perm tau
      ((all.map (fun i => (tAt a0 i k, k))) :: below.flatMap (fun j => let r := below.map (fun i => (vi i, j)); [r, r]))
      (if (f32Val tau).isZero then []
       else below.map (fun j => (chain (all.map (fun i => tAt a1 i j)), fnma (chain (all.map (fun i => tAt a0 i j))) (qj j) bigV)))

/-- Step q of MTRSM (R182, R184). -/
def trsmStep (a : MArr) (t : Fin 2) (n c : Nat) (low unit trn : Bool) (q : Nat) (repl : Option Lane) : FStep :=
  let tt := a.tiles[t]
  let o : Fin 2 := if t = 0 then 1 else 0
  let b0 := a.tiles[o]
  let row (m : Nat) : Nat := if low != trn then m else n - 1 - m
  let tp (i m : Nat) : Lane := if trn then tAt tt m i else tAt tt i m
  let i := row q
  let piv := repl.getD (tp i i)
  if !unit && mag piv = 0 then .stop
  else
    let prev := (List.range q).map row
    let xs := (List.range c).map (fun j => prev.foldl (fun x m => fnma x (tp i m) (tAt b0 m j)) (tAt b0 i j))
    let b1 := tGen b0 (fun r j => if r = i && j < c then some (if unit then xs.getD j 0 else divF32 (xs.getD j 0) piv) else none)
    let rowSum (m : Nat) : Lane := chain ((List.range c).map (tAt b0 m))
    .done (a.tiles.set o b1) a.perm 0 (prev.map (fun m => (List.range c).map (fun j => (tp i m, j))))
      (if q = 0 then [] else [(chain xs, prev.foldl (fun h m => fnma h (tp i m) (rowSum m)) (rowSum i))])

/-! ## Clocks and terms (R393) -/

/-- The A-clocks of a step. -/
def stepClocks (flat : Bool) (rows : PRows) : Nat :=
  rows.foldl (fun a r => a + max 1 (((if flat then 13 else r.foldl (fun m x => max m (termsOf 0x01 x.1.toNat)) 0) + 1) / 2)) 2

/-- The terms that a step retires in group g. -/
def stepTerms (rows : PRows) (g : Nat) : Nat :=
  rows.foldl (fun a r => r.foldl (fun a x => if x.2 / 16 = g then a + termsOf 0x01 x.1.toNat else a) a) 0

/-! ## Growth (R183) -/

/-- The largest element by magnitude of those listed. -/
def maxMagOf (l : List Lane) : Lane := BitVec.ofNat 32 (l.foldl (fun a x => max a (mag x)) 0)

/-- D of R183. -/
def growthD (op : BitVec 3) (t : Tile) (n : Nat) : Lane :=
  let d := if op = 2 then maxMagOf ((List.range n).map (fun i => tAt t i i))
    else maxMagOf ((List.range n).flatMap (fun i => (List.range n).map (tAt t i)))
  if 0x7F800000 < d.toNat then 0x7FC00000 else d

/-- The final G of R183. -/
def growthG (op : BitVec 3) (t : Tile) (n : Nat) (d : Lane) : Lane :=
  let x := if op = 2 then maxMagOf ((List.range n).flatMap (fun i => (List.range (i + 1)).map (tAt t i)))
    else maxMagOf ((List.range n).flatMap (fun i => (upto i n).map (tAt t i)))
  let v := f32Val x
  if v.isNan || (f32Val d).isNan then 0x7FC00000
  else if v.isZero then 0
  else rneF32 ((if op = 2 then v.mul v else v).div (f32Val d))

/-! ## The sequencer (R178, R184, R185, R189, R394) -/

/-- FS as a factorisation starts (R178). -/
def fsStart (op : BitVec 3) (t : Bool) (n : Nat) (low unit trn : Bool) : Word :=
  BitVec.ofNat 64 (op.toNat + 256 * n + 2 ^ 26 * b2n t + 2 ^ 27 * b2n low + 2 ^ 28 * b2n unit + 2 ^ 29 * b2n trn)

/-- The entry at the head starts: FS, P, G, epochs, the tau slot (R175, R178, R179, R181, R183). -/
def Core.factStart (k : Core) (e : MEnt) : Core :=
  match e.op with
  | .fact op t n c low unit trn h _ =>
    let a := k.arr
    let ti := tileNo t
    let hems := a.hems.set ti (a.hems[ti]).close
    let oi : Fin 2 := if ti = 0 then 1 else 0
    let hems := if op = 4 then hems.set oi (hems[oi]).close else hems
    let slot := prodSlot k.rings[h.toFin] 0
    let e := { e with run := true, op := .fact op t n c low unit trn h slot }
    { k with arr := { a with fs := fsStart op t n low unit trn, perm := if op = 1 then MArr.reset.perm else a.perm,
                             g := if op = 4 then a.g else growthD op a.tiles[ti] n, hems := hems, queue := e :: a.queue.drop 1,
                             fact := some { repl := none, hres := false, halt := false, free := op != 3 } } }
  | _ => k

/-- The end of the last step (R178, R181, R183): G, FS, the tau slot, and the entry leaves. -/
def Core.factEnd (k : Core) (op : BitVec 3) (t : Bool) (n : Nat) (h : BitVec 4) : Core :=
  let k := if op = 3 then
      let r := k.rings[h.toFin]
      if hFill r.h < hSlots r.h then { k with rings := k.rings.set h.toFin { r with h := hAdvP r.h 1, adP := r.adP + 1 } } else k
    else k
  let a := k.popM.arr
  { k with arr := { a with fs := a.fs &&& 0x80000000, fact := none, g := if op = 4 then a.g else growthG op a.tiles[tileNo t] n a.g } }

/-- FACTORISATION_STEP: the entry at the head starts, or makes its next step (R178 to R185, R393). At a pre-emption stop an entry that has not begun stays
queued; the step in hand ends, and but for the last one the sequencer then stops (R190, R394). An MQR that waits for its tau slot is at a boundary, and so is a factorisation that handler mode holds (R189, R395). -/
def execFactorisationStep (c : Fin 320) (s : State) : Out :=
  let k := s.core c
  .next (match k.arr.queue with
  | [] => s
  | e :: _ =>
    match e.op with
    | .fact op t n cc low unit trn h slot =>
      match k.arr.fact with
      | none => if k.hs.isSome || k.heldAll || e.run || k.task.any (fun t => t.stopping.isSome || t.frozen) then s else s.setCore c (k.factStart e)
      | some fa =>
        if !e.run || k.heldAll || !k.ph.redo.isEmpty || fsPend k.arr.fs then s
        else if k.hs.isSome && !fa.hres then
          (if fa.halt then s.setCore c { k with arr := { k.arr with fs := setBits k.arr.fs 30 30 1 } } else s)
        else if !fa.free && !slotFree (k.rings[h.toFin]).h slot then
          (if fa.halt then s.setCore c { k with arr := { k.arr with fs := setBits k.arr.fs 30 30 1 } } else s)
        else
          let a := { k.arr with fact := some { fa with repl := none, free := true } }
          let step := fsK a.fs
          let r := match op.toNat with
            | 1 => luStep a (tileNo t) n step fa.repl
            | 2 => cholStep a (tileNo t) n step fa.repl
            | 3 => qrStep a (tileNo t) n step
            | _ => trsmStep a (tileNo t) n cc low unit trn step fa.repl
          match r with
          | .stop =>
            let tr := arrTrap (if op = 2 then .notPd else .zeroPivot) (step + 1024 + 4096 * b2n t)
            s.setCore c { k with async := k.async ++ [{ tr with phase := some e.phase }], arr := { a with fs := setBits a.fs 30 30 1 } }
          | .done tiles perm tau rows cmp =>
            let clk := stepClocks (s.flat c) rows
            let a1 := { a with tiles := tiles, perm := perm, beatc := a.beatc + BitVec.ofNat 64 clk,
                               termc := Vector.ofFn (fun g => a.termc[g] + BitVec.ofNat 48 (stepTerms rows g.val)),
                               fs := setBits a.fs 23 16 (step + 1) }
            let k1 := { k with arr := a1 }
            let k1 := if op = 3 then k1.putScr (hByte (k.rings[h.toFin]).h slot + 4 * step) tau.toNat 4 else k1
            if a.hmode ≠ 2 && cmp.any (fun x => hemMismatch k.tol x.1 x.2) then
              let k2 := k1.popM
              let k2 := { k2 with arr := { k2.arr with fs := k2.arr.fs &&& 0x80000000, fact := none } }
              (s.setCore c k2).hemFail c (hemStat a.hstat false true t step)
            else s.setCore c (if n ≤ step + 1 then k1.factEnd op t n h
              else if fa.halt then { k1 with arr := { k1.arr with fs := setBits k1.arr.fs 30 30 1 } } else k1)
    | _ => s)

end Sys2Proof.Machine
end

