-- ==== Sys2Proof/Machine/Engines.lean ====
section
/-! DEFINITION. The engine commands (R192 to R215): their checks at issue, the queue and its classes, one unit of a command, completion
and tags, contributions to the latch table, watch reports of landings (R413, R441). -/

namespace Sys2Proof.Machine

/-! ## Issue (R192, R193, R198) -/

/-- An X-slot form that takes an entry waits for room in the queue (R83). -/
def xForm (s : State) (e : Eff) : Eff := if 16 ≤ s.vc.eng.queue.length then .stall 7 0 else e

/-- The ring operand RS of an X-slot form: handle and offset. -/
def withX (f : XF) (s : State) (k : Ring → Eff) : Eff := withRing 3 f.h f.ofs.toNat s k
/-- The second ring operand RS2, in IMM16[11:0] (R198). -/
def xH2 (f : XF) : BitVec 4 := f.imm.truncate 4
def xO2 (f : XF) : Nat := f.imm.toNat / 16 % 256
def withX2 (f : XF) (s : State) (k : Ring → Eff) : Eff := withRing 3 (xH2 f) (xO2 f) s k

/-- A command of the current core as its form names it; operands are added by each form. -/
def State.cmd (s : State) (op : BitVec 8) (f : XF) : Cmd :=
  let k := s.vc
  { op := op, fn := f.fn, h := f.h, slot := 0, eff := effOff (s.ringAt f.h) f.ofs.toNat, h2 := xH2 f, slot2 := 0,
    eff2 := effOff (s.ringAt (xH2 f)) (xO2 f), a := 0, b := 0, c := 0, imm := f.imm.toNat, fmt := f.fmt, tag := f.tag, ft := 0,
    phase := k.ph.num, seq := k.issued, pc := (if k.hs.isSome then k.fr.pc + 2 ^ 32 else k.fr.rtn), scyc := k.fr.scyc,
    ss := s.superstep s.curCore, run := false, unit := 0, moved := 0, fin := false, acc := [], got := 0 }

/-- The command enters the queue and its tag's count rises (R192, R196). -/
def State.enqX (s : State) (m : Cmd) : State :=
  s.modCore s.curCore (fun k =>
    let e := k.eng
    let n := e.ntag.set m.tag.toFin (e.ntag[m.tag.toFin] + 1)
    { k with issued := k.issued + 1, eng := { e with queue := e.queue ++ [m], ntag := n } })

/-- An address or alignment fault of the X slot at issue. -/
def xTrap (s : State) (c : Cause) (fl a : Nat) : Eff := .trap { (addrTrap c 3 fl a) with tensor := s.hndOf s.curCore a }

/-- A virtual range checked at its first and last byte (R24, R193). -/
def withRange (s : State) (a n : Nat) (need : Need) (e : Eff) : Eff :=
  if n = 0 then e
  else match s.exCheck s.curCore a n need with
    | some (c, fl, x) => xTrap s c fl x
    | none => e

/-- The first end of a range that hits no extent, or whose extent `bad` refuses. -/
def State.exEnds (s : State) (c : Fin 320) (a n : Nat) (bad : BitVec 128 → Bool) : Option (Cause × Nat × Nat) :=
  let k := s.core c
  match k.hit a, k.hit (a + n - 1) with
  | none, _ => some (.extentMiss, 0, a)
  | _, none => some (.extentMiss, 4096, a + n - 1)
  | some i, some j =>
    if bad k.e[i] then some (.extentPerm, 0, a) else if bad k.e[j] then some (.extentPerm, 4096, a + n - 1) else none

/-- The rights of an XSTORE's target: WR, clear of SK and CV (R202). -/
def storeBad (e : BitVec 128) : Bool := !exWr e || exSk e || exCv e

def withEnds (s : State) (a n : Nat) (bad : BitVec 128 → Bool) (e : Eff) : Eff :=
  match s.exEnds s.curCore a n bad with
  | some (c, fl, x) => xTrap s c fl x
  | none => e

/-- The codes of a converting command are vector types, and the entry in force is checked (R56, R161, R199). -/
def withXcvt (s : State) (fmt ef : BitVec 8) (k : Word → Eff) : Eff :=
  if fmt ≠ 0 && !codeKnown fmt then .trap (formatTrap 3 fmt.toNat)
  else if fmt = 0 || fmt = ef then k 0
  else if !isVecFmt fmt then .trap (formatTrap 3 fmt.toNat)
  else if !isVecFmt ef then .trap (formatTrap 3 ef.toNat)
  else withFt 3 s k

/-- XCOPY (R199) -/
def execXcopy (g : Guard) (f : XF) (s : State) : Out :=
  slotDo g (fun s => xForm s (withC 3 f.a s fun a => withX f s fun r => withXcvt s f.fmt (hFmt r.h) fun ft =>
    let m := { (s.cmd 0x01 f) with a := a, ft := ft }
    if 255 < f.imm.toNat || hSlots r.h ≤ f.imm.toNat then .trap (handleTrap 3 f.h)
    else if a.toNat % 64 ≠ 0 then xTrap s .misalign 0 a.toNat
    else if f.fn.getLsbD 0 then .ok (s.enqX m)
    else withRange s a.toNat (copySrcLen m r.h * (m.imm + 1)) .read (.ok (s.enqX m)))) s

/-- The first row of an XCOPYS whose range fails its check. -/
def State.rowsBad (s : State) (a b : Word) (c rows : Nat) : Option (Cause × Nat × Nat) :=
  (List.range rows).findSome? (fun r => s.exCheck s.curCore (a + BitVec.ofNat 64 r * b).toNat c .read)

/-- XCOPYS (R200). Under FMT 0x00 the bytes are copied as they stand, so A, B and C need the alignment of one byte (DEDUCED, log 147). -/
def execXcopys (g : Guard) (f : XF) (s : State) : Out :=
  slotDo g (fun s => xForm s (withC 3 f.a s fun a => withC 3 f.b s fun b => withC 3 f.c s fun c => withX f s fun r =>
    withXcvt s f.fmt (hFmt r.h) fun ft =>
    let m := { (s.cmd 0x02 f) with a := a, b := b, c := c, ft := ft }
    let el := if f.fmt = 0 then 1 else max 1 (codeWidth f.fmt / 8)
    let l := rowLen f.fmt (hFmt r.h) c.toNat
    let q := if l = 0 then 0 else hSize r.h / l
    if a.toNat % el ≠ 0 || b.toNat % el ≠ 0 || c.toNat % el ≠ 0 then xTrap s .misalign 0 a.toNat
    else if c = 0 then .trap (shapeTrap 3 0)
    else if q = 0 || hSlots r.h < (m.imm + q) / q then .trap (handleTrap 3 f.h)
    else if f.fn.getLsbD 0 then .ok (s.enqX m)
    else match s.rowsBad a b c.toNat (m.imm + 1) with
      | some (cause, fl, x) => xTrap s cause fl x
      | none => .ok (s.enqX m))) s

/-- XSTORE (R202) -/
def execXstore (g : Guard) (f : XF) (s : State) : Out :=
  slotDo g (fun s => xForm s (withC 3 f.a s fun a => withX f s fun r => withXcvt s f.fmt (hFmt r.h) fun ft =>
    let m := { (s.cmd 0x03 f) with a := a, ft := ft }
    if a.toNat % 64 ≠ 0 then xTrap s .misalign 0 a.toNat
    else withEnds s a.toNat (storeLen f.fmt r.h * (m.imm + 1)) storeBad (.ok (s.enqX m)))) s

/-- The number of the cloaked buffer that holds a virtual address of a core's extents. -/
def State.bufOf (s : State) (c : Fin 320) (a : Nat) : Option Nat :=
  match (s.core c).hit a with
  | none => none
  | some i => (s.cloakAt (exPa (s.core c).e[i] a)).map (·.1)

/-- Enrols a buffer in the open phase, or removes it (R203, R204). -/
def Core.enrol (k : Core) (i : Option Nat) (put : Bool) : Core :=
  match i with
  | none => k
  | some i => { k with ph := { k.ph with enrol := if put then k.ph.enrol.filter (· != i) ++ [i] else k.ph.enrol.filter (· != i) } }

/-- XPUB: enrols at its issue (R203). -/
def execXpub (g : Guard) (f : XF) (s : State) : Out :=
  slotDo g (fun s => xForm s (withC 3 f.a s fun a => withEnds s a.toNat 1 (fun _ => false)
    (.ok ((s.enqX { (s.cmd 0x04 f) with a := a }).modCore s.curCore (fun k => k.enrol (s.bufOf s.curCore a.toNat) true))))) s

/-- XPUB_NOW: irrevocable from its issue (R203, R128). -/
def execXpubNow (g : Guard) (f : XF) (s : State) : Out :=
  slotDo g (fun s => xForm s (withC 3 f.a s fun a => withEnds s a.toNat 1 (fun _ => false)
    (.ok ((s.enqX { (s.cmd 0x04 f) with a := a, fn := 1 }).modCore s.curCore (fun k => { k with ph := { k.ph with irrev := true } }))))) s

/-- XDROP (R204): the enrolment ends at its execution. -/
def execXdrop (g : Guard) (f : XF) (s : State) : Out :=
  slotDo g (fun s => xForm s (withC 3 f.a s fun a => withEnds s a.toNat 1 (fun _ => false)
    (.ok (s.enqX { (s.cmd 0x05 f) with a := a })))) s

/-- The offset of an image in the weight buffer (R207). -/
def withWb (c : Word) (e : Eff) : Eff :=
  if c.toNat % 64 ≠ 0 then .trap (addrTrap .misalign 3 512 c.toNat)
  else if 524288 ≤ c.toNat then .trap (addrTrap .extentMiss 3 512 c.toNat) else e

/-- The bytes of one dense column (R207). -/
def colLen (fmt : BitVec 8) : Nat := 16 * codeWidth fmt

/-- XWLD (R207) -/
def execXwld (g : Guard) (f : XF) (s : State) : Out :=
  slotDo g (fun s => xForm s (withC 3 f.a s fun a => withC 3 f.b s fun b => withC 3 f.c s fun c =>
    let m := { (s.cmd 0x06 f) with a := a, b := b, c := c }
    if f.fmt ≠ 0x40 && !isBFmt f.fmt then .trap (formatTrap 3 f.fmt.toNat)
    else if a.toNat % 64 ≠ 0 || b.toNat % 64 ≠ 0 then xTrap s .misalign 0 (if a.toNat % 64 ≠ 0 then a.toNat else b.toNat)
    else withWb c (
      if f.fmt = 0x40 then withRange s a.toNat b.toNat .read (.ok (s.enqX m))
      else match s.rowsBad a b (colLen f.fmt) 128 with
        | some (cause, fl, x) => xTrap s cause fl x
        | none => .ok (s.enqX m)))) s

/-- A scratchpad operand: aligned and inside the operator's grant (R193, R208, R209). -/
def withGrant (s : State) (a n al : Nat) (e : Eff) : Eff :=
  if a % al ≠ 0 then .trap (addrTrap .misalign 3 256 a)
  else if !s.grantedRange s.curCore a n then .trap (addrTrap .extentMiss 3 256 a) else e

/-- XGATH (R208) -/
def execXgath (g : Guard) (f : XF) (s : State) : Out :=
  slotDo g (fun s => xForm s (withC 3 f.a s fun a => withC 3 f.c s fun c => withX f s fun _ =>
    if !isBFmt f.fmt then .trap (formatTrap 3 f.fmt.toNat)
    else withWb c (withGrant s a.toNat 64 64 (.ok (s.enqX { (s.cmd 0x07 f) with a := a, c := c }))))) s

/-- The rings and the width of an XPERM (R209). -/
def withPerm (f : XF) (s : State) (k : Ring → Word → Eff) : Eff :=
  withC 3 f.a s fun a => withX f s fun r => withX2 f s fun r2 =>
    if codeWidth f.fmt = 0 then .trap (formatTrap 3 f.fmt.toNat)
    else if hSize r.h ≠ hSize r2.h then .trap (handleTrap 3 (xH2 f)) else k r a

/-- XPERM_TR (R209) -/
def execXpermTr (g : Guard) (f : XF) (s : State) : Out :=
  slotDo g (fun s => xForm s (withPerm f s fun r a =>
    if a = 0 || slotEls r.h f.fmt % a.toNat ≠ 0 then .trap (shapeTrap 3 0) else .ok (s.enqX { (s.cmd 0x08 f) with a := a }))) s

/-- XPERM_IDX (R209) -/
def execXpermIdx (g : Guard) (f : XF) (s : State) : Out :=
  slotDo g (fun s => xForm s (withPerm f s fun r a =>
    withGrant s a.toNat (2 * slotEls r.h f.fmt) 2 (.ok (s.enqX { (s.cmd 0x08 f) with a := a, fn := 1 })))) s

/-- XFTL (R210) -/
def execXftl (g : Guard) (f : XF) (s : State) : Out :=
  slotDo g (fun s => xForm s (withC 3 f.a s fun a =>
    if a.toNat % 64 ≠ 0 then xTrap s .misalign 0 a.toNat
    else withRange s a.toNat 1152 .read (.ok (s.enqX { (s.cmd 0x09 f) with a := a })))) s

/-- A floating or integer vector type (R161, R211): not a binary8 code. -/
def isFtFmt (c : BitVec 8) : Bool := 0x01 ≤ c.toNat && c.toNat ≤ 0x09

/-- XFTE (R211) -/
def execXfte (g : Guard) (f : XF) (s : State) : Out :=
  slotDo g (fun s => xForm s (withC 3 f.b s fun b => withX f s fun r => withX2 f s fun r2 =>
    if !isFtFmt (hFmt r.h) then .trap (formatTrap 3 (hFmt r.h).toNat)
    else if !isFtFmt (hFmt r2.h) then .trap (formatTrap 3 (hFmt r2.h).toNat)
    else if slotEls r2.h (hFmt r2.h) < b.toNat then .trap (handleTrap 3 (xH2 f))
    else if slotEls r.h (hFmt r.h) < b.toNat then .trap (handleTrap 3 f.h)
    else withFt 3 s fun ft => .ok (s.enqX { (s.cmd 0x0A f) with b := b, ft := ft }))) s

/-- The checks that XQNT and XQNT.FIX share (R212). -/
def xquant (f : XF) (s : State) (m : Cmd) : Eff :=
  withC 3 f.b s fun b => withX f s fun r => withX2 f s fun r2 => withFt 3 s fun ft =>
    let e := hFmt r2.h
    if 3 < e.toNat || e = 0 then .trap (formatTrap 3 e.toNat)
    else if ftQ ft = 0 then .trap (formatTrap 3 0)
    else if b = 0 || 8192 < b.toNat then .trap (shapeTrap 3 0)
    else if slotEls r2.h e < b.toNat then .trap (handleTrap 3 (xH2 f))
    else if hSize r.h < 33 * ((b.toNat + 31) / 32) then .trap (handleTrap 3 f.h)
    else .ok (s.enqX { m with b := b, ft := ft })

/-- XQNT (R212) -/
def execXqnt (g : Guard) (f : XF) (s : State) : Out := slotDo g (fun s => xForm s (xquant f s (s.cmd 0x0B f))) s

/-- XQNT_FIX (R212) -/
def execXqntFix (g : Guard) (f : XF) (s : State) : Out :=
  slotDo g (fun s => xForm s (withC 3 f.a s fun a =>
    if 255 < a.toNat then .trap (formatTrap 3 (bits a 15 8)) else xquant f s { (s.cmd 0x0B f) with a := a, fn := 1 })) s

/-- XHIST (R213) -/
def execXhist (g : Guard) (f : XF) (s : State) : Out :=
  slotDo g (fun s => xForm s (withC 3 f.b s fun b => withX f s fun r =>
    if !(0x04 ≤ f.fmt.toNat && f.fmt.toNat ≤ 0x09) then .trap (formatTrap 3 f.fmt.toNat)
    else if slotEls r.h f.fmt < b.toNat then .trap (handleTrap 3 f.h)
    else .ok (s.enqX { (s.cmd 0x0C f) with b := b }))) s

/-- XHLAT (R214) -/
def execXhlat (g : Guard) (f : XF) (s : State) : Out := slotDo g (fun s => xForm s (.ok (s.enqX (s.cmd 0x0D f)))) s

/-- XDFNC (R215) -/
def execXdfnc (g : Guard) (f : XF) (s : State) : Out :=
  slotDo g (fun s => xForm s (withC 3 f.a s fun a => withC 3 f.b s fun b =>
    if a.toNat % 64 ≠ 0 || b.toNat % 64 ≠ 0 || b = 0 then xTrap s .misalign 0 (if a.toNat % 64 ≠ 0 then a.toNat else b.toNat)
    else withEnds s a.toNat b.toNat (fun _ => false) (.ok (s.enqX { (s.cmd 0x0E f) with a := a, b := b })))) s

/-- XWAIT (R196) -/
def execXwait (g : Guard) (f : XF) (s : State) : Out :=
  slotDo g (fun s =>
    if (List.finRange 16).all (fun t => !f.imm.getLsbD t.val || s.vc.eng.ntag[t] == 0) then .ok s
    else .stall 9 (f.imm.truncate 8)) s

/-- XFILL (R201) -/
def execXfill (g : Guard) (f : XF) (s : State) : Out :=
  slotDo g (fun s => xForm s (withC 3 f.a s fun a => withX f s fun _ =>
    if f.fmt ≠ 0 && !isVecFmt f.fmt then .trap (formatTrap 3 f.fmt.toNat) else .ok (s.enqX { (s.cmd 0x10 f) with a := a }))) s

/-! ## Classes (R192) -/

/-- The beat queue has drained as far as a hard pre-emption asks: it is empty, its head is a factorisation that is stopped or has not begun, or an
entry that waits for a ring slot while no engine command can go on (R385, R190, R394; DEDUCED, log 120). -/
def Core.beatsOver (k : Core) : Bool :=
  k.arr.over || match k.arr.queue with
  | [] => true
  | e :: _ => match e.op with
    | .mpush h slot _ _ _ _ _ => !e.run && !slotFilled k.rings[h.toFin].h slot && k.engStuck
    | .mdrain h slot _ _ _ _ => !e.run && !slotFree k.rings[h.toFin].h slot && k.engStuck
    | _ => false

/-- ENGINE_DISPATCH (R192): a core frozen by a hard pre-emption passes no command on once its beats are over (R385). -/
def execEngineDispatch (c : Fin 320) (s : State) : Out :=
  let k := s.core c
  .next (match k.eng.queue with
  | [] => s
  | m :: l =>
    let q := k.eng.cls[m.cls]
    if 2 ≤ q.length || k.heldAll || (k.task.any (·.frozen) && k.beatsOver) then s
    else s.setCore c { k with eng := { k.eng with queue := l, cls := k.eng.cls.set m.cls (q ++ [m]) } })

/-! ## One unit of a command -/

/-- What one unit of a command gives: it waits, it is done with the command as it stands after it, or it fails (R193). -/
inductive URes where
  | wait (s : State)
  | done (s : State) (m : Cmd)
  | fail (s : State) (t : Trap)

/-- A failure at execution: TRAP.INFO[11] is set where the layout has it (R193). -/
def engTrap (s : State) (c : Fin 320) (cause : Cause) (fl a : Nat) : Trap :=
  { (addrTrap cause 3 (2048 + fl) a) with async := true, tensor := s.hndOf c a }
def engFormat (v : Nat) : Trap := { (mkTrap .format (BitVec.ofNat 64 (v % 256 + 2048 + 4096 * 3)) 3) with async := true }
def engPoison (h : BitVec 4) (a : Nat) : Trap :=
  { (mkTrap .poison (BitVec.ofNat 64 (3 + 8 * 3 + 2048 + a / 4 * 4 * 2 ^ 32)) 3) with async := true, ring := some h }

/-- A range reaches a weight-store group that is refreshing (R325). -/
def State.wsWaits (s : State) (c : Fin 320) (l : List (Nat × Nat)) : Bool :=
  l.any (fun x => x.2 != 0 && (List.range ((x.1 + x.2 - 1) / 64 - x.1 / 64 + 1)).any (fun i => s.wsBusy (s.exOf c (max x.1 ((x.1 / 64 + i) * 64))).2))

/-- A virtual address of a list of ranges whose line is a given window line. -/
def State.winVa (s : State) (c : Fin 320) (l : List (Nat × Nat)) (line : Nat) : Option Nat :=
  l.findSome? (fun x => if x.2 = 0 then none else
    ((List.range ((x.1 + x.2 - 1) / 64 - x.1 / 64 + 1)).map (fun i => max x.1 ((x.1 / 64 + i) * 64))).find? (fun va => (s.exOf c va).2 / 64 * 64 == line))

/-- A unit from s to t is done as `u`, or waits while its stamps do not fit a spill table (R336). -/
def State.fits (s t u : State) (m : Cmd) : URes := match s.spillOver t with
  | some d => .wait (s.askSpill d)
  | none => .done u m

/-- Reads of windows are requests (R426, R427): the unit goes on once every line it reads has its answer; u tells its requests apart. It waits, too,
while its stamps do not fit a spill table (R336). -/
def State.winGate (s : State) (c : Fin 320) (u : BitVec 64) (l : List (Nat × Nat)) (go : State → URes) : URes :=
  let ls := s.winLines c l
  if s.wsWaits c l then .wait s else
  let req (s : State) (a : Nat) : Option FReq :=
    s.plat.reqs.find? (fun r => r.unit == .core c && r.kind == 3 && r.mask == u && r.addr == a && !r.gone)
  let sig (a : Nat) (d : BitVec 12) (r : Nat) : Trap :=
    { (mkTrap .signalAccess (sigInfo (peerAddrOf a) d r) 3) with async := true, tensor := (s.winVa c l a).bind (s.hndOf c) }
  let drop (s : State) : State :=
    { s with plat := { s.plat with reqs := s.plat.reqs.filter (fun r => !(r.unit == .core c && r.kind == 3 && r.mask == u && !r.gone)) } }
  match ls.findSome? (fun a => match req s a with
      | some r => if r.st = 2 then some (sig a r.dev r.reason.toNat) else none
      | none => if s.noRoute a then some (sig a (s.devOf a) 0) else none) with
  | some t => .fail (drop s) t
  | none =>
    if ls.all (fun a => (req s a).any (fun r => r.st == 1)) then
      (match go s with
        | .done t m => s.fits t (drop t) m
        | .fail s t => .fail (drop s) t
        | .wait s => .wait s)
    else
      .wait (ls.foldl (fun s a => if (req s a).isSome then s else
        s.sendReq { unit := .core c, dev := s.devOf a, addr := a, kind := 3, op := 0, n := 64, tick := s.tb.toNat,
                    uid := ((s.core c).task.map (·.inv)).getD 0, osq := ((s.core c).task.map (·.osq)).getD 0,
                    mask := u, data := 0, blocked := false, st := 0, reason := 0 } false) s)

/-- The bytes of ranges, read one after the other. -/
def State.engReads (s : State) (c : Fin 320) (m : Cmd) : List (Nat × Nat) → Except Trap (Mem × State)
  | [] => .ok ([], s)
  | x :: l => match s.engRead c (m.ss, m.seq) (x.2 + 1) x.1 x.2 with
    | .error t => .error t
    | .ok (b, s) => match State.engReads s c m l with
      | .error t => .error t
      | .ok (y, s) => .ok (Mem.write y x.1 (leNat b) x.2, s)

/-- Reads by an engine (R193): the ranges `chk` are checked, and what the ranges `l` hold is read. -/
def State.engGets (s : State) (c : Fin 320) (m : Cmd) (chk l : List (Nat × Nat)) (go : Mem → State → URes) : URes :=
  match chk.findSome? (fun x => s.exCheck c x.1 x.2 .read) with
  | some (cause, fl, x) => .fail s (engTrap s c cause fl x)
  | none => s.winGate c (BitVec.ofNat 64 m.seq) l (fun s => match s.engReads c m l with
    | .error t => .fail s t
    | .ok (x, s) => go x s)

/-- A checked read of n bytes at a by an engine (R193). -/
def State.engGet (s : State) (c : Fin 320) (m : Cmd) (a n : Nat) (go : List Byte → State → URes) : URes :=
  if n = 0 then go [] s else s.engGets c m [(a, n)] [(a, n)] (fun x s => go (leBytes n (Mem.read x a n)) s)

/-! ### Copies (R199 to R201, R380) -/

/-- The refetch descriptor of a slot that a copy landed in a phased ring; another class's landing ends the old one (R380). -/
def Core.describe (k : Core) (m : Cmd) (p i : Nat) : Core :=
  let l := k.ph.refetch.filter (fun f => !(f.h == m.h && f.slot == p))
  let x := k.rings[m.h.toFin].h
  let f : Refetch := { h := m.h, geo := hGeo x, slot := p, cmd := { m with acc := [], got := 0, moved := 0 }, unit := i }
  let l' := if m.cls = 0 && hPh x then l.filter (fun f => f.cmd.seq ≤ m.seq) ++ [f] ++ l.filter (fun f => m.seq < f.cmd.seq) else l
  { k with ph := { k.ph with refetch := l' } }

/-- The first byte of the row of rank q that the rows before it, which have been read, do not hold. -/
def Cmd.skip (m : Cmd) (q : Nat) : Nat :=
  match ((List.range q).reverse).find? (fun p => m.acc.get (Cmd.failKey (m.rank (m.imm + 1) p)) != 1) with
  | some p => min m.c.toNat (m.c.toNat - (q - p) * m.stride)
  | none => 0

/-- One unit of the read-ahead of an XCOPYS: the new bytes of a row, or 4 KiB of them, the row at the lowest address first (R360). -/
def State.readAheadStep (s : State) (c : Fin 320) (u : BitVec 64) (m : Cmd) : URes :=
  let row := m.c.toNat
  let q := m.got / row
  let r := m.rank (m.imm + 1) q
  let o := max (m.got % row) (m.skip q)
  let n := min (row - o) 4096
  if n = 0 then .done s { m with got := (q + 1) * row } else
  s.winGate c u [((m.rowAt r + o) % 2 ^ 64, n)] (fun s => match s.copyRead c m (m.rowAt r) row (m.rowAt r + o) n with
    | .error t => .fail s t
    | .ok (l, bad, s) =>
      .done s (if bad then { m with acc := m.acc.set (Cmd.failKey r) 1, got := (q + 1) * row }
               else { m with acc := Mem.write m.acc (m.aheadAt (m.imm + 1) r + o) (leNat l) n, got := q * row + o + n }))

/-- One unit of a copy: a piece of its next slot lands, and with the last piece the slot is done (R192, R194, R199 to R201). -/
def State.copyStep (s : State) (c : Fin 320) (u : BitVec 64) (m : Cmd) : URes :=
  let k := s.core c
  let h := k.rings[m.h.toFin].h
  if m.op = 0x02 && m.readAhead then s.readAheadStep c u m
  else match k.outSlot m m.h m.unit with
  | none => .wait s
  | some p =>
    let m := k.begin m
    let n := m.pieceLen h m.unit m.moved
    s.winGate c u (m.srcAt h m.unit m.moved n) (fun s => match s.landPiece c m m.unit (hByte h p) m.moved n with
      | .error t => .fail s t
      | .ok s =>
        if m.moved + n < m.slotSrc h m.unit then .done s { m with moved := m.moved + n }
        else
          let s := s.modCore c (fun k => (k.describe m p m.unit).slotDone m.h p true)
          .done s { m with unit := m.unit + 1, moved := 0, fin := m.unit + 1 == m.units k })

/-- One unit of a refetch (R380): the first descriptor that waits lands its slot again; the second part says whether that ended it. -/
def State.redoStep (s : State) (c : Fin 320) (f : Refetch) : URes :=
  let h := (s.core c).rings[f.h.toFin].h
  let m := f.cmd
  let n := m.pieceLen h f.unit m.moved
  s.winGate c (BitVec.ofNat 64 m.seq) (m.srcAt h f.unit m.moved n) (fun s => match s.landPiece c m f.unit (hByte h f.slot) m.moved n with
    | .error t => .fail s t
    | .ok s => .done s { m with moved := m.moved + n, fin := m.slotSrc h f.unit ≤ m.moved + n })

/-! ### Stores through cloaks (R202, R205, R413) -/

/-- One landed byte: the back copy takes it; a byte of a second core of the same context between two flips is a race (R205, R363). -/
def State.landByte (s : State) (c : Fin 320) (m : Cmd) (va : Nat) (b : Byte) : State :=
  let pa := (s.exOf c va).2
  match s.cloakAt pa with
  | none => s
  | some (i, w) =>
    let off := pa - clName w
    let tag := (s.core c).tilectx.toNat
    let other := s.cwrit.find? (fun e => e.1 = i && e.2.1 = off && e.2.2.1 != c.val && e.2.2.2 == tag)
    let s := { s with mem := Mem.set s.mem (cloakKey w pa false) b,
                      cwrit := if s.cwrit.any (fun e => e.1 = i && e.2.1 = off) then s.cwrit else s.cwrit ++ [(i, off, c.val, tag)] }
    s.modCore c (fun k =>
      let landed := if k.ph.landed.contains (i, off) then k.ph.landed else k.ph.landed ++ [(i, off)]
      let races := match other with
        | some o => k.ph.races ++ [{ mkTrap .memrace (BitVec.ofNat 64 (8 * 4 + 64 * 4 + 1024 * o.2.2.1 + va / 64 % 2 ^ 42 * 2 ^ 22)) 0 with tensor := s.hndOf c va }]
        | none => k.ph.races
      if m.phase = k.ph.num then { k with ph := { k.ph with landed := landed, races := races } } else k)

/-- The name of the bundle that issued a command (R400). -/
def Cmd.name (k : Core) (m : Cmd) : List Byte :=
  let hm := 2 ^ 32 ≤ m.pc
  leBytes 8 m.scyc.toNat ++ leBytes 2 k.fr.img.toNat ++ leBytes 2 (m.pc % 2 ^ 32 / 32) ++ [if hm then 1 else 0, 0, 0, 0]

/-- The matches of a landed chunk (R413, R443): each is logged; one with STOP holds the copy engine until it reaches the core. `rest` bytes of the command
leave after the chunk, unless a STOP holds them back (log 131). -/
def State.watchLand (s : State) (c : Fin 320) (m : Cmd) (va : Nat) (l : List Byte) (rest : Nat) : State :=
  let k0 := s.core c
  if (List.range 4).all (fun i => !bit (k0.sys.get (0x48 + i)) 0) then s
  else (List.range ((va + l.length - 1) / 16 - va / 16 + 1)).foldl (fun s j =>
    let a := (va / 16 + j) * 16
    let lo := max va a
    let hi := min (va + l.length) (a + 16)
    let mask := BitVec.ofNat 16 (2 ^ (hi - a) - 2 ^ (lo - a))
    let data := leNat ((l.drop (lo - va)).take (hi - lo)) * 2 ^ (8 * (lo - a))
    let pa := (s.exOf c lo).2
    (List.range 4).foldl (fun s i =>
      let k := s.core c
      let h := k.watchHit i 3 pa mask k.tilectx
      if h = 0 then s
      else
        let top := ((List.range 16).foldl (fun t b => if h.getLsbD b then b else t) 0)
        let stop := k.eng.watch.isSome || bit (k.sys.get (0x48 + i)) 6
        let after := min 12288 (va + l.length - (a + top + 1) + (if stop then 0 else rest))
        let s := s.logWatch c (watchRec s.tb pa i 1 h c.val (m.cls.val + 1) k.tilectx (m.name k) data after)
        let s := if bit (k.sys.get (0x48 + i)) 7 then s.fireSrc 0 c.val else s
        if bit (k.sys.get (0x48 + i)) 6 && k.eng.watch.isNone then
          s.modCore c (fun k => { k with eng := { k.eng with watch := some (false, BitVec.ofNat 2 i, h) } })
        else s) s) s

/-- A landed line is touched at its home under the tag of its back copy (R334, R335, R342). -/
def State.landLine (s : State) (c : Fin 320) (va : Nat) : State :=
  let (e, pa) := s.exOf c va
  match s.cloakAt pa with
  | some (_, w) => s.mscTouch (s.slotOf c) (cloakKey w (pa / 64 * 64) false) (exNa e) (!exNa e)
  | none => s

/-- The checks of one chunk of an XSTORE: its extents at both ends, and every byte in the front range of a cloak (R193, R202). -/
def State.chunkBad (s : State) (c : Fin 320) (a n : Nat) : Option (Cause × Nat × Nat) :=
  match s.exEnds c a n storeBad with
  | some x => some x
  | none => ((List.range ((a + n - 1) / 64 - a / 64 + 1)).find? (fun i =>
      let va := max a ((a / 64 + i) * 64)
      (s.cloakAt (s.exOf c va).2).isNone)).map (fun i => (.extentPerm, 0, max a ((a / 64 + i) * 64)))

/-- One piece of an XSTORE: what one slot gives one 4 KiB chunk. The chunk is checked and written once its last piece is read. -/
def State.storeStep (s : State) (c : Fin 320) (m : Cmd) : URes :=
  let k := s.core c
  let h := k.rings[m.h.toFin].h
  let per := storeLen m.fmt h
  let total := per * (m.imm + 1)
  let i := m.moved / per
  match k.inSlot m m.h i with
  | none => .wait s
  | some p =>
    let m := k.begin m
    let off := m.moved % per
    let n := min (per - off) (4096 - m.moved % 4096)
    let conv := m.fmt ≠ 0 && m.fmt ≠ hFmt h
    let ws := if conv then codeWidth (hFmt h) else 8
    let wd := if conv then codeWidth m.fmt else 8
    let e0 := off * 8 / wd
    let cnt := n * 8 / wd
    let at_ := hByte h p
    let b0 := at_ + e0 * ws / 8
    let b1 := at_ + ((e0 + cnt) * ws - 1) / 8
    match (List.range (b1 / 4 - b0 / 4 + 1)).find? (fun j => k.marks.has (b0 / 4 + j)) with
    | some j => .fail s (engPoison m.h ((b0 / 4 + j) * 4))
    | none =>
      let els := (List.range cnt).map (fun j => elem (k.getScr at_ (hSize h)) ws (e0 + j))
      let src := leBytes (cnt * ws / 8) (packEl ws els)
      let r : List Byte × State := if conv then
          let x := s.cvtBytes c m.ft (hFmt h) m.fmt cnt src (List.replicate src.length false)
          (x.1, x.2.2)
        else (src, s)
      let s := r.2
      let acc := Mem.write m.acc (m.moved % 4096) (leNat r.1) n
      let moved := m.moved + n
      let org := (m.moved / 4096) * 4096
      let full := moved % 4096 = 0 || moved = total
      let len := moved - org
      let va := m.a.toNat + org
      let after (s : State) : URes :=
        let s := if moved % per = 0 then s.modCore c (fun k => k.slotDone m.h p false) else s
        .done s { m with moved := moved, acc := if full then [] else acc, fin := moved == total }
      if !full then after s
      else match s.chunkBad c va len with
        | some (cause, fl, x) => .fail s (engTrap s c cause fl x)
        | none =>
          let bytes := leBytes len (Mem.read acc 0 len)
          let t := bytes.zipIdx.foldl (fun s b => s.landByte c m (va + b.2) b.1) s
          let t := (List.range ((va + len - 1) / 64 - va / 64 + 1)).foldl (fun s i => s.landLine c (max va ((va / 64 + i) * 64))) t
          match s.spillOver t with
          | some d => .wait (s.askSpill d)
          | none => after (t.watchLand c m va bytes (total - moved))

/-! ### The cloak agent (R203, R204) -/

/-- An earlier XSTORE of the core to buffer i has not landed. -/
def State.storesTo (s : State) (c : Fin 320) (m : Cmd) (i : Nat) : Bool :=
  let k := s.core c
  (k.earlier m).any (fun x => x.op == 0x03 &&
    (let n := storeLen x.fmt k.rings[x.h.toFin].h * (x.imm + 1)
     (List.range ((x.a.toNat + n - 1) / 4096 - x.a.toNat / 4096 + 1)).any (fun j => s.bufOf c (max x.a.toNat ((x.a.toNat / 4096 + j) * 4096)) == some i)))

/-- One unit of the cloak agent. XDROP removes the buffer from the enrolment of its phase, but for an XPUB issued after it (R204). -/
def State.cloakStep (s : State) (c : Fin 320) (m : Cmd) : URes :=
  match (s.core c).hit m.a.toNat with
  | none => .fail s (engTrap s c .extentMiss 0 m.a.toNat)
  | some _ =>
    match s.bufOf c m.a.toNat with
    | none => .fail s (engTrap s c .extentPerm 0 m.a.toNat)
    | some i =>
      if m.op = 0x04 && !m.fn.getLsbD 0 then .done s { m with run := true, fin := true }
      else if s.storesTo c m i then .wait s
      else if m.op = 0x04 then
        match s.publish c 3 i with
        | .error t => .fail s { t with async := true }
        | .ok s => .done s { m with run := true, fin := true }
      else
        let s := s.revert ((s.cwrit.filter (fun e => e.1 = i)).map (fun e => (e.1, e.2.1)))
        let s := { s with cores := s.cores.map (fun (k : Core) => if k.ph.landed = [] then k else
          { k with ph := { k.ph with landed := k.ph.landed.filter (fun e => e.1 != i) } }) }
        let later (k : Core) : Bool := (k.eng.queue ++ k.eng.cls.toList.flatten).any (fun x =>
          m.seq < x.seq && x.op == 0x04 && !x.fn.getLsbD 0 && x.phase == m.phase && s.bufOf c x.a.toNat == some i)
        let s := s.modCore c (fun (k : Core) => if k.ph.num == m.phase && !later k then k.enrol (some i) false else k)
        .done s { m with run := true, fin := true }

/-! ### Weights (R206 to R208) -/

/-- Writes a segment at an offset of the weight buffer, or fails past its end (R207). -/
def State.putSeg (s : State) (c : Fin 320) (off : Nat) (l : List Byte) : Except Trap State :=
  if 524288 < off + l.length then .error { (addrTrap .extentMiss 3 (2048 + 512) off) with async := true }
  else .ok (s.modCore c (fun k => { k with wbuf := Mem.write k.wbuf off (leNat l) l.length }))

/-- A dense XWLD whose stride is negative or shorter than a column first reads its columns in the order of their addresses (R360; log 120). -/
def Cmd.colsGather (m : Cmd) : Bool := m.falls || m.stride < colLen m.fmt
def Cmd.colsAhead (m : Cmd) : Bool := m.colsGather && m.got < 128
def Cmd.colAt (m : Cmd) (j : Nat) : Nat := (m.a + BitVec.ofNat 64 j * m.b).toNat

/-- One unit of an XWLD: its next column segment is checked or encoded, and written (R207). -/
def State.wldStep (s : State) (c : Fin 320) (m : Cmd) : URes :=
  let put (s : State) (l : List Byte) (last : Bool) : URes :=
    match s.putSeg c (m.c.toNat + m.moved) l with
    | .error t => .fail s t
    | .ok s => .done s { m with run := true, unit := m.unit + 1, moved := m.moved + l.length, fin := last }
  let n := colLen m.fmt
  let dense (s : State) (l : Nat) : URes := put s (encSeg m.fmt 0x7F7F7F7F (elems l (codeWidth m.fmt) 128)) (m.unit == 127)
  if m.fmt = 0x40 then
    let left := m.b.toNat - m.moved
    if left = 0 then .done s { m with run := true, fin := true }
    else
      let a := m.a.toNat + m.moved
      s.engGet c m a (min left 64) (fun hd s =>
        let ef := hd.getD 16 0
        let n := if isBFmt ef then segBytes (codeWidth ef) (hd.getD 17 0).toNat else 64
        s.engGet c m a (min left n) (fun l s =>
          match decSeg (fun n => if n ≤ l.length then some (l.take n) else none) with
          | .error v => .fail s (engFormat v)
          | .ok g => put s (l.take g.len) (left == g.len)))
  else if m.colsAhead then
    let j := m.rank 128 m.got
    let o := if m.got = 0 then 0 else n - m.stride
    s.engGets c m [(m.colAt j, n)] [(m.colAt j + o, n - o)] (fun x s =>
      .done s { m with run := true, acc := Mem.write m.acc (m.aheadAt 128 j + o) (Mem.read x (m.colAt j + o) (n - o)) (n - o), got := m.got + 1 })
  else if m.colsGather then dense s (Mem.read m.acc (m.aheadAt 128 m.unit) n)
  else s.engGet c m (m.colAt m.unit) n (fun l s => dense s (leNat l))

/-- The first field of an XGATH descriptor that R208 refuses. -/
def gathBad (d : List Byte) : Option Nat :=
  let nk := leNat ((d.drop 32).take 2)
  let nc := leNat ((d.drop 34).take 2)
  match (d.drop 36).find? (· != 0) with
  | some b => some b.toNat
  | none => if nk = 0 || 128 < nk then some nk else if nc = 0 || 128 < nc then some nc else none

/-- Writes the segments of an image one after the other. -/
def State.putImage (s : State) (c : Fin 320) : List (List Byte) → Nat → Except Trap State
  | [], _ => .ok s
  | l :: r, off => match s.putSeg c off l with
    | .error t => .error t
    | .ok s => State.putImage s c r (off + l.length)

/-- The image of an XGATH and its count of non-zero elements, from the elements placed so far (R206, R208). -/
def Cmd.gathImage (m : Cmd) : List (List Byte) × Nat :=
  let col (j : Nat) : List Nat := (List.range 128).map (fun k => Mem.read m.acc (4 * (k * 128 + j)) 4)
  ((List.range 128).map (fun j => encSeg m.fmt 0x7F7F7F7F (col j)),
   (List.range 128).foldl (fun n j => n + ((col j).filter (fun x => !isZeroCode m.fmt x)).length) 0)

/-- Where what an XGATH has read is kept before its image: the index of the value of element (k, j), one more, and the two pointers of row k. -/
def gathIdx (k j : Nat) : Nat := 2 ^ 20 + 8 * (k * 128 + j)
def gathPtr (k : Nat) : Nat := 2 ^ 21 + 8 * k

/-- Ranges in ascending order, those that touch one line joined: each line is read once. -/
def lineRuns : List (Nat × Nat) → List (Nat × Nat)
  | [] => []
  | x :: l => match lineRuns l with
    | [] => [x]
    | y :: r => if y.1 / 64 ≤ (x.1 + x.2 - 1) / 64 then (x.1, max (x.1 + x.2) (y.1 + y.2) - x.1) :: r else x :: y :: r

/-- One CSR row of one of an XGATH's three arrays, and after the last row the image and the report (R208). All of RPTR is read first, then CIDX, then the
values that are placed: the lines of each array are performed in ascending order, and each array names what is read of the next (R360; log 132). -/
def State.gathStep (s : State) (c : Fin 320) (m : Cmd) : URes :=
  let k := s.core c
  let d := leBytes 64 (k.getScr m.a.toNat 64)
  let f (o n : Nat) : Nat := leNat ((d.drop o).take n)
  let w := codeWidth m.fmt
  match gathBad d with
  | some v => .fail s (engFormat v)
  | none =>
    let nk := f 32 2
    let nc := f 34 2
    let cf := f 28 4
    let row := m.unit % nk
    let x0 := Mem.read m.acc (gathPtr row) 4
    let x1 := Mem.read m.acc (gathPtr row + 4) 4
    let next (s : State) (acc : Mem) : URes := .done s { k.begin m with unit := m.unit + 1, acc := acc }
    if m.unit < nk then
      s.engGet c m (f 0 8 + 4 * (f 24 4 + row)) 8 (fun pl s =>
        if leNat (pl.drop 4) < leNat (pl.take 4) then .fail s (engFormat (leNat (pl.drop 4)))
        else next s (Mem.write m.acc (gathPtr row) (leNat pl) 8))
    else if m.unit < 2 * nk then
      s.engGet c m (f 8 8 + 4 * x0) (4 * (x1 - x0)) (fun cl s =>
        let cols := (List.range (x1 - x0)).map (fun i => leNat ((cl.drop (4 * i)).take 4))
        match (cols.zip (cols.drop 1)).find? (fun p => p.2 ≤ p.1) with
        | some p => .fail s (engFormat p.2)
        | none => next s ((cols.zipIdx).foldl (fun (a : Mem) p =>
            if cf ≤ p.1 && p.1 < cf + nc then Mem.write a (gathIdx row (p.1 - cf)) (x0 + p.2 + 1) 8 else a) m.acc))
    else if m.unit < 3 * nk then
      let placed := (List.range nc).filterMap (fun j => match Mem.read m.acc (gathIdx row j) 8 with
        | 0 => none
        | x + 1 => some (j, x * w))
      let at_ (b : Nat) : Nat × Nat := (f 16 8 + b / 8, (b % 8 + w + 7) / 8)
      let els := placed.map (fun p => at_ p.2)
      s.engGets c m els (lineRuns els) (fun x s =>
        next s (placed.foldl (fun (a : Mem) p => let r := at_ p.2
                                                 Mem.write a (4 * (row * 128 + p.1)) (Mem.read x r.1 r.2 / 2 ^ (p.2 % 8) % 2 ^ w) 4) m.acc))
    else match k.outSlot m m.h 0 with
      | none => .wait s
      | some p =>
        let g := m.gathImage
        match s.putImage c g.1 m.c.toNat with
        | .error t => .fail s t
        | .ok s =>
          let s := s.modCore c (fun k =>
            ((k.putScr (hByte k.rings[m.h.toFin].h p) (g.2 % 2 ^ 32) 64).describe m p 0).slotDone m.h p true)
          .done s { k.begin m with moved := (g.1.map List.length).sum, fin := true }

/-! ### Element engines (R209 to R212) -/

/-- A command that reads one slot and writes one slot in n units: f makes unit i of the destination (R192). -/
def State.pairStep (s : State) (c : Fin 320) (m : Cmd) (n : Nat) (f : State → Nat → Nat → Nat → State) : URes :=
  let k := s.core c
  match k.inSlot m m.h2 0, k.outSlot m m.h 0 with
  | some q, some p =>
    let s := f s (hByte k.rings[m.h2.toFin].h q) (hByte k.rings[m.h.toFin].h p) m.unit
    let m := { k.begin m with unit := m.unit + 1, fin := n ≤ m.unit + 1 }
    if !m.fin then .done s m
    else .done (s.modCore c (fun k => ((k.describe m p 0).slotDone m.h2 q false).slotDone m.h p true)) m
  | _, _ => .wait s

/-- Element i of w-bit elements at a byte address, with its mark. -/
def Core.elAt (k : Core) (a w i : Nat) : Nat × Bool :=
  (elem (k.getScr (a + i * w / 8) ((w + 7) / 8)) w (if w = 4 then i % 2 else 0), k.marked (a + i * w / 8) ((w + 7) / 8))

/-- Elements 64 u .. of n elements, at most 64 of them. -/
def Core.els64 (k : Core) (a w n u : Nat) : List (Nat × Bool) := (List.range (min 64 (n - 64 * u))).map (fun i => k.elAt a w (64 * u + i))

/-- Units of 64 elements in n, at least one. -/
def units64 (n : Nat) : Nat := max 1 ((n + 63) / 64)

/-- XPERM (R209) -/
def State.permStep (s : State) (c : Fin 320) (m : Cmd) : URes :=
  let n := slotEls (s.core c).rings[m.h.toFin].h m.fmt
  s.pairStep c m (units64 n) (fun s a b u => s.modCore c (fun k =>
    let w := codeWidth m.fmt
    let idx (i : Nat) : Nat :=
      if m.fn.getLsbD 0 then k.getScr (m.a.toNat + 2 * i) 2
      else let cols := n / m.a.toNat
           i % m.a.toNat * cols + i / m.a.toNat
    let out := (List.range (min 64 (n - 64 * u))).map (fun i => let j := idx (64 * u + i)
                                                                if j < n then k.elAt a w j else (0, false))
    k.landEls (b + 64 * u * w / 8) w out))

/-- XFTE (R211): the last unit also writes the zeros behind element B. -/
def State.fteStep (s : State) (c : Fin 320) (m : Cmd) : URes :=
  let n := m.b.toNat
  s.pairStep c m (units64 n) (fun s a b u =>
    let k := s.core c
    let se := hFmt k.rings[m.h2.toFin].h
    let h := k.rings[m.h.toFin].h
    let de := hFmt h
    let src := k.els64 a (codeWidth se) n u
    let tab := k.ftab[Fin.ofNat 4 m.fn.toNat]
    let out := (src.zipIdx).map (fun x => (rndTo m.ft de (srAt s.sr x.2) (f32Val (ftabEval tab (rneF32 (valOf se x.1.1)))), x.1.2))
    let pad := if units64 n = u + 1 then List.replicate (slotEls h de - n) (0, false) else []
    { s.modCore c (fun k => k.landEls (b + 64 * u * codeWidth de / 8) (codeWidth de) (out ++ pad)) with cur := .core c }.useDraws (ftRm m.ft) src.length)

/-- XQNT (R212): a unit is two blocks of 32. -/
def State.qntStep (s : State) (c : Fin 320) (m : Cmd) : URes :=
  let n := m.b.toNat
  s.pairStep c m (units64 n) (fun s a b u =>
    let k := s.core c
    let se := hFmt k.rings[m.h2.toFin].h
    let nb := (n + 31) / 32
    let q := ftQ m.ft
    let fix := m.fn.getLsbD 0
    let src := k.els64 a (codeWidth se) n u
    let block (j : Nat) : List (Nat × Bool) := (src.drop (32 * j)).take 32
    let mkd (j : Nat) : Bool := (block j).any (·.2)
    let scale (j : Nat) : BitVec 8 :=
      if mkd j then 0xFF else if fix then m.a.truncate 8 else quantScale q (ftCap m.ft) ((block j).map (fun x => valOf se x.1))
    let here := min 2 (nb - 2 * u)
    let codes := (src.zipIdx).map (fun x =>
      (quantCode m.ft q (!fix) (scale (x.2 / 32)) (srAt s.sr x.2) (valOf se x.1.1), mkd (x.2 / 32)))
    let pad := (List.range (32 * here - src.length)).map (fun i => (0, mkd ((src.length + i) / 32)))
    { s.modCore c (fun k => (k.landEls (b + 64 * u) 8 (codes ++ pad)).landEls (b + 32 * nb + 2 * u) 8
        ((List.range here).map (fun j => ((scale j).toNat, mkd j)))) with cur := .core c }.useDraws (ftRm m.ft) src.length)

/-- XFTL (R210) -/
def State.ftlStep (s : State) (c : Fin 320) (m : Cmd) : URes :=
  s.engGet c m m.a.toNat 1152 (fun l s =>
    if ftabOk l then .done (s.modCore c (fun k => { k with ftab := k.ftab.set (Fin.ofNat 4 m.fn.toNat) l })) { m with run := true, fin := true }
    else
      let res := (l.drop 5).take 3 ++ (l.drop 24).take 40 ++ (l.drop 1092).take 60
      .fail s (engFormat (match res.find? (· != 0) with
        | some b => b.toNat
        | none => (l.getD 4 0).toNat)))

/-! ### Histograms (R213, R214) -/

/-- A 32-bit count up by n, saturating. -/
def satAdd (c : BitVec 32) (n : Nat) : BitVec 32 := BitVec.ofNat 32 (min (2 ^ 32 - 1) (c.toNat + n))

/-- XHIST (R213), 64 keys a unit: a marked key raises POISON before any key of its unit counts (R193). -/
def State.histStep (s : State) (c : Fin 320) (m : Cmd) : URes :=
  let k := s.core c
  match k.inSlot m m.h 0 with
  | none => .wait s
  | some p =>
    let w := codeWidth m.fmt
    let a := hByte k.rings[m.h.toFin].h p
    let src := k.els64 a w m.b.toNat m.unit
    match (src.zipIdx).find? (fun x => x.1.2) with
    | some x => .fail s (engPoison m.h (a + (64 * m.unit + x.2) * w / 8))
    | none =>
      let k := src.foldl (fun (k : Core) x =>
        let key : Int := match fmtOf m.fmt with
          | some (.int n) => sintOf n x.1
          | _ => (x.1 : Int)
        if 0 ≤ key && key ≤ 255 then
          let i : Fin 256 := Fin.ofNat 256 key.toNat
          { k with bins := k.bins.set i (satAdd k.bins[i] 1) }
        else { k with binOut := satAdd k.binOut 1 }) k
      let fin := units64 m.b.toNat ≤ m.unit + 1
      .done (s.setCore c (if fin then k.slotDone m.h p false else k)) { k.begin m with unit := m.unit + 1, fin := fin }

/-- XHLAT: the bins and OUT leave for the latch entry and are cleared; the command ends when they are received (R214). -/
def State.hlatStep (s : State) (c : Fin 320) (m : Cmd) : URes :=
  if m.run then .wait s
  else
    let k := s.core c
    match k.task with
    | none => .wait s
    | some t =>
      let x : Contrib := { core := c, seq := m.seq, entry := Fin.ofNat 16 m.fn.toNat, bins := k.bins.toList.map (·.toNat), out := k.binOut.toNat }
      let s := s.setCore c { k with bins := Vector.replicate 256 0, binOut := 0 }
      .done (s.modCtx t.osq (fun q => { q with contrib := q.contrib ++ [x] })) { m with run := true }

/-! ### Decompress-and-fence (R215) -/

/-- The address of the other view of a byte: its compressed and its uncompressed address, with the die. -/
def State.viewsOf (s : State) (pa : Nat) : Option (Fin 4 × Nat × Nat) :=
  match s.surfAt pa with
  | some (d, cb, ub, _) => some (d, pa, ub + (pa - cb))
  | none => (List.finRange 4).findSome? (fun d => ((s.dies[d]).surf.find? (fun e => e.2.2.1 ≤ pa && pa < e.2.2.1 + e.2.2.2)).map
      (fun e => (d, e.2.1 + (pa - e.2.2.1), pa)))

/-- One byte is joined: a pending compressed write reaches the uncompressed copy, and the compressed copy of it is stale. -/
def State.joinByte (s : State) (pa : Nat) : State :=
  match s.viewsOf pa with
  | none => s
  | some (d, ca, ua) =>
    let x := s.dies[d]
    let s := if spGet 0 x.pendC ca = 1 then { s with mem := Mem.set s.mem (locKey (s.frameIlv ua) ua) (x.comp.get ca) } else s
    { s with dies := s.dies.set d { x with pendC := spSet 0 x.pendC ca 0, comp := x.comp.set ca 0, compV := x.compV.erase ca } }

/-- The MSC and every L1 and L2 drop the line at an address (R215, R322). -/
def State.dropLine (s : State) (pa : Nat) : State :=
  let line := locKey (s.frameIlv pa) pa
  let s := s.invalRange pa 64
  { s with dies := s.dies.map (fun d => if d.msc = [] then d else
      { d with msc := (d.msc.map (fun x => (x.1, x.2.filter (· != line)))).filter (fun x => x.2 != []) }) }

/-- XDFNC: the views are joined and their copies dropped in one step, which waits for room where it spills stamps (R215, R336, R359). -/
def State.dfncStep (s : State) (c : Fin 320) (m : Cmd) : URes :=
  let n := m.b.toNat
  match s.exEnds c m.a.toNat n (fun _ => false) with
  | some (cause, fl, x) => .fail s (engTrap s c cause fl x)
  | none =>
    let t := (List.range n).foldl (fun s i => s.joinByte (s.exOf c (m.a.toNat + i)).2) s
    let t := (List.range (n / 64)).foldl (fun s i =>
      let pa := (s.exOf c (m.a.toNat + 64 * i)).2
      match s.viewsOf pa with
      | none => s.dropLine pa
      | some (_, ca, ua) => (s.dropLine ca).dropLine ua) t
    s.fits t t { m with run := true, fin := true }

/-! ## The unit of each command -/

/-- The next unit of a command. -/
def State.unitStep (s : State) (c : Fin 320) (u : BitVec 64) (m : Cmd) : URes :=
  match m.op.toNat with
  | 0x03 => s.storeStep c m
  | 0x04 | 0x05 => s.cloakStep c m
  | 0x06 => s.wldStep c m
  | 0x07 => s.gathStep c m
  | 0x08 => s.permStep c m
  | 0x09 => s.ftlStep c m
  | 0x0A => s.fteStep c m
  | 0x0B => s.qntStep c m
  | 0x0C => s.histStep c m
  | 0x0D => s.hlatStep c m
  | 0x0E => s.dfncStep c m
  | _ => s.copyStep c u m

/-- The tags of commands that are over (R196). -/
def Engines.untag (e : Engines) (l : List Cmd) : Engines :=
  { e with ntag := l.foldl (fun t m => t.set m.tag.toFin (t[m.tag.toFin] - 1)) e.ntag }

/-- A failure of a class's command: it and those behind it leave, and the trap is on its way (R193). -/
def State.failX (s : State) (c : Fin 320) (cls : Fin 9) (m : Cmd) (t : Trap) : State :=
  let gone := (s.core c).eng.cls[cls].filter (fun x => m.seq ≤ x.seq)
  (s.modCore c (fun k =>
    let q := k.eng.cls[cls]
    { k with async := k.async ++ [{ t with phase := some m.phase }],
             eng := { (k.eng.untag gone) with cls := k.eng.cls.set cls (q.filter (fun x => x.seq < m.seq)) } }))
    |>.orphan (fun r => r.unit == .core c && r.kind == 3 && gone.any (fun x => BitVec.ofNat 64 x.seq == r.mask))

/-! ## Weight-buffer bytes that commands write (R195, R170) -/

/-- A command that writes the weight buffer, run to its end on memory as it stands: the state after it, the end of the bytes that it writes, and whether
that is certain. Where a source lies behind a window whose answer is not there yet, it is the largest that it could be (DEDUCED, log 54). -/
def State.wRun (c : Fin 320) : Nat → State → Cmd → State × Nat × Bool
  | 0, s, m => (s, m.c.toNat + m.moved, false)
  | f + 1, s, m =>
    let most := m.c.toNat + (if m.fmt = 0x40 then m.b.toNat else 128 * segBytes (codeWidth m.fmt) 128)
    if m.fin then (s, m.c.toNat + m.moved, true)
    else if m.op = 0x07 && 3 * (s.core c).gathRows m ≤ m.unit then
      (match s.putImage c m.gathImage.1 m.c.toNat with
        | .ok s => (s, m.c.toNat + (m.gathImage.1.map List.length).sum, true)
        | .error _ => (s, m.c.toNat, true))
    else match (if m.op = 0x06 then s.wldStep c m else s.gathStep c m) with
      | .done s m => State.wRun c f s m
      | .fail s _ => (s, m.c.toNat + m.moved, true)
      | .wait s => (s, most, false)

/-- The bytes of the weight buffer that a command writes, and those of them that it has yet to write. -/
def State.wAll (s : State) (c : Fin 320) (m : Cmd) : Nat × Nat := if m.writesW then (m.c.toNat, (State.wRun c 8450 s m).2.1) else (0, 0)
def State.wLeft (s : State) (c : Fin 320) (m : Cmd) : Nat × Nat :=
  if m.fin then (0, 0) else let r := s.wAll c m; (if m.op = 0x06 then m.c.toNat + m.moved else r.1, r.2)

/-- Two ranges of bytes meet. -/
def meets (x y : Nat × Nat) : Bool := max x.1 y.1 < min x.2 y.2

/-- Puts a command into a list in issue order. -/
def cmdIns (m : Cmd) : List Cmd → List Cmd
  | [] => [m]
  | x :: l => if m.seq < x.seq then m :: x :: l else x :: cmdIns m l

/-- The bytes of the weight buffer that the MLDW numbered seq will read: by the segment headers as the commands before it leave them, or all that its
image could hold where that is not certain (R170, log 54). -/
def State.ldwRange (s : State) (c : Fin 320) (off : Nat) (fmt : BitVec 8) (seq : Nat) : Nat × Nat :=
  let before := ((s.core c).cmds.filter (fun x => x.writesW && x.seq < seq && !x.fin)).foldl (fun l x => cmdIns x l) []
  let r := before.foldl (fun (a : State × Bool) x => let y := State.wRun c 8450 a.1 x
                                                     (y.1, a.2 && y.2.2)) (s, true)
  let w := codeWidth fmt
  (off, if r.2 then imageEnd (r.1.core c).wbuf w 128 off else off + 128 * segBytes w 128)

/-- An earlier command or MLDW holds m back: by scratchpad bytes, a table or the bins (R195), or by weight-buffer bytes (R195, R170). -/
def State.behind (s : State) (c : Fin 320) (m : Cmd) : Bool :=
  let k := s.core c
  k.clashes m ||
  (m.writesW && (
    let w := s.wAll c m
    (k.earlier m).any (fun x => x.writesW && meets (s.wAll c x) w) ||
    k.arr.queue.any (fun e => e.seq < m.seq && (match e.op with
      | .mldw off fmt _ _ => meets (s.ldwRange c off fmt e.seq) w
      | _ => false))))

/-- An outstanding command issued earlier still writes bytes that an MLDW reads (R170). -/
def State.ldwWaits (s : State) (c : Fin 320) (off : Nat) (fmt : BitVec 8) (seq : Nat) : Bool :=
  let k := s.core c
  (k.eng.queue ++ k.eng.cls.toList.flatten).any (fun m =>
    m.writesW && m.seq < seq && meets (s.wLeft c m) (off, imageEnd k.wbuf (codeWidth fmt) 128 off))

/-- MLDW_EXECUTE (R170) -/
def execMldwExecute (c : Fin 320) (s : State) : Out :=
  let k := s.core c
  .next (match k.mHead with
    | none => s
    | some e => match e.op with
      | .mldw off fmt scB cap =>
        if s.ldwWaits c off fmt e.seq then s
        else match readSegs k.wbuf fmt cap 128 off with
          | .error v => s.failM c (arrTrap .format (v % 256 + 1024 + 2 * 4096))
          | .ok l => s.setCore c { k.popM with arr := { k.popM.arr with back := planeOf fmt scB cap l } }
      | _ => s)

/-! ## Units, completion, failure (R192 to R196) -/

/-- A command is inside a unit: a read of it through a window is on its way; so is a sent XHLAT until its contribution is received (R385). -/
def State.midUnit (s : State) (c : Fin 320) (m : Cmd) : Bool :=
  s.plat.reqs.any (fun r => r.unit == .core c && r.kind == 3 && r.mask == BitVec.ofNat 64 m.seq && !r.gone)

/-- No engine class of a core is inside a unit. -/
def State.engEven (s : State) (c : Fin 320) : Bool :=
  let hist : Fin 9 := 7
  !s.plat.reqs.any (fun r => r.unit == .core c && r.kind == 3 && !r.gone) && !(s.core c).eng.cls[hist].any (fun m => m.op == 0x0D && m.run && !m.fin)

/-- Every engine class of a core has reached its unit and acknowledges to the collector (R385). -/
def State.engAcked (s : State) (c : Fin 320) : Bool := s.engEven c && (s.core c).ph.redo.isEmpty

/-- DBG.STAT as it reads (R402): HELD is one once every class has acknowledged (R404). -/
def State.dbgStat (s : State) (c : Fin 320) : Word :=
  let st := (s.core c).dbg.stat
  if s.engEven c then st else st &&& ~~~ 2#64

/-- A command may make a unit now: on a core whose engines are held, or frozen by a hard pre-emption with its beats over, it only ends the one that it is
inside (R385, R404). -/
def State.mayUnit (s : State) (c : Fin 320) (m : Cmd) : Bool :=
  let k := s.core c
  !(k.heldAll || k.task.any (·.frozen) && k.beatsOver) || s.midUnit c m

/-- ENGINE_UNIT: the head of a class, or its second command once the head has started, makes its next unit (R192, R194, R195); slots that a
cancellation lands again come before the copy engine's commands (R380). -/
def execEngineUnit (c : Fin 320) (cls : Fin 9) (second : Bool) (s : State) : Out :=
  let k := s.core c
  let q := k.eng.cls[cls]
  .next (match k.ph.redo with
  | f :: rest =>
    if cls ≠ 0 || (k.heldAll && !s.midUnit c f.cmd) then s
    else
      let next (k : Core) (l : List Refetch) : Core := { k with ph := { k.ph with redo := l } }
      match s.redoStep c f with
      | .wait s => s
      | .fail s t => s.modCore c (fun k => { next k rest with async := k.async ++ [t] })
      | .done s m => s.modCore c (fun k => next k (if m.fin then rest else { f with cmd := { m with fin := false } } :: rest))
  | [] =>
  match q, second with
  | [], _ => s
  | [_], true => s
  | m0 :: r, _ =>
    let m := if second then r.getD 0 m0 else m0
    if m.fin || !s.mayUnit c m || (second && !m0.run) || (cls = 0 && k.eng.watch.isSome) || s.behind c m then s
    else match s.unitStep c (BitVec.ofNat 64 m.seq) m with
      | .wait s => s
      | .fail s t => s.failX c cls m t
      | .done s m => s.modCore c (fun k =>
          { k with eng := { k.eng with cls := k.eng.cls.set cls (k.eng.cls[cls].map (fun x => if x.seq = m.seq then m else x)) } }))

/-- ENGINE_COMMAND_COMPLETE: the head of a class has done all its effects (R192, R196); no command completes while the engines are held (R404). -/
def execEngineCommandComplete (c : Fin 320) (cls : Fin 9) (s : State) : Out :=
  let k := s.core c
  .next (match k.eng.cls[cls] with
  | [] => s
  | m :: l => if m.fin && k.advanced m && !k.heldAll then s.setCore c { k with eng := { (k.eng.untag [m]) with cls := k.eng.cls.set cls l } } else s)

/-! ## Latch contributions (R214) -/

/-- An entry with a contribution added; the Nth computes the prefix sums and latches (R214). -/
def Latch.add (l : Latch) (bins : List Nat) (out : Nat) : Latch :=
  let cnt : Vector (BitVec 32) 256 := Vector.ofFn (fun i => satAdd l.cnt[i] (bins.getD i.val 0))
  let l := { l with cnt := cnt, out := satAdd l.out out, got := l.got + 1 }
  if l.got < l.n then l
  else { l with st := 2, pre := Vector.ofFn (fun i => satAdd 0 ((cnt.toList.take i.val).foldl (fun a x => a + x.toNat) 0)) }

/-- LATCH_CONTRIBUTION: contribution k of a context reaches its entry; one for an entry that is not armed raises HANDLE (R214). -/
def execLatchContribution (q : Fin 16) (k : Nat) (s : State) : Out :=
  .next (match s.ctx q with
  | none => s
  | some x => match x.contrib[k]? with
    | none => s
    | some d =>
      let l := x.latch[d.entry]
      let cs : Fin 9 := 7
      let mine (m : Cmd) : Bool := m.seq == d.seq && m.op == 0x0D
      let rest := { x with contrib := x.contrib.eraseIdx k }
      if l.st = 1 then
        (s.setCtx q { rest with latch := x.latch.set d.entry (l.add d.bins d.out) }).modCore d.core (fun k =>
          { k with eng := { k.eng with cls := k.eng.cls.set cs (k.eng.cls[cs].map (fun m => if mine m then { m with fin := true } else m)) } })
      else
        let s := s.setCtx q rest
        match (s.core d.core).eng.cls[cs].find? mine with
        | none => s
        | some m => s.failX d.core cs m { (mkTrap .handle (BitVec.ofNat 64 (4096 * 3)) 3) with async := true })

/-! ## Watch reports (R413, R441) -/

/-- ENGINE_WATCH_REPORT: the match of a landing reaches the core before its next bundle: a precise stop, or the WATCH fault when the
debugger is not armed; the copy engine goes on at resume. -/
def execEngineWatchReport (c : Fin 320) (s : State) : Out :=
  let k := s.core c
  .next (match k.eng.watch with
  | some (false, i, h) =>
    if k.stopped then s
    else
      let s := s.setCore c { k with eng := { k.eng with watch := if k.armed then some (true, i, h) else none } }
      s.takeTrap c { cause := .watch, info := BitVec.ofNat 64 (i.toNat + 4 + h.toNat * 16), slot := none, ring := none, tensor := none,
                     async := true, note := [] }
  | _ => s)

end Sys2Proof.Machine
end

