-- ==== Sys2Proof/Machine/Preempt.lean ====
section
/-! DEFINITION. Pre-emption: soft and hard saves (R108, R190, R384, R385), core save areas (R387, R389), restore (R386), and the
events PREEMPTION_REQUEST, PREEMPTION_WITHDRAW, HARD_PREEMPTION and TASK_RESUME. -/

namespace Sys2Proof.Machine

/-! ## What a save holds -/

/-- A scratchpad byte lies in a region of the invocation that a mask of regions selects (R108, R219). -/
def Inv.inRegion (i : Inv) (sel : Nat → Bool) (a : Nat) : Bool :=
  (List.range 12).any (fun r => sel r && match i.regions.toList.getD r none with
    | some (g, n) => g * 4096 ≤ a && a < (g + n) * 4096
    | none => false)

/-- The array that a soft save keeps: tiles and planes as the mask names them (R108, R190). -/
def MArr.named (a : MArr) (live : BitVec 16) : MArr :=
  { a with tiles := Vector.ofFn (fun t => if live.getLsbD t.val then a.tiles[t] else Tile.zero),
           cur := if live.getLsbD 2 then a.cur else Plane.zero, back := if live.getLsbD 3 then a.back else Plane.zero }

/-- The core d after the task saved from core sv is restored on it (R384, R386): a soft save leaves every state it does not hold at
zero; a hard save restores the whole core, its open phase included. R110's list of what opens a cinch segment names no resume: after a soft save the
segment starts afresh (DESIGN CHOICE, log 124), after a hard save it goes on. -/
def Core.restored (d sv : Core) (i : Inv) (soft : Bool) (live : BitVec 16) : Core :=
  let mine (a : Nat) : Bool := i.inRegion (fun _ => true) a
  let kept (a : Nat) : Bool := i.inRegion (liveRegion soft live) a
  let scr := sv.scr.foldl (fun (m : Mem) b => if kept b.1 then m.set b.1 b.2 else m) (d.scr.filter (fun b => !mine b.1))
  let marks := sv.marks.foldl (fun (m : NSet) w => if kept (4 * w) then m.insert w else m) (d.marks.filter (fun w => !mine (4 * w)))
  let sys := (List.range 12).foldl (fun (r : Regs) j => r.set (0x40 + j) (d.sys.get (0x40 + j))) sv.sys
  let own (k : Core) : Core :=
    { k with scr := scr, marks := marks, l1 := [], sk := [], dbg := { d.dbg with trace := sv.dbg.trace, run := 0 }, snap := d.snap, gran := d.gran,
             lastInv := d.lastInv, revoked := false }
  if !soft then own { sv with sys := sys }
  else
    let k := d.fresh i sv.fr.pc
    let keep (r : Regs) (n : Nat) : Regs := r.set n (sv.sys.get n)
    let regs := (List.range 6).foldl (fun (r : Regs) j => r.set (0x10 + j) 0) k.sys
    own { k with fr := sv.softFront,
                 rings := sv.rings, loops := sv.loops, arr := sv.arr.named live, mode := sv.mode, gclk := sv.gclk, gon := sv.gon, wbuf := [],
                 sys := keep (keep (keep (keep regs 0x18) 0x1A) 0x1B) 0x1C }

/-! ## Core save areas (R387) -/

/-- The first core save area of a context that holds no save. -/
def Ctx.freeArea (x : Ctx) : Nat :=
  x.areaAt (((List.range (x.saved.length + 1)).find? (fun j => !x.saved.any (fun a => a.toNat == x.areaAt j))).getD 0)

/-! ## Saving a task -/

/-- Saves the task of core c and frees the core (R384, R385). -/
def State.saveTask (s : State) (c : Fin 320) (soft : Bool) (live : BitVec 16) : State :=
  match (s.core c).task, s.taskInv c with
  | some t, some i =>
    match s.ctx t.osq with
    | none => s
    | some x =>
      let k := s.core c
      let area := x.freeArea
      let s := s.saveArea area corePages (savePages k i soft live)
      let s := s.modCtx t.osq (fun x => { x with saved := x.saved ++ [BitVec.ofNat 52 area] })
      let s := { s with saves := s.saves ++ [Saved.mk area soft live k] }
      (s.modCore c Core.clearTask).orphan (fun r => r.unit == UnitId.core c && r.kind != 1)
  | _, _ => s

/-- A PREEMPT's wait is over: the soft save (R108, R384). -/
def State.softSave (s : State) (c : Fin 320) (live : BitVec 16) : State := s.saveTask c true live

/-! ## The events -/

/-- PREEMPTION_REQUEST (R384): the walker hands out no further chunk and the sequencer stops. -/
def execPreemptionRequest (q : Fin 16) (s : State) : Out :=
  match s.ctx q with
  | none => .next s
  | some x =>
    if x.preReq.isSome then .next s
    else .next ((s.coresOn q).foldl (fun s c => s.modCore c (fun k => { k with dbg := { k.dbg with lost := 0 } }))
      (s.setCtx q { x with preReq := some s.tb.toNat }))

/-- The cores that a request froze for a hard stop go on when the request ends before their stop is whole (R384). -/
def State.thaw (s : State) (q : Fin 16) : State :=
  (s.coresOn q).foldl (fun s c => s.modCore c (fun k => if k.task.any (·.frozen) then
    { k with task := k.task.map (fun t => { t with frozen := false }), arr := { k.arr with fact := k.arr.fact.map (fun f => { f with halt := false }) } } else k)) s

/-- PREEMPTION_WITHDRAW (R384): a standing request ends. -/
def execPreemptionWithdraw (q : Fin 16) (s : State) : Out :=
  .next ((s.modCtx q (fun x => { x with preReq := none })).thaw q)

/-- The request under which core c's task may be stopped hard: 200 µs old, ticks in a precise stop not counted (R384, R403), the task not already stopping
at a PREEMPT. -/
def State.hardDue (s : State) (c : Fin 320) : Bool :=
  match (s.core c).task with
  | none => false
  | some t => t.stopping.isNone && !(s.core c).stopped && (s.ctx t.osq).any (fun x => match x.preReq with
      | some t0 => t0 + 200000 + (s.core c).dbg.lost ≤ s.tb.toNat
      | none => false)

/-- Every acknowledgement that a hard stop waits for is there (R385): the beats are over, no load is outstanding and no bundle waits for an answer, and every
engine class has reached its unit. -/
def State.drained (s : State) (c : Fin 320) : Bool := (s.core c).beatsOver && (s.core c).fr.outs.isEmpty && !s.sSent c && s.engAcked c

/-- HARD_PREEMPTION (R385): 200 µs after the request the S and V slots freeze; once every acknowledgement has arrived the whole core is saved. -/
def execHardPreemption (c : Fin 320) (s : State) : Out :=
  if !s.hardDue c then .next s
  else
    let k := s.core c
    if s.drained c then .next (s.saveTask c false 0xFFFF)
    else .next (s.setCore c { k with task := k.task.map (fun t => { t with frozen := true }), arr := k.arr.haltFact })

/-- The saved task's extents on core c (R386): as the walker builds them for its ordinal. -/
def State.rebuild (s : State) (c : Fin 320) (t : Task) : Built :=
  match s.ctx t.osq with
  | none => .park s
  | some x => match x.inv t.inv, x.wrec t.inv t.wrec with
    | some i, some w => match s.extOps t.osq x i w.raw w.latch t.idx (if LRec.latched w.raw then 15 else 16) 8 0 [] with
      | .ok l s => .ok l (s.modCore c (fun k => { k with e := extRegs w.raw w t.idx l, eop := l.map (·.2) }))
      | b => b
    | _, _ => .park s

/-- TASK_RESUME (R386, R389): the tags of the area are checked, then the task is restored on the lowest free core of the team, its
extents rebuilt; a page that is not resident leaves it saved, and so does a request for pre-emption that stands (R384) or a write of PLAT.CLK that waits
for its boundary (R456). -/
def execTaskResume (q : Fin 16) (area : BitVec 52) (s : State) : Out :=
  match s.ctx q with
  | none => .next s
  | some x =>
    match (if x.saved.contains area && x.preReq.isNone && s.plat.clkPend.isNone then s.saves.find? (fun v => v.area == area.toNat) else none) with
    | none => .next s
    | some v =>
      if !s.areaOk area.toNat corePages then .next ((s.countArea area.toNat corePages).fatalCtx (s.strike .saveIntegrity none) q)
      else match s.freeCores x, v.k.task with
      | c :: _, some t =>
        match x.inv t.inv with
        | none => .next s
        | some i =>
          let k := ((s.core c).restored v.k i v.soft v.live).closed x
          let k7 := setBits (v.k.k[7]) 8 0 c.val
          let t' : Task := { t with osq := q, parked := false, frozen := false, stopping := none }
          let s' := s.setCore c { k with k := (v.k.k).set 7 k7, tilectx := x.tag, task := some t', idle := s.tb.toNat, wper := s.plat.wdog, mbox := v.k.mbox }
          match s'.rebuild c t' with
          | .ok _ s' =>
            let s' := s'.modCtx q (fun x => { x with saved := x.saved.filter (· != area) })
            let s' := { s' with saves := s'.saves.filter (fun w => w.area != area.toNat) }
            .next (if v.soft then s'.openPhase c else s')
          | .park _ => .next s
          | .fault cause info op s' => .next ((s'.setCore c (s.core c)).walkFault q x i t.ord cause info op)
      | _, _ => .next s

end Sys2Proof.Machine
end

