-- ==== Sys2Proof/Machine/Bundle.lean ====
section
/-! DEFINITION. One bundle on a tile core or a sequencer: the checks at decode (R67, R80, R189), breakpoints (R407), landing of results
(R81), the four slots in order, and stall, trap or issue (R66, R83, R110, R366). -/

namespace Sys2Proof.Machine

/-! ## Permission at decode (R80, R28, R138, R295) -/

/-- The sequencer-only forms, S row 0x7 (R80). -/
def row7 : Instr → Bool
  | .wlnr _ _ | .rgalloc _ _ | .rgfree _ _ | .sbwait _ _ | .sbpub _ _ | .trec _ _ | .hlatArm _ _ | .hlatCnt _ _ | .hlatPre _ _
  | .hlatOut _ _ | .hlatTot _ _ | .opendDone _ _ | .opendCancel _ _ | .opendRepeat _ _ => true
  | _ => false

/-- The system register numbers of a tile core (R28). -/
def coreListed (n : Nat) : Bool :=
  n ≤ 4 || (8 ≤ n && n ≤ 0x15) || (0x18 ≤ n && n ≤ 0x37) || (0x40 ≤ n && n ≤ 0x4B) || (0x50 ≤ n && n ≤ 0x7D) || (0x80 ≤ n && n ≤ 0x8F)

/-- The system register numbers of a sequencer (R295). -/
def seqListed (n : Nat) : Bool :=
  n ≤ 3 || (0x100 ≤ n && n ≤ 0x107) || (0x110 ≤ n && n ≤ 0x121) || (0x128 ≤ n && n ≤ 0x12A) || (0x130 ≤ n && n ≤ 0x137) || (0x140 ≤ n && n ≤ 0x150)

/-- A slot instruction that a tile core accepts. -/
def coreOk : Instr → Bool
  | .srd _ f => coreListed f.sys.toNat
  | .swr _ f => coreListed f.sys.toNat
  | i => !row7 i

/-- A slot instruction that a sequencer accepts. -/
def seqOk : Instr → Bool
  | .add _ _ | .sub _ _ | .mul _ _ | .mulh _ _ | .mulhu _ _ | .div _ _ | .divu _ _ | .rem _ _ | .remu _ _ | .andR _ _ | .orR _ _
  | .xorR _ _ | .andn _ _ | .shl _ _ | .shr _ _ | .sra _ _ | .minR _ _ | .maxR _ _ | .minu _ _ | .maxu _ _ | .clz _ _ | .ctz _ _
  | .popc _ _ | .ext _ _ | .sel _ _ | .cmp _ _ | .plog _ _ | .maddr _ _ | .addi _ _ | .andi _ _ | .ori _ _ | .xori _ _
  | .shli _ _ | .shri _ _ | .srai _ _ | .cmpi _ _ | .li _ _ | .lih _ _ | .movk _ _ | .br _ _ | .jmp _ _ | .call _ _ | .ret _ _
  | .trap _ _ | .brk _ _ | .chk _ _ | .ld _ _ | .ldS _ _ | .st _ _ | .cas _ _ | .fence _ _ | .amoSwap _ _ | .amoAdd _ _
  | .amoAnd _ _ | .amoOr _ _ | .amoXor _ _ | .amoMin _ _ | .amoMax _ _ | .amoMinu _ _ | .amoMaxu _ _ | .amoFadd _ _ => true
  | .nop _ => true
  | .srd _ f => seqListed f.sys.toNat
  | .swr _ f => seqListed f.sys.toNat
  | i => row7 i

/-- A slot decodes to an instruction that the unit accepts. -/
def slotOk (seq : Bool) (o : Option Instr) : Bool :=
  match o with
  | some i => if seq then seqOk i else coreOk i
  | none => false

/-- The qualifiers of a bundle stand inside a body whose nest has the level (R67). -/
def qualOk (w : BitVec 256) (m : Nat) : Bool := w.extractLsb' 3 8 == 0 || (w.extractLsb' 0 3).toNat < m

/-- The bundle in hand decodes on its unit, or the first failing part (R67). m is the level count of the running body, 0 outside one. -/
def checkBundle (seq : Bool) (m : Nat) (w : BitVec 256) : Except (BitVec 3) Bundle :=
  let l : BitVec 3 := w.extractLsb' 0 3
  if !slotOk seq (decS (w.extractLsb' 16 60) (w.extractLsb' 3 2) l) then .error 0
  else if !slotOk seq (decV (w.extractLsb' 76 60) (w.extractLsb' 5 2) l) then .error 1
  else if !slotOk seq (decM (w.extractLsb' 136 40) (w.extractLsb' 7 2) l) then .error 2
  else if !slotOk seq (decX (w.extractLsb' 176 80) (w.extractLsb' 9 2) l) then .error 3
  else if !qualOk w m then .error 4
  else decodeBundle w

/-! ## Slots -/

/-- The meaning of a slot instruction; NOP does nothing. -/
def runSlot (i : Instr) (s : State) : Out :=
  match i with
  | .add g f => Sys2Proof.Machine.execAdd g f s
  | .sub g f => Sys2Proof.Machine.execSub g f s
  | .mul g f => Sys2Proof.Machine.execMul g f s
  | .mulh g f => Sys2Proof.Machine.execMulh g f s
  | .mulhu g f => Sys2Proof.Machine.execMulhu g f s
  | .div g f => Sys2Proof.Machine.execDiv g f s
  | .divu g f => Sys2Proof.Machine.execDivu g f s
  | .rem g f => Sys2Proof.Machine.execRem g f s
  | .remu g f => Sys2Proof.Machine.execRemu g f s
  | .andR g f => Sys2Proof.Machine.execAndR g f s
  | .orR g f => Sys2Proof.Machine.execOrR g f s
  | .xorR g f => Sys2Proof.Machine.execXorR g f s
  | .andn g f => Sys2Proof.Machine.execAndn g f s
  | .shl g f => Sys2Proof.Machine.execShl g f s
  | .shr g f => Sys2Proof.Machine.execShr g f s
  | .sra g f => Sys2Proof.Machine.execSra g f s
  | .minR g f => Sys2Proof.Machine.execMinR g f s
  | .maxR g f => Sys2Proof.Machine.execMaxR g f s
  | .minu g f => Sys2Proof.Machine.execMinu g f s
  | .maxu g f => Sys2Proof.Machine.execMaxu g f s
  | .clz g f => Sys2Proof.Machine.execClz g f s
  | .ctz g f => Sys2Proof.Machine.execCtz g f s
  | .popc g f => Sys2Proof.Machine.execPopc g f s
  | .ext g f => Sys2Proof.Machine.execExt g f s
  | .sel g f => Sys2Proof.Machine.execSel g f s
  | .cmp g f => Sys2Proof.Machine.execCmp g f s
  | .plog g f => Sys2Proof.Machine.execPlog g f s
  | .maddr g f => Sys2Proof.Machine.execMaddr g f s
  | .addi g f => Sys2Proof.Machine.execAddi g f s
  | .andi g f => Sys2Proof.Machine.execAndi g f s
  | .ori g f => Sys2Proof.Machine.execOri g f s
  | .xori g f => Sys2Proof.Machine.execXori g f s
  | .shli g f => Sys2Proof.Machine.execShli g f s
  | .shri g f => Sys2Proof.Machine.execShri g f s
  | .srai g f => Sys2Proof.Machine.execSrai g f s
  | .cmpi g f => Sys2Proof.Machine.execCmpi g f s
  | .li g f => Sys2Proof.Machine.execLi g f s
  | .lih g f => Sys2Proof.Machine.execLih g f s
  | .movk g f => Sys2Proof.Machine.execMovk g f s
  | .br g f => Sys2Proof.Machine.execBr g f s
  | .jmp g f => Sys2Proof.Machine.execJmp g f s
  | .call g f => Sys2Proof.Machine.execCall g f s
  | .ret g f => Sys2Proof.Machine.execRet g f s
  | .mark g f => Sys2Proof.Machine.execMark g f s
  | .lset g f => Sys2Proof.Machine.execLset g f s
  | .lstr g f => Sys2Proof.Machine.execLstr g f s
  | .exitE g f => Sys2Proof.Machine.execExitE g f s
  | .exitS g f => Sys2Proof.Machine.execExitS g f s
  | .exitN g f => Sys2Proof.Machine.execExitN g f s
  | .trap g f => Sys2Proof.Machine.execTrap g f s
  | .brk g f => Sys2Proof.Machine.execBrk g f s
  | .hret g f => Sys2Proof.Machine.execHret g f s
  | .hretSkip g f => Sys2Proof.Machine.execHretSkip g f s
  | .phase g f => Sys2Proof.Machine.execPhase g f s
  | .preempt g f => Sys2Proof.Machine.execPreempt g f s
  | .gait g f => Sys2Proof.Machine.execGait g f s
  | .chk g f => Sys2Proof.Machine.execChk g f s
  | .cinch f => Sys2Proof.Machine.execCinch f s
  | .cinchZ g f => Sys2Proof.Machine.execCinchZ g f s
  | .ld g f => Sys2Proof.Machine.execLd g f s
  | .ldS g f => Sys2Proof.Machine.execLdS g f s
  | .st g f => Sys2Proof.Machine.execSt g f s
  | .ldsp g f => Sys2Proof.Machine.execLdsp g f s
  | .stsp g f => Sys2Proof.Machine.execStsp g f s
  | .advc g f => Sys2Proof.Machine.execAdvc g f s
  | .advp g f => Sys2Proof.Machine.execAdvp g f s
  | .waitc g f => Sys2Proof.Machine.execWaitc g f s
  | .waitp g f => Sys2Proof.Machine.execWaitp g f s
  | .hset g f => Sys2Proof.Machine.execHset g f s
  | .hget g f => Sys2Proof.Machine.execHget g f s
  | .amoSwap g f => Sys2Proof.Machine.execAmoSwap g f s
  | .amoAdd g f => Sys2Proof.Machine.execAmoAdd g f s
  | .amoAnd g f => Sys2Proof.Machine.execAmoAnd g f s
  | .amoOr g f => Sys2Proof.Machine.execAmoOr g f s
  | .amoXor g f => Sys2Proof.Machine.execAmoXor g f s
  | .amoMin g f => Sys2Proof.Machine.execAmoMin g f s
  | .amoMax g f => Sys2Proof.Machine.execAmoMax g f s
  | .amoMinu g f => Sys2Proof.Machine.execAmoMinu g f s
  | .amoMaxu g f => Sys2Proof.Machine.execAmoMaxu g f s
  | .amoFadd g f => Sys2Proof.Machine.execAmoFadd g f s
  | .cas g f => Sys2Proof.Machine.execCas g f s
  | .cupdAdd g f => Sys2Proof.Machine.execCupdAdd g f s
  | .cupdFadd g f => Sys2Proof.Machine.execCupdFadd g f s
  | .cupdMin g f => Sys2Proof.Machine.execCupdMin g f s
  | .cupdMax g f => Sys2Proof.Machine.execCupdMax g f s
  | .cupdOr g f => Sys2Proof.Machine.execCupdOr g f s
  | .fence g f => Sys2Proof.Machine.execFence g f s
  | .barcfg g f => Sys2Proof.Machine.execBarcfg g f s
  | .bararr g f => Sys2Proof.Machine.execBararr g f s
  | .barwait g f => Sys2Proof.Machine.execBarwait g f s
  | .sstep g f => Sys2Proof.Machine.execSstep g f s
  | .srd g f => Sys2Proof.Machine.execSrd g f s
  | .swr g f => Sys2Proof.Machine.execSwr g f s
  | .wlnr g f => Sys2Proof.Machine.execWlnr g f s
  | .rgalloc g f => Sys2Proof.Machine.execRgalloc g f s
  | .rgfree g f => Sys2Proof.Machine.execRgfree g f s
  | .sbwait g f => Sys2Proof.Machine.execSbwait g f s
  | .sbpub g f => Sys2Proof.Machine.execSbpub g f s
  | .trec g f => Sys2Proof.Machine.execTrec g f s
  | .hlatArm g f => Sys2Proof.Machine.execHlatArm g f s
  | .hlatCnt g f => Sys2Proof.Machine.execHlatCnt g f s
  | .hlatPre g f => Sys2Proof.Machine.execHlatPre g f s
  | .hlatOut g f => Sys2Proof.Machine.execHlatOut g f s
  | .hlatTot g f => Sys2Proof.Machine.execHlatTot g f s
  | .opendDone g f => Sys2Proof.Machine.execOpendDone g f s
  | .opendCancel g f => Sys2Proof.Machine.execOpendCancel g f s
  | .opendRepeat g f => Sys2Proof.Machine.execOpendRepeat g f s
  | .vadd g f => Sys2Proof.Machine.execVadd g f s
  | .vsub g f => Sys2Proof.Machine.execVsub g f s
  | .vmul g f => Sys2Proof.Machine.execVmul g f s
  | .vfma g f => Sys2Proof.Machine.execVfma g f s
  | .vfms g f => Sys2Proof.Machine.execVfms g f s
  | .vfnma g f => Sys2Proof.Machine.execVfnma g f s
  | .vmin g f => Sys2Proof.Machine.execVmin g f s
  | .vmax g f => Sys2Proof.Machine.execVmax g f s
  | .vabs g f => Sys2Proof.Machine.execVabs g f s
  | .vneg g f => Sys2Proof.Machine.execVneg g f s
  | .vdiv g f => Sys2Proof.Machine.execVdiv g f s
  | .vsqrt g f => Sys2Proof.Machine.execVsqrt g f s
  | .vrsq g f => Sys2Proof.Machine.execVrsq g f s
  | .vexp2 g f => Sys2Proof.Machine.execVexp2 g f s
  | .vlog2 g f => Sys2Proof.Machine.execVlog2 g f s
  | .vcvt g f => Sys2Proof.Machine.execVcvt g f s
  | .vpack g f => Sys2Proof.Machine.execVpack g f s
  | .vunpk g f => Sys2Proof.Machine.execVunpk g f s
  | .vand g f => Sys2Proof.Machine.execVand g f s
  | .vor g f => Sys2Proof.Machine.execVor g f s
  | .vxor g f => Sys2Proof.Machine.execVxor g f s
  | .vshl g f => Sys2Proof.Machine.execVshl g f s
  | .vshr g f => Sys2Proof.Machine.execVshr g f s
  | .vsra g f => Sys2Proof.Machine.execVsra g f s
  | .vcmp g f => Sys2Proof.Machine.execVcmp g f s
  | .vsel g f => Sys2Proof.Machine.execVsel g f s
  | .vred g f => Sys2Proof.Machine.execVred g f s
  | .vscan g f => Sys2Proof.Machine.execVscan g f s
  | .vclass g f => Sys2Proof.Machine.execVclass g f s
  | .vterm g f => Sys2Proof.Machine.execVterm g f s
  | .vqsc g f => Sys2Proof.Machine.execVqsc g f s
  | .vqscEnc g f => Sys2Proof.Machine.execVqscEnc g f s
  | .vbcst g f => Sys2Proof.Machine.execVbcst g f s
  | .vbcstLane g f => Sys2Proof.Machine.execVbcstLane g f s
  | .vmovs g f => Sys2Proof.Machine.execVmovs g f s
  | .vins g f => Sys2Proof.Machine.execVins g f s
  | .viota g f => Sys2Proof.Machine.execViota g f s
  | .vshuf g f => Sys2Proof.Machine.execVshuf g f s
  | .vrot g f => Sys2Proof.Machine.execVrot g f s
  | .vmskLog g f => Sys2Proof.Machine.execVmskLog g f s
  | .vmskSet g f => Sys2Proof.Machine.execVmskSet g f s
  | .vmskFirst g f => Sys2Proof.Machine.execVmskFirst g f s
  | .vmskGet g f => Sys2Proof.Machine.execVmskGet g f s
  | .vchk g f => Sys2Proof.Machine.execVchk g f s
  | .vldh g f => Sys2Proof.Machine.execVldh g f s
  | .vsth g f => Sys2Proof.Machine.execVsth g f s
  | .vlds g f => Sys2Proof.Machine.execVlds g f s
  | .vsts g f => Sys2Proof.Machine.execVsts g f s
  | .mldw g f => Sys2Proof.Machine.execMldw g f s
  | .mswap g f => Sys2Proof.Machine.execMswap g f s
  | .mpush g f => Sys2Proof.Machine.execMpush g f s
  | .mdrain g f => Sys2Proof.Machine.execMdrain g f s
  | .mzero g f => Sys2Proof.Machine.execMzero g f s
  | .mhem g f => Sys2Proof.Machine.execMhem g f s
  | .mtclr g f => Sys2Proof.Machine.execMtclr g f s
  | .mlu g f => Sys2Proof.Machine.execMlu g f s
  | .mchol g f => Sys2Proof.Machine.execMchol g f s
  | .mqr g f => Sys2Proof.Machine.execMqr g f s
  | .mtrsm g f => Sys2Proof.Machine.execMtrsm g f s
  | .mperm g f => Sys2Proof.Machine.execMperm g f s
  | .mres g f => Sys2Proof.Machine.execMres g f s
  | .mfwait g f => Sys2Proof.Machine.execMfwait g f s
  | .xcopy g f => Sys2Proof.Machine.execXcopy g f s
  | .xcopys g f => Sys2Proof.Machine.execXcopys g f s
  | .xstore g f => Sys2Proof.Machine.execXstore g f s
  | .xpub g f => Sys2Proof.Machine.execXpub g f s
  | .xpubNow g f => Sys2Proof.Machine.execXpubNow g f s
  | .xdrop g f => Sys2Proof.Machine.execXdrop g f s
  | .xwld g f => Sys2Proof.Machine.execXwld g f s
  | .xgath g f => Sys2Proof.Machine.execXgath g f s
  | .xpermTr g f => Sys2Proof.Machine.execXpermTr g f s
  | .xpermIdx g f => Sys2Proof.Machine.execXpermIdx g f s
  | .xftl g f => Sys2Proof.Machine.execXftl g f s
  | .xfte g f => Sys2Proof.Machine.execXfte g f s
  | .xqnt g f => Sys2Proof.Machine.execXqnt g f s
  | .xqntFix g f => Sys2Proof.Machine.execXqntFix g f s
  | .xhist g f => Sys2Proof.Machine.execXhist g f s
  | .xhlat g f => Sys2Proof.Machine.execXhlat g f s
  | .xdfnc g f => Sys2Proof.Machine.execXdfnc g f s
  | .xwait g f => Sys2Proof.Machine.execXwait g f s
  | .xfill g f => Sys2Proof.Machine.execXfill g f s
  | _ => .next s

/-- Goes on from a next state. -/
def outThen (o : Out) (f : State → Out) : Out :=
  match o with
  | .next s => f s
  | o => o

/-- The four slots of a bundle in the order S, V, M, X. -/
def runSlots (b : Bundle) (s : State) : Out :=
  outThen (runSlot b.s s) (fun s => outThen (runSlot b.v s) (fun s => outThen (runSlot b.m s) (runSlot b.x)))

/-! ## Tile cores -/

/-- One A-clock passes on a core; GCLK counts from the issue of its routine's first bundle on (R410). -/
def State.clock (s : State) (c : Fin 320) : State := s.modCore c (fun k => if k.gon then { k with gclk := k.gclk + 1 } else k)

/-- The breakpoint of core d that names the bundle about to issue on k (R407). -/
def Core.bpHit (d k : Core) (other : Bool) : Option Nat :=
  (List.range 4).find? (fun i =>
    let tag := d.shadow (0x1028 + 16 * i)
    bit tag 0 && (!other || bit tag 1) && d.shadow (0x1020 + 16 * i) == k.fr.scyc && bits tag 45 30 == k.fr.img.toNat && bits tag 29 17 == k.fr.rtn / 32)

/-- The breakpoint that stops core c before its bundle: its own, or one of another core of the context with ANY. The bundle resumed after a breakpoint stop
is not matched again, and one that is stepped is not matched (R406, R407). -/
def State.bpStop (s : State) (c : Fin 320) : Option Nat :=
  let k := s.core c
  if k.hs.isSome || k.resumed (if k.dbg.step then none else some 0x11) then none
  else match k.bpHit k false with
    | some i => some i
    | none => (List.finRange 320).findSome? (fun d =>
        if d == c || (s.core d).tilectx != k.tilectx || (s.core d).dbg.shadow.isEmpty then none else (s.core d).bpHit k true)

/-- The halter stops core c before the bundle that it would issue: a latch tick with STOP has come (R416), or that of a divergence (R420). -/
def State.haltDue (s : State) (c : Fin 320) : Bool := (s.core c).dbg.halt

/-- The stop that core c takes before the bundle that it would issue: the cause, whether by a breakpoint register, its index (R407, R416). -/
def State.stopNow (s : State) (c : Fin 320) : Option (BitVec 8 × Bool × Nat) :=
  if s.haltDue c then some (0, false, 0) else (s.bpStop c).map (fun i => (0x11, true, i))

/-- After bundle b issued or trapped on core c: what was suppressed for it alone is so no more, and a step ends (R406). -/
def State.stepEnd (s : State) (c : Fin 320) (b : Nat × Word × Bool) : State :=
  let s := s.modCore c (fun k => { k with dbg := { k.dbg with supp := k.dbg.supp.filter (fun x => x.2 != b) } })
  if (s.core c).dbg.step && (s.core c).task.isSome then s.stopCore c 0x12 false 0 else s

/-- The level count of the running body (R67, R373). -/
def Core.bodyLevels (k : Core) : Nat :=
  match k.loops.run with
  | some n => if k.hs.isNone && n.start ≤ k.fr.pc && k.fr.pc < n.start + 32 * n.n then n.m else 0
  | none => 0

/-- The traps a bundle raises at decode on core c (R67, R189), else the bundle. -/
def State.coreCheck (s : State) (c : Fin 320) (w : BitVec 256) : Except Trap Bundle :=
  let k := s.core c
  match checkBundle false k.bodyLevels w with
  | .error p => .error { (mkTrap .illegalBundle (BitVec.ofNat 64 p.toNat) 0) with slot := if p.toNat < 4 then some (p.truncate 2) else none }
  | .ok b =>
    if k.hs.isSome && (match b.m with
      | .nop _ => false
      | .mfwait _ _ => false
      | .mres _ _ => false
      | _ => true)
    then .error (mkTrap .matrixInHandler ((w.extractLsb' 136 8).zeroExtend 64) 2)
    else .ok b

/-- A bundle that issues enters its cinch segment, unless it is a CINCH that is not deselected or runs in handler mode (R110). -/
def Core.cinchIn (k : Core) (w : BitVec 256) (b : Bundle) : Core :=
  let own := match b.s with
    | .cinch f => k.selects f.q f.lvl
    | _ => false
  if k.hs.isSome || own then k
  else { k with cinchN := k.cinchN + 1, cinchC := (leBytes 32 w.toNat).foldl crc32cByte k.cinchC }

/-- A bundle of core c that passed decode: its slots, and then a stall, a trap, or its end. -/
def State.issueCore (s : State) (c : Fin 320) (w : BitVec 256) (b : Bundle) : Out :=
  let k := s.core c
  let s1 := s.landDue
  let s1 := { s1 with iss := { Issue.idle with bundle := true, rings0 := some k.rings, outs0 := some k.fr.outs, phase0 := some k.ph.num, seq0 := some k.issued } }
  outThen (runSlots b s1) (fun s2 =>
    match s2.iss.traps, s2.iss.stall with
    | some t, _ => .next (if k.stopsAt t then (s.endStall c).raise t else (((s.clock c).endStall c).raise t).stepEnd c k.bun)
    | none, some (why, detail) =>
      let s := match s2.iss.send with
        | some (r, d) => s.sendSlot r d
        | none => s.onStall why detail
      .next ((s.noteStall c (if why = 0xF1 then (1, 0) else (why, detail))).clock c)
    | none, none =>
      if s2.fallsOff then .next ((((s.clock c).endStall c).raise xferTrap).stepEnd c k.bun)
      else
        let s3 := (s2.endStall c).modCore c (fun k =>
          { k.cinchIn w b with
            gclk := if k.gon || k.hs.isNone then k.gclk + 1 else k.gclk, gon := k.gon || k.hs.isNone,
            idle := if k.hs.isSome then k.idle else s.tb.toNat, wper := if k.hs.isSome then k.wper else s.plat.wdog })
        .next (s3.finish.stepEnd c k.bun))

/-- One A-clock of core c with a word at its pc. -/
def State.coreBundle (s : State) (c : Fin 320) (w : BitVec 256) : Out :=
  let k := s.core c
  match k.task with
  | none => .next s
  | some t =>
    if k.stopped then .next s
    else if t.parked || (t.frozen && !s.sSent c) || !k.ph.redo.isEmpty then .next (s.clock c)
    else if t.exiting then .next (if k.quiet then (s.endStall c).exitEnd c else (s.noteStall c (14, 0)).clock c)
    else match t.stopping with
      | some live => .next (if k.quietStop then (s.endStall c).softSave c live else (s.noteStall c (14, 0)).clock c)
      | none =>
        match k.hs, k.held with
        | none, h :: rest =>
          let s := s.setCore c { k with held := rest }
          .next ((if k.stopsAt h then s else s.clock c).takeTrap c h)
        | _, _ =>
          match s.stopNow c with
          | some (cause, bpn, i) => .next (s.stopCore c cause bpn i)
          | none => match s.coreCheck c w with
            | .error e => .next ((((s.clock c).endStall c).raise e).stepEnd c k.bun)
            | .ok b => s.issueCore c w b

/-! ## Sequencers -/

/-- A bundle of the expansion routine of sequencer q (R80, R293, R298). A request for pre-emption stops it at a bundle (R384). -/
def State.seqBundle (s : State) (q : Fin 16) (w : BitVec 256) : Out :=
  match s.ctx q with
  | none => .next s
  | some x =>
    if x.exp.isNone || x.pageWait || x.preReq.isSome then .next s
    else match checkBundle true 0 w with
      | .error p => .next (s.seqTrap q { (mkTrap .illegalBundle (BitVec.ofNat 64 p.toNat) 0) with slot := none })
      | .ok b =>
        let s1 := s.landDue
        let s1 := { s1 with iss := { Issue.idle with bundle := true, outs0 := some s.front.outs } }
        outThen (runSlot b.s s1) (fun s2 =>
          match s2.iss.trap, s2.iss.stall with
          | some t, _ => .next (s.raise t)
          | none, some (why, detail) => .next (match s2.iss.send with
              | some (r, d) => s.sendSlot r d
              | none => s.onStall why detail)
          | none, none => .next (if s2.fallsOff then s.raise xferTrap else s2.finish))

/-- BUNDLE (R67): the unit in hand takes one bundle. -/
def execBundle (w : BitVec 256) (s : State) : Out :=
  match s.cur with
  | .core c => s.coreBundle c w
  | .seq q => s.seqBundle q w

end Sys2Proof.Machine
end

