-- ==== Sys2Proof/Machine/VanikCtl.lean ====
section
/-! DEFINITION. Vanik control and declaration forms (chapter 9): branches and loops (R245, R246), shape arithmetic (R247), memory (R248, R249),
the format table (R250, R251), traps of the graph (R252, R253), handles and records (R231 to R239), kernels (R241 to R243). -/

namespace Sys2Proof.Machine

/-! ## A context at an instruction -/

/-- The context that decodes on the current sequencer. -/
def onSeq (s : State) (k : Fin 16 → Ctx → Out) : Out :=
  match s.cur with
  | .core _ => .next s
  | .seq q => match s.ctx q with
    | none => .next s
    | some x => k q x

/-- The value of a shape operand (R225). -/
def Ctx.sop (x : Ctx) : SOp → Word
  | .reg n => x.n[n.toFin]
  | .imm v => v

/-- Passes to the next instruction, or to where decoding goes after a repeated one (R253). -/
def Ctx.pass (x : Ctx) : Ctx := { x with vpc := x.nvpc, reexec := x.reexec.tail }

/-- Passes to a target (R245); after a repeated instruction decoding goes to RVPC whatever it is (R253). -/
def Ctx.goto (x : Ctx) (t : BitVec 48) : Ctx := if x.reexec.isEmpty then { x with vpc := t } else x.pass

def Ctx.setN (x : Ctx) (d : BitVec 6) (v : Word) : Ctx := { x with n := x.n.set d.toFin v }

/-- The address a branch offset gives (R245). -/
def Ctx.rel (x : Ctx) (off : Word) : BitVec 48 := x.vpc + off.setWidth 48

/-- A trap of the instruction at VPC (KIND 0, R252); a fused group that is open is given up (R280). -/
def State.vTrap (s : State) (q : Fin 16) (op : BitVec 8) (c : Cause) (info : Nat) (hnd : Option (BitVec 8)) : Out :=
  match s.ctx q with
  | none => .next s
  | some x => .next (s.ctxTrap q c (BitVec.ofNat 64 info) hnd op 0 0 x.nvpc)

/-- A form other than an operator: inside a fused group it raises VBC_ILLEGAL (R280). -/
def ctlForm (op : BitVec 8) (s : State) (k : Fin 16 → Ctx → Out) : Out :=
  onSeq s fun q x => if x.fuse.isSome then s.vTrap q op .vbcIllegal 0 none else k q x

/-- Completes an instruction with the context x. -/
def State.vDone (s : State) (q : Fin 16) (x : Ctx) : Out := .next (s.setCtx q x.pass)

/-- What an access of the instruction at VPC does next; a wait leaves the state as it was before the instruction. -/
def SeqRes.vk (r : SeqRes) (s : State) (q : Fin 16) (op : BitVec 8) (hnd : Option (BitVec 8)) (k : Nat → State → Out) : Out :=
  match r with
  | .val v s => k v s
  | .trap t =>
    let s := s.trapLeft (.seq q) t
    if t.cause = .fatalHw then .next ((s.countUe 0).fatalCtx (s.strike .fatalHw none) q) else s.vTrap q op t.cause t.info.toNat hnd
  | .park => .next (s.modCtx q (fun x => { x with pageWait := true }))
  | .wait => .next s
  | .full d => .next (s.askSpill d)
  | .send r d => .next (s.sendReq r d)

/-! ## Branches, calls and loops (R245, R246) -/

/-- GJMP (R245) -/
def execGjmp (off : Word) (s : State) : Out := ctlForm 0x01 s fun q x => .next (s.setCtx q (x.goto (x.rel off)))

/-- GBR (R245) -/
def execGbr (g : BitVec 3) (inv : Bool) (off : Word) (s : State) : Out :=
  ctlForm 0x02 s fun q x => if x.g.getLsbD g.toNat != inv then .next (s.setCtx q (x.goto (x.rel off))) else s.vDone q x

/-- GCALL (R245) -/
def execGcall (off : Word) (s : State) : Out :=
  ctlForm 0x03 s fun q x =>
    if 16 ≤ x.calls.length then s.vTrap q 0x03 .stack 0 none
    else .next (s.setCtx q ({ x with calls := (x.avpc, x.ldepth) :: x.calls }.goto (x.rel off)))

/-- GRET (R245) -/
def execGret (s : State) : Out :=
  ctlForm 0x04 s fun q x =>
    match x.calls with
    | [] => s.vTrap q 0x04 .stack 0 none
    | (v, l) :: rest => if x.ldepth ≠ l then s.vTrap q 0x04 .stack 0 none else .next (s.setCtx q ({ x with calls := rest }.goto v))

/-- GLOOP (R246) -/
def execGloop (c : BitVec 6) (count : SOp) (exit : Word) (s : State) : Out :=
  ctlForm 0x05 s fun q x =>
    let n := x.sop count
    if n.toInt ≤ 0 then .next (s.setCtx q (x.goto (x.rel exit)))
    else if x.ldepth = 8 then s.vTrap q 0x05 .stack 0 none
    else s.vDone q { (x.setN c 0) with loops := (c, n, x.avpc) :: x.loops, ldepth := x.ldepth + 1 }

/-- GENDL (R246) -/
def execGendl (s : State) : Out :=
  ctlForm 0x06 s fun q x =>
    match x.loops with
    | [] => s.vTrap q 0x06 .stack 0 none
    | (c, n, start) :: rest =>
      let v := x.n[c.toFin] + 1
      let x1 := x.setN c v
      if v.toInt < n.toInt then .next (s.setCtx q (x1.goto start))
      else s.vDone q { x1 with loops := rest, ldepth := x.ldepth - 1 }

/-! ## Signals of a graph (R287) and launch packets (R435) -/

/-- The scope that the address of a signal word fixes (R287). -/
def State.sigScope (s : State) (pa : Nat) : BitVec 4 :=
  if isHostWin pa then 6 else if isPeerWin pa then (if bit (s.plat.slots.get (peerSlotOf pa)) 62 then 8 else 7) else 5

/-- The atomic of a SIGNAL: operation 0 set, 1 add; to a window it waits until every write of the context's operators there has left (R287, R125). -/
def State.signalAtom (s : State) (q : Fin 16) (x : Ctx) (va : Nat) (op : BitVec 4) (v : Word) : SeqRes :=
  match s.seqCheck q x va 8 true with
  | .trap t => .trap t
  | .park => .park
  | .ok _ pa _ =>
    if (isWin pa) && s.plat.reqs.any (fun r => r.osq == q && r.kind == 1 && r.held) then .wait
    else s.seqAtom q x (s.sigScope pa) op va 8 v.toNat 0

/-- The valid and enabled queue whose context slot is the context's (R435). -/
def State.queueOf (s : State) (x : Ctx) : Option Nat :=
  (List.range 64).find? (fun k => let w := s.queueW k 0
                                  bit w 63 && bit w 62 && bits w 57 52 == x.slot.toNat)

/-- Takes the next packet of the serving context on sequencer q, if one waits, and its wake is spent (R435); during a live update of the queue firmware packets
wait in the ring (R435, R449). -/
def State.takePacket (s : State) (q : Fin 16) : State :=
  if bit s.plat.fwctl 2 then s else
  match s.ctx q with
  | none => s
  | some x => match s.queueOf x with
    | none => s
    | some k =>
      let w0 := s.queueW k 0
      let w2 := s.queueW k 2
      let head := bits w2 31 0
      if head = bits w2 63 32 then s
      else
        let pa := bits w0 51 6 * 64 + 64 * (head % 2 ^ (4 + bits w0 61 58))
        let f (o n : Nat) : Word := BitVec.ofNat 64 (s.readP (pa + o) n)
        let n := (List.range 5).foldl (fun (v : Vector Word 64) i => v.set (Fin.ofNat 64 i) (f (16 + 8 * i) 8)) x.n
        let n := (n.set 5 (f 56 4)).set 6 (f 60 4)
        let s := s.setQueueW k 2 (setBits w2 31 0 (head + 1))
        { s with plat := { s.plat with wakes := s.plat.wakes.erase (Fin.ofNat 64 k) } }.setCtx q
          { x with n := n, ldepth := 1, awaits := false, reply := f 8 8, vpc := x.entry + (f 4 4).setWidth 48, reexec := [] }

/-- GEND (R245, R435): waits for every operator, then the graph ends. -/
def execGend (s : State) : Out :=
  ctlForm 0x00 s fun q x =>
    if x.calls ≠ [] ∨ x.ldepth ≠ 1 then s.vTrap q 0x00 .stack 0 none
    else if x.invs ≠ [] then .next s
    else
      let fin (s : State) : State :=
        let srv := (s.queueOf x).isSome
        let s := s.modCtx q (fun x => { x with ldepth := 0, reply := 0, done := !srv, awaits := srv, reexec := [] })
        s.takePacket q
      if x.reply = 0 then .next (fin s) else (s.signalAtom q x x.reply.toNat 1 1).vk s q 0x00 none fun _ s => .next (fin s)

/-- SERVING_CONTEXT_WAKE (R435): a parked serving context takes its next packet. -/
def execServingContextWake (q : Fin 16) (s : State) : Out :=
  if (s.ctx q).any (·.awaits) then .next (s.takePacket q) else .next s

/-! ## Traps of the graph (R252, R253) -/

/-- TRAPH (R252) -/
def execTraph (off : Word) (s : State) : Out :=
  ctlForm 0x07 s fun q x => s.vDone q { x with th := if off = 0 then 0 else x.rel off }

/-- Delivers the first held kernel fault that may be delivered at this boundary, RVPC being where issue has reached (R253, R293). While
INTRAP is set only a fault of an operator that the handler issued is, and it parks the context. A fused group is not cut. -/
def State.deliverHeld (s : State) (q : Fin 16) : State :=
  match s.ctx q with
  | none => s
  | some x =>
    let may (r : Report) : Bool := !x.intrap || x.trap0 ≤ r.uid.getD 0
    if x.fuse.isSome || x.parked then s
    else match x.held.find? may with
    | none => s
    | some r => (s.setCtx q { x with held := x.held.erase r, rvpc := x.vpc }).deliver q r

/-- An invocation with every output published (R300, R253). -/
def Inv.publish (i : Inv) : Inv := { i with opnds := i.opnds.map (fun (o : Opnd) => if o.role = 0 then o else { o with pub := true }) }

/-- TRAPRET (R253): the outputs of an operator whose kernel fault was handled are published, INTRAP clears, decoding goes on as `f` says,
and a kernel fault that was held is delivered. -/
def trapRet (s : State) (f : Ctx → Ctx) : Out :=
  ctlForm 0x08 s fun q x =>
    if !x.intrap then s.vTrap q 0x08 .vbcIllegal 0 none
    else if x.trapD ≠ (x.calls.length, x.ldepth) then s.vTrap q 0x08 .stack 0 none
    else
      let x : Ctx := match x.trapUid with
        | some u => x.modInv u Inv.publish
        | none => x
      .next (((s.setCtx q (f { x with intrap := false, trapUid := none })).armRecs q).deliverHeld q)

/-- TRAPRET_RVPC (R253) -/
def execTrapretRvpc (s : State) : Out := trapRet s (fun x => { x with vpc := x.rvpc, reexec := x.rsave })

/-- TRAPRET_REEXEC (R253): the instruction at FVPC once more, then RVPC. -/
def execTrapretReexec (s : State) : Out := trapRet s (fun x => { x with vpc := x.fvpc, reexec := x.rvpc :: x.rsave })

/-- TRAPRET_TARGET (R253) -/
def execTrapretTarget (target : SOp) (s : State) : Out :=
  trapRet s (fun x => { x with vpc := (x.sop target).setWidth 48, reexec := [] })

/-- KERNEL_FAULT_DELIVERY (R252, R253, R293): at an instruction boundary with no expansion routine running. -/
def execKernelFaultDelivery (q : Fin 16) (s : State) : Out :=
  if (s.ctx q).any (fun x => x.exp.isNone) then .next (s.deliverHeld q) else .next s

/-! ## The format table (R250, R251) -/

/-- FMTSET (R250) -/
def execFmtset (i : BitVec 4) (v : Word) (s : State) : Out :=
  ctlForm 0x09 s fun q x =>
    match ftBad v with
    | some b => s.vTrap q 0x09 .format (b % 256) none
    | none => s.vDone q { x with ft := x.ft.set i.toFin v }

/-- FMTLOOP (R251) -/
def execFmtloop (lvl : BitVec 3) (en : Bool) (base : BitVec 4) (s : State) : Out :=
  ctlForm 0x0A s fun q x =>
    if en && 6 ≤ lvl.toNat then s.vTrap q 0x0A .format lvl.toNat none
    else s.vDone q { x with ftb := BitVec.ofNat 8 (lvl.toNat + 8 * b2n en + 16 * base.toNat) }

/-! ## Shape arithmetic (R247) -/

/-- NLI (R247) -/
def execNli (d : BitVec 6) (imm : Word) (s : State) : Out := ctlForm 0x10 s fun q x => s.vDone q (x.setN d imm)

/-- An exact NALU result lies in the range of a shape register. -/
def inRange64 (z : Int) : Bool := -(2 ^ 63 : Int) ≤ z && z < 2 ^ 63

/-- The exact result of a NALU operation on signed values; none where R247 raises SHAPE. -/
def naluVal (op : Nat) (a b : Word) : Option Int :=
  let x := a.toInt
  let y := b.toInt
  let chk (z : Int) : Option Int := if inRange64 z then some z else none
  match op with
  | 0 => chk (x + y)
  | 1 => chk (x - y)
  | 2 => chk (x * y)
  | 3 => if y = 0 then none else chk (Int.fdiv x y)
  | 4 => if y = 0 then none else chk (-(Int.fdiv (-x) y))
  | 5 => some (min x y)
  | 6 => some (max x y)
  | 7 => some (a &&& b).toInt
  | 8 => some (a ||| b).toInt
  | 9 => if 0 ≤ y ∧ y ≤ 63 then chk (x * (2 ^ y.toNat : Nat)) else none
  | _ => if 0 ≤ y ∧ y ≤ 63 then some (Int.fdiv x (2 ^ y.toNat : Nat)) else none

/-- NALU: nD takes the result; SHAPE names the operation and leaves nD (R247). -/
def nalu (op : Nat) (d : BitVec 6) (a b : SOp) (s : State) : Out :=
  ctlForm 0x11 s fun q x =>
    match naluVal op (x.sop a) (x.sop b) with
    | some z => s.vDone q (x.setN d (wordOf z))
    | none => s.vTrap q 0x11 .shape op none

/-- NALU_ADD (R247) -/
def execNaluAdd (d : BitVec 6) (a b : SOp) (s : State) : Out := nalu 0 d a b s
/-- NALU_SUB (R247) -/
def execNaluSub (d : BitVec 6) (a b : SOp) (s : State) : Out := nalu 1 d a b s
/-- NALU_MUL (R247) -/
def execNaluMul (d : BitVec 6) (a b : SOp) (s : State) : Out := nalu 2 d a b s
/-- NALU_FLOORDIV (R247) -/
def execNaluFloordiv (d : BitVec 6) (a b : SOp) (s : State) : Out := nalu 3 d a b s
/-- NALU_CEILDIV (R247) -/
def execNaluCeildiv (d : BitVec 6) (a b : SOp) (s : State) : Out := nalu 4 d a b s
/-- NALU_MIN (R247) -/
def execNaluMin (d : BitVec 6) (a b : SOp) (s : State) : Out := nalu 5 d a b s
/-- NALU_MAX (R247) -/
def execNaluMax (d : BitVec 6) (a b : SOp) (s : State) : Out := nalu 6 d a b s
/-- NALU_AND (R247) -/
def execNaluAnd (d : BitVec 6) (a b : SOp) (s : State) : Out := nalu 7 d a b s
/-- NALU_OR (R247) -/
def execNaluOr (d : BitVec 6) (a b : SOp) (s : State) : Out := nalu 8 d a b s
/-- NALU_SHL (R247) -/
def execNaluShl (d : BitVec 6) (a b : SOp) (s : State) : Out := nalu 9 d a b s
/-- NALU_SHR (R247) -/
def execNaluShr (d : BitVec 6) (a b : SOp) (s : State) : Out := nalu 10 d a b s

/-- The signed comparison a condition code selects (R247). -/
def ncmpVal (cc : BitVec 3) (a b : Word) : Bool :=
  match cc.toNat with
  | 0 => a == b
  | 1 => a != b
  | 2 => decide (a.toInt < b.toInt)
  | 3 => decide (a.toInt ≤ b.toInt)
  | 4 => decide (b.toInt < a.toInt)
  | _ => decide (b.toInt ≤ a.toInt)

/-- NCMP (R247) -/
def execNcmp (cc g : BitVec 3) (a b : SOp) (s : State) : Out :=
  ctlForm 0x12 s fun q x =>
    let m : BitVec 8 := 1#8 <<< g.toNat
    s.vDone q { x with g := if ncmpVal cc (x.sop a) (x.sop b) then x.g ||| m else x.g &&& ~~~ m }

/-! ## Handles and records (R231 to R239) -/

def Ctx.hnd (x : Ctx) (t : BitVec 8) : Option THnd := (x.hnds.find? (fun h => h.1 == t.toNat)).map (·.2)
def Ctx.delHnd (x : Ctx) (t : BitVec 8) : Ctx := { x with hnds := x.hnds.filter (fun h => h.1 != t.toNat) }

/-- Binds a handle; the list stays in ascending handle order. -/
def Ctx.setHnd (x : Ctx) (t : BitVec 8) (h : THnd) : Ctx :=
  { x with hnds := x.hnds.filter (fun e => e.1 < t.toNat) ++ [(t.toNat, h)] ++ x.hnds.filter (fun e => t.toNat < e.1) }

/-- n bytes of a record at an offset. -/
def recF (r : Nat) (o n : Nat) : Nat := r / 2 ^ (8 * o) % 2 ^ (8 * n)

/-- The first non-zero byte among the bytes from `o` on. -/
def recZero (r o n : Nat) : Option Nat := (List.range n).findSome? (fun i => if recF r (o + i) 1 = 0 then none else some (o + i))

/-- The first failing condition of R232 on a record's 128 bytes. -/
def recBad (r : Nat) : Option (Cause × Nat) :=
  let fmt := BitVec.ofNat 8 (recF r 8 1)
  let rank := recF r 9 1
  let fl := recF r 10 1
  let scl := fl % 2 = 1
  let w := codeWidth fmt
  let dim (d : Nat) : Nat := recF r (16 + 4 * d) 4
  let str (d : Nat) : Nat := recF r (40 + 8 * d) 8
  let sh := recF r 96 8
  if !codeKnown fmt then some (.format, fmt.toNat)
  else if recF r 6 2 ≠ 0 || (8 ≤ w && recF r 0 6 % (w / 8) != 0) then some (.record, 0)
  else if scl && w ≠ 8 && w ≠ 4 then some (.record, 8)
  else if 6 < rank then some (.record, 9)
  else if 8 ≤ fl then some (.record, 10)
  else if recF r 11 1 ≠ 1 then some (.record, 11)
  else match recZero r 12 4 with
  | some o => some (.record, o)
  | none => match (List.range 6).find? (fun d => rank ≤ d && dim d != 1) with
    | some d => some (.record, 16 + 4 * d)
    | none =>
      if scl && str 0 ≠ 1 then some (.record, 40)
      else match (List.range 6).find? (fun d => rank ≤ d && str d != 0) with
        | some d => some (.record, 40 + 8 * d)
        | none =>
          if recF r 94 2 ≠ 0 then some (.record, 88)
          else if nbits sh 63 56 ≠ 0 then some (.record, 96)
          else if fl / 2 % 2 = 1 && (nbits sh 55 40 = 0 || nbits sh 55 40 ≤ nbits sh 39 24 || rank ≤ nbits sh 23 16) then some (.record, 96)
          else (recZero r 104 24).map (fun o => (.record, o))

/-- A record's fields (R231). -/
def recOf (r : Nat) : TRec :=
  let fl := recF r 10 1
  let sh := recF r 96 8
  { base := recF r 0 6, fmt := BitVec.ofNat 8 (recF r 8 1), rank := recF r 9 1, scl := fl % 2 = 1, shd := fl / 2 % 2 = 1, ro := fl / 4 % 2 = 1,
    dim := (List.range 6).map (fun d => recF r (16 + 4 * d) 4), str := (List.range 6).map (fun d => sintOf 64 (recF r (40 + 8 * d) 8)),
    sbase := recF r 88 6, mesh := nbits sh 15 0, axis := nbits sh 23 16, index := nbits sh 39 24, count := nbits sh 55 40 }

/-- Reads and checks the record at address a (R232 to R234). -/
def State.readRec (s : State) (q : Fin 16) (x : Ctx) (a : Nat) (k : Nat → State → SeqRes) : SeqRes :=
  if 2 ^ 48 ≤ a then .fault .extentMiss (BitVec.ofNat 64 (65536 * (a % 2 ^ 48)))
  else if a % 128 ≠ 0 then .fault .record 0
  else match s.seqRead q x none false a 64 with
    | .val v s => match s.seqRead q x none false (a + 64) 64 with
      | .val w s =>
        let r := v + w * 2 ^ 512
        (match recBad r with
          | some (c, o) => .fault c (BitVec.ofNat 64 o)
          | none => k r s)
      | e => e
    | e => e

/-- An invocation in flight names handle t. -/
def Ctx.names (x : Ctx) (t : BitVec 8) : Bool := x.invs.any (fun i => i.opnds.any (fun o => o.hnd == t))

/-- Another handle of the context or an invocation in flight has a root. -/
def Ctx.rootUsed (x : Ctx) (t : BitVec 8) (r : Nat) : Bool :=
  x.hnds.any (fun h => h.1 != t.toNat && h.2.root == r) || x.invs.any (fun i => i.opnds.any (fun o => o.root == r))

/-- The first root from r on, in steps of 256, that nothing else has. -/
def Ctx.rootFrom (x : Ctx) (t : BitVec 8) : Nat → Nat → Nat
  | 0, r => r
  | fuel + 1, r => if x.rootUsed t r then Ctx.rootFrom x t fuel (r + 256) else r

/-- The root of a handle that TDECL binds: its scoreboard entry has no pending producer, though operators that named a view of the old binding are
still in flight (R235, R236). -/
def Ctx.newRoot (x : Ctx) (t : BitVec 8) : Nat := x.rootFrom t 65536 t.toNat

/-- TDECL (R235): an invalid record leaves Tn unbound. -/
def execTdecl (t : BitVec 8) (rel : Bool) (addr : SOp) (s : State) : Out :=
  ctlForm 0x20 s fun q x =>
    if (x.hnd t).isSome && x.names t then .next s
    else
      let a := (x.sop addr + if rel then x.vpc.setWidth 64 else 0).toNat
      let gone := s.setCtx q (x.delHnd t)
      match s.readRec q x a (fun r s => .val r s) with
      | .trap e => SeqRes.vk (.trap e) gone q 0x20 (some t) (fun _ s => .next s)
      | r => r.vk s q 0x20 (some t) fun r s => s.vDone q (x.setHnd t { addr := some a, root := x.newRoot t, tr := recOf r, own := none })

/-- TVIEW (R236) -/
def execTview (v src : BitVec 8) (d : BitVec 3) (start len : SOp) (s : State) : Out :=
  ctlForm 0x21 s fun q x =>
    match x.hnd src with
    | none => s.vTrap q 0x21 .handle 0 (some src)
    | some h =>
      let t := h.tr
      let st := (x.sop start).toInt
      let ln := (x.sop len).toInt
      let e := st * t.str.getD d.toNat 0
      if t.rank ≤ d.toNat || st < 0 || ln < 0 || (t.dim.getD d.toNat 1 : Int) < st + ln || (codeWidth t.fmt == 4 && e % 2 != 0) then
        s.vTrap q 0x21 .shape 0 (some src)
      else
        let b := ((t.base : Int) + Int.fdiv (e * codeWidth t.fmt) 8) % (2 ^ 48 : Nat)
        s.vDone q (x.setHnd v { addr := none, root := h.root, own := none,
                                tr := { t with base := b.toNat, dim := t.dim.set d.toNat ln.toNat } })

/-- The lowest-addressed free run of n bytes at a 256-byte boundary of a heap with the given allocations (R237). -/
def heapFit (heap : Nat × Nat) (allocs : List (Nat × Nat)) (n : Nat) : Option Nat :=
  let up (a : Nat) : Nat := (a + 255) / 256 * 256
  let free (a : Nat) : Bool := heap.1 ≤ a && a + n ≤ heap.1 + heap.2 && allocs.all (fun r => a + n ≤ r.1 || r.1 + r.2 ≤ a)
  ((up heap.1 :: allocs.map (fun r => up (r.1 + r.2))).filter free).foldl (fun m a => match m with
    | none => some a
    | some b => some (min a b)) none

/-- The data span and the scale offset that TALLOC gives a tensor, and the whole size (R237). -/
def TRec.heapNeed (t : TRec) : Nat × Nat :=
  let e : Int := (t.dim.zip t.str).foldl (fun a p => a + ((p.1 : Int) - 1) * p.2) 1
  let data := if t.empty then 1 else ((e * codeWidth t.fmt + 7) / 8).toNat
  let sofs := (data + 255) / 256 * 256
  (sofs, if t.scl then (sofs + t.scaleLen + 255) / 256 * 256 else sofs)

/-- REGION_ALLOC of the context heap (R237, R294). -/
def heapInfo (n : Nat) : Nat := 2 ^ 16 + n / 256 % 2 ^ 32 * 2 ^ 32

/-- TALLOC (R237) -/
def execTalloc (t : BitVec 8) (s : State) : Out :=
  ctlForm 0x22 s fun q x =>
    match x.hnd t with
    | none => s.vTrap q 0x22 .handle 0 (some t)
    | some h => match h.addr with
      | none => s.vTrap q 0x22 .handle 0 (some t)
      | some a =>
        let r := h.tr
        if r.base ≠ 0 || r.str.any (fun e => decide (e < 0)) then s.vTrap q 0x22 .shape 0 (some t)
        else
          let (sofs, n) := r.heapNeed
          match heapFit x.heap x.allocs n with
          | none => s.vTrap q 0x22 .regionAlloc (heapInfo n) (some t)
          | some b =>
            let r' : TRec := { r with base := b, sbase := if r.scl then b + sofs else r.sbase }
            let x' := { (x.setHnd t { h with tr := r', own := some (b, n) }) with allocs := x.allocs ++ [(b, n)] }
            (s.seqWrite q x false a 8 b).vk s q 0x22 (some t) fun _ s1 =>
              if !r.scl then s1.vDone q x'
              else (s1.seqWrite q x false (a + 88) 8 (b + sofs)).vk s q 0x22 (some t) fun _ s2 => s2.vDone q x'

/-- TFREE (R238) -/
def execTfree (t : BitVec 8) (s : State) : Out :=
  ctlForm 0x23 s fun q x =>
    match x.hnd t with
    | none => s.vTrap q 0x23 .handle 0 (some t)
    | some h =>
      if h.addr.isNone then s.vTrap q 0x23 .handle 0 (some t)
      else if x.names t then .next s
      else s.vDone q { (x.delHnd t) with allocs := x.allocs.filter (fun a => some a != h.own) }

/-- Re-reads records in order; those before a failing one have been refreshed (R239). -/
def refresh (s0 : State) (q : Fin 16) : List (BitVec 8 × THnd) → State → Out
  | [], s => match s.ctx q with
    | some x => s.vDone q x
    | none => .next s
  | (t, h) :: l, s =>
    match s.ctx q with
    | none => .next s
    | some x => match s.readRec q x (h.addr.getD 0) (fun r s => .val r s) with
      | .val r s => refresh s0 q l (s.modCtx q (fun x => x.setHnd t { h with tr := recOf r }))
      | .trap e => SeqRes.vk (.trap e) s q 0x24 (some t) (fun _ s => .next s)
      | e => e.vk s0 q 0x24 (some t) (fun _ s => .next s)

/-- RFENCE (R239) -/
def execRfence (t : BitVec 8) (s : State) : Out :=
  ctlForm 0x24 s fun q x =>
    match x.hnd t with
    | none => s.vTrap q 0x24 .handle 0 (some t)
    | some h => if h.addr.isNone then s.vTrap q 0x24 .handle 0 (some t) else refresh s q [(t, h)] s

/-- RFENCE_ALL (R239) -/
def execRfenceAll (s : State) : Out :=
  ctlForm 0x24 s fun q x => refresh s q ((x.hnds.filter (fun h => h.2.addr.isSome)).map (fun h => (BitVec.ofNat 8 h.1, h.2))) s

/-! ## Shape registers and memory (R248, R249, R216) -/

/-- A value read, extended to a shape register (R248). -/
def nldVal (sx : Bool) (n v : Nat) : Word := if sx then wordOf (sintOf (8 * n) v) else BitVec.ofNat 64 v

/-- NLD (R248) -/
def execNld (d : BitVec 6) (sx : Bool) (sz : BitVec 2) (hw : Option (BitVec 8)) (addr : SOp) (s : State) : Out :=
  ctlForm 0x13 s fun q x =>
    let a := (x.sop addr).toNat
    let n := 2 ^ sz.toNat
    let get (free : Bool) : Out := (s.seqRead q x none free a n).vk s q 0x13 hw fun v s => s.vDone q (x.setN d (nldVal sx n v))
    match hw with
    | none => get false
    | some t => match x.hnd t with
      | none => s.vTrap q 0x13 .handle 0 (some t)
      | some h =>
        if x.unpublished x.ninv h.root then .next s
        else match s.spanOf x h.tr with
          | some (lo, hi) => if lo ≤ (a : Int) ∧ ((a + n - 1 : Nat) : Int) ≤ hi then get true else s.vTrap q 0x13 .shape 0 (some t)
          | none => s.vTrap q 0x13 .shape 0 (some t)

/-- NST (R248) -/
def execNst (sz : BitVec 2) (addr v : SOp) (s : State) : Out :=
  ctlForm 0x14 s fun q x =>
    let n := 2 ^ sz.toNat
    (s.seqWrite q x false (x.sop addr).toNat n ((x.sop v).toNat % 2 ^ (8 * n))).vk s q 0x14 none fun _ s => s.vDone q x

/-- NDIM (R249) -/
def execNdim (d : BitVec 6) (dim : BitVec 3) (sel : BitVec 2) (t : BitVec 8) (s : State) : Out :=
  ctlForm 0x15 s fun q x =>
    match x.hnd t with
    | none => s.vTrap q 0x15 .handle 0 (some t)
    | some h =>
      let v : Word := match sel.toNat with
        | 0 => BitVec.ofNat 64 (h.tr.dim.getD dim.toNat 1)
        | 1 => wordOf (h.tr.str.getD dim.toNat 0)
        | 2 => BitVec.ofNat 64 h.tr.base
        | _ => BitVec.ofNat 64 h.tr.rank
      s.vDone q (x.setN d v)

/-- NDIM_CSW (R249, R13) -/
def execNdimCsw (d : BitVec 6) (s : State) : Out := ctlForm 0x15 s fun q x => s.vDone q (x.setN d x.csw)

/-- NMB (R249, R216) -/
def execNmb (i : BitVec 3) (v : SOp) (s : State) : Out :=
  ctlForm 0x16 s fun q x => s.vDone q { x with mboxP := x.mboxP.set i.toFin (x.sop v) }

/-! ## Kernels (R241 to R243) -/

/-- The dies that hold a cluster of a team. -/
def teamDies (team : BitVec 40) : BitVec 4 := bvOf 4 (fun d => (List.range 10).any (fun c => team.getLsbD (10 * d + c)))

/-- Lines of 64 bytes from va on, as a sequencer reads them. -/
def State.seqLines (s : State) (q : Fin 16) (x : Ctx) : Nat → Nat → List Byte → (List Byte → State → SeqRes) → SeqRes
  | 0, _, acc, k => k acc s
  | n + 1, va, acc, k => match s.seqRead q x none true va 64 with
    | .val v s => State.seqLines s q x n (va + 64) (acc ++ leBytes 64 v) k
    | e => e

/-- The header of an image is sound (R241, R242). -/
def Img.headOk (g : Img) : Bool :=
  g.get 0 4 == 0x314C4D5A && g.size % 32 == 0 && 64 ≤ g.size && g.size ≤ 262144 && g.nhnd ≤ 16 && g.get 14 1 < 2 && g.get 15 1 == 0 &&
  (List.range 40).all (fun i => g.get (24 + i) 1 == 0) &&
  g.codeEnd % 32 == 0 && (64 + 8 * g.nhnd ≤ g.codeEnd) && g.codeEnd ≤ g.size && g.rs g.exp &&
  g.handlers.all (fun h => g.rs h.1 && h.2 < 16)

/-- The CRC of an image (R241, R110). -/
def Img.crcOk (g : Img) : Bool := (crc32c ((List.range (g.size - 64)).map (fun i => Mem.get g.code (64 + i)))).toNat == g.get 16 4

/-- An image is bound by a kernel table entry or used by an invocation in flight (R242, R313). -/
def State.imgBound (s : State) (n : BitVec 16) : Bool :=
  ((List.finRange 16).filterMap s.ctx ++ s.dorm).any (fun x => x.kt.any (fun k => k.2.2 == n) || x.invs.any (fun i => i.img == some n))

/-- The lowest offset at which n bytes fit in the 2 MiB WCS of every die named, beside the images given (R242). -/
def wcsFit (imgs : List Img) (dies : BitVec 4) (n : Nat) : Option Nat :=
  heapFit (0, 2097152) ((imgs.filter (fun g => g.dies &&& dies != 0)).map (fun g => (g.ofs, g.size))) n

/-- Evicts unbound images, the first loaded first, until n bytes fit (R242). -/
def State.wcsRoom (s : State) (dies : BitVec 4) (n : Nat) : Nat → Option (Nat × State)
  | 0 => (wcsFit s.imgs dies n).map (fun o => (o, s))
  | fuel + 1 => match wcsFit s.imgs dies n with
    | some o => some (o, s)
    | none => match s.imgs.find? (fun g => g.dies &&& dies != 0 && !s.imgBound g.num) with
      | none => none
      | some g => State.wcsRoom { s with imgs := s.imgs.filter (fun h => h.num != g.num) } dies n fuel

/-- An image number that no loaded image has: an opaque value (R242, log 2). -/
def State.newImgNum (s : State) : BitVec 16 :=
  let f := (Config.freeWord s.free).setWidth 16
  f + BitVec.ofNat 16 (((List.range 65536).find? (fun j => (s.img (f + BitVec.ofNat 16 j)).isNone)).getD 0)

/-- Places an image that passed its checks in the WCS (R242). -/
def State.placeImg (s : State) (q : Fin 16) (x : Ctx) (d : BitVec 6) (g : Img) : Out :=
  match s.wcsRoom g.dies g.size s.imgs.length with
  | none => s.vTrap q 0x26 .regionAlloc (2 ^ 17) none
  | some (o, s) =>
    let n := s.newImgNum
    let s := { s with free := s.free + 1, imgs := s.imgs ++ [{ g with num := n, ofs := o }] }
    s.vDone q (x.setN d (n.setWidth 64))

/-- Loads an image whose bytes have been read at va; the signature of a system kernel stands after them (R241, R242). -/
def State.loadImg (s : State) (q : Fin 16) (x : Ctx) (d : BitVec 6) (va : Nat) (l : List Byte) : Out :=
  let code := (l.zipIdx).foldl (fun (m : Mem) b => m.set b.2 b.1) []
  let g : Img := { num := 0, code := code, size := l.length, dies := teamDies x.team, ofs := 0, sysv := Mem.read code 14 1 % 2 = 1 }
  if !g.headOk || !g.crcOk then s.vTrap q 0x26 .record 0 none
  else if g.sysv && !x.sysv then s.vTrap q 0x26 .priv 0 none
  else if g.sysv then
    (s.seqLines q x ((g.size % 64 + 64 * Config.sigLines + 63) / 64) (va + g.size / 64 * 64) [] (fun l s => .val (leNat l) s)).vk s q 0x26 none fun v s =>
      if Config.kernelSigOk l (leBytes (64 * Config.sigLines) (v / 2 ^ (8 * (g.size % 64)))) then s.placeImg q x d g
      else s.vTrap q 0x26 .record 0 none
  else s.placeImg q x d g

/-- KLOAD (R242) -/
def execKload (d : BitVec 6) (addr : SOp) (s : State) : Out :=
  ctlForm 0x26 s fun q x =>
    let a := (x.sop addr).toNat
    if a % 64 ≠ 0 then s.vTrap q 0x26 .misalign (65536 * (a % 2 ^ 48)) none
    else
      (s.seqLines q x 1 a [] (fun l s => .val (leNat l) s)).vk s q 0x26 none fun h _ =>
        let size := h / 2 ^ 32 % 2 ^ 32
        if size % 32 ≠ 0 ∨ size < 64 ∨ 262144 < size then s.vTrap q 0x26 .record 0 none
        else (s.seqLines q x ((size + 63) / 64) a [] (fun l s => .val (leNat l) s)).vk s q 0x26 none fun v s =>
          s.loadImg q x d a (leBytes size v)

/-- KBIND (R243) -/
def execKbind (key : BitVec 9) (sig : BitVec 32) (img : SOp) (s : State) : Out :=
  ctlForm 0x27 s fun q x =>
    let n := x.sop img
    let op := (0x40 ≤ key.toNat && key.toNat ≤ 0x55) || 0x100 ≤ key.toNat
    let here := decide (n.toNat < 65536) && s.imgs.any (fun g => g.num == n.setWidth 16 && teamDies x.team &&& ~~~ g.dies == 0)
    if !op || !here then s.vTrap q 0x27 .record 0 none
    else if x.kt.any (fun k => k.1 == key && k.2.1 == sig) then
      s.vDone q { x with kt := x.kt.map (fun k => if k.1 == key && k.2.1 == sig then (key, sig, n.setWidth 16) else k) }
    else if 512 ≤ x.kt.length then s.vTrap q 0x27 .record (2 ^ 18) none
    else s.vDone q { x with kt := x.kt ++ [(key, sig, n.setWidth 16)] }

/-! ## Bytes that decode to nothing (R227, R228) -/

/-- VBC_ILLEGAL or VBC_FETCH of the instruction at VPC with its opcode and OPX number, as far as they were fetched; its length is not known, so
RVPC is FVPC (R227, R228, R252). -/
def State.vIllegal (s : State) (q : Fin 16) (op opx : BitVec 8) (c : Cause) (info : Nat) : Out :=
  match s.ctx q with
  | none => .next s
  | some x => .next (s.ctxTrap q c (BitVec.ofNat 64 info) none op opx 0 x.vpc)

/-- UNASSIGNED_OPCODE (R227, R229) -/
def execUnassignedOpcode (b : BitVec 8) (s : State) : Out := onSeq s fun q _ => s.vIllegal q b 0 .vbcIllegal 0

/-- VBC_FETCH (R228) -/
def execVbcFetch (info : Word) (s : State) : Out := onSeq s fun q _ => s.vIllegal q 0 0 .vbcFetch info.toNat

end Sys2Proof.Machine
end

