-- ==== Sys2Proof/Machine/Context.lean ====
section
/-! DEFINITION. Contexts, dispatch and the events that act on cores from outside their programs: CHUNK_DISPATCH (R309), ENERGY_WINDOW (R311, R455,
R456), WATCHDOG (R317), WS_REFRESH (R325), SHOOTDOWN and PAGE_RESOLVED (R340, R228), errors of storage (R378), CONTEXT_CREATE (R11),
CONTEXT_ACTIVATE (R292, R384) and TEAM_CHANGE (R291). -/

namespace Sys2Proof.Machine

/-! ## Contexts that a fault strikes -/

/-- Every context: active, resident, or cut with a dump that is not written (R391). -/
def State.allCtxs (s : State) : List Ctx :=
  (List.finRange 16).filterMap s.ctx ++ s.dorm ++ (s.plat.dumps.filter (fun d => !d.done)).map (·.ctx)

/-- A fatal fault strikes contexts and ends their processes (R377, R392); `s0` is the state in which it met them. -/
def State.killCtxs (s0 : State) (cause : Cause) (l : List Ctx) (s : State) : State :=
  ((l.map (·.proc)).eraseDups).foldl (fun s p => s.killProcess (s0.strike cause none (l.map (·.slot))) p) s

/-! ## Dispatch, windows, refresh, watchdog -/

/-- CHUNK_DISPATCH (R309): none while an accepted write of PLAT.CLK waits for its boundary (R456). -/
def execChunkDispatch (q : Fin 16) (s : State) : Out :=
  .next (if s.plat.clkPend.isSome || s.plat.off then s else s.dispatch q)

/-- The A-clock of a locked point (R31). -/
def lockMhz (l : BitVec 2) : Nat := 800 + 400 * l.toNat

/-- The budget of a window (R455): UNITS, halved by a hot die and again by excess power; under REC UNITS as of boot. -/
def windowBudget (rec_ : Bool) (units : Nat) (hot excess : Bool) : Nat :=
  if rec_ then 0xFFFFFFFF else units / (if hot then 2 else 1) / (if excess then 2 else 1)

/-- THERMd.T at or above THERMd.THROT (R455, R457): T counts sixteenths of a degree. -/
def thermHot (w : Word) : Bool := 16 * bits w 39 32 ≤ bits w 15 0

/-- Core power goes: every context takes FATAL_HW, and THERM_N is asserted (R457). -/
def State.powerTrip (s : State) : State := (s.killCtxs .fatalHw s.allCtxs { s with plat := { s.plat with off := true, thermN := true } }).logEnd

/-- THERMd.T at or above THERMd.TRIP (R457). -/
def thermTrip (w : Word) : Bool := 16 * bits w 47 40 ≤ bits w 15 0

/-- The package power averaged over 1 ms exceeds PWR.LIMIT.W, or has exceeded it and has not fallen below it since (R455). -/
def powerExcess (was : Bool) (limit : Word) (avg : Nat) : Bool := bits limit 10 0 < avg || (was && bits limit 10 0 ≤ avg)

/-- ENERGY_WINDOW (R311, R455 to R457): the first event of a 10 µs window sets every die's budget and clock, from the temperatures and the power
as the sensors then give them (log 2). In each window the resident kernel writes 64 pages of the oldest core dump that is due (R391; log 36). -/
def execEnergyWindow (s : State) : Out :=
  let now := windowOf s.tb.toNat
  if now = s.plat.window then .next s
  else
    let f (i : Nat) : Word := Config.freeWord (s.free + i)
    let therm : Vector Word 5 := Vector.ofFn (fun d => setBits s.plat.therm[d] 15 0 (bits (f d.val) 15 0))
    let excess := powerExcess s.plat.excess s.plat.pwr (bits (f 5) 15 0)
    let lpt := s.plat.clkPend.getD s.plat.lpt
    let dies := Vector.ofFn (fun (d : Fin 4) =>
      let x := s.dies[d]
      { x with budget := windowBudget s.rec_ (bits s.plat.govBud[d] 31 0) (thermHot (therm.toList.getD d.val 0)) excess,
               mhz := BitVec.ofNat 16 (if lpt = 0 then 800 + 100 * (Config.freeMhzStep d.val now % 13) else lockMhz lpt) })
    let s := { s with free := s.free + 6, dies := dies,
                      plat := { s.plat with therm := therm, excess := excess, window := now, lpt := lpt, clkPend := none } }
    .next ((if therm.toList.any thermTrip && !s.plat.off then s.powerTrip else s).dumpWork 64)

/-- WATCHDOG (R317, R459): a task that has issued no bundle outside handler mode for the period in force when its count restarted. -/
def execWatchdog (c : Fin 320) (s : State) : Out :=
  let k := s.core c
  if k.task.isNone || !k.counting || s.tb.toNat - k.idle < k.wper then .next s
  else .next (s.kernelFault c { cause := .watchdog, info := 0, slot := none, ring := none, tensor := none, async := false, note := [] })

/-- WS_REFRESH (R325): the group that refreshes is ⌊TB / 2000⌋ mod 16. -/
def execWsRefresh (s : State) : Out := .next { s with plat := { s.plat with rgrp := s.tb.toNat / 2000 % 16 } }

/-! ## Shootdowns and pages (R340) -/

/-- A cached leaf overlaps a range of a context slot (R337, R340). -/
def leafHit (slot : BitVec 6) (va len : Nat) (e : BitVec 6 × Nat × Nat × Word) : Bool :=
  e.1 == slot && e.2.1 < va + len && va < e.2.1 + 2 ^ (12 + lfSz e.2.2.2)

/-- An extent of a core's task overlaps a range (R340). -/
def Core.revokes (k : Core) (va len : Nat) : Bool :=
  k.e.toList.any (fun e => exV e && exBase e < va + len && va < exBase e + exLen e)

/-- What a shootdown does to core c: a revocable phase is cancelled and the task parks in place; an irrevocable one parks after its commit. -/
def State.revoke (s : State) (c : Fin 320) : State :=
  let k := s.core c
  if k.task.any (·.parked) then s
  else if k.ph.irrev then s.setCore c { k with revoked := true }
  else (s.cancelPhase c).modCore c (fun k => k.park s.tb.toNat)

/-- SHOOTDOWN (R340 step 2) -/
def execShootdown (slot : BitVec 6) (va len : BitVec 48) (s : State) : Out :=
  let s1 := { s with dies := s.dies.map (fun d => if d.tlb.any (leafHit slot va.toNat len.toNat)
                                                  then { d with tlb := d.tlb.filter (fun e => !leafHit slot va.toNat len.toNat e) } else d) }
  let cs := (List.finRange 320).filter (fun c =>
    let k := s.core c
    k.task.isSome && s.slotOf c == slot.toNat && k.revokes va.toNat len.toNat)
  let s2 := cs.foldl State.revoke s1
  .next { s2 with plat := { s2.plat with shoots := s2.plat.shoots ++ [{ slot := slot, va := va.toNat, len := len.toNat, acks := 0 }] } }

/-- The virtual ranges that a command of core k names; before an XGATH has read its pointers, all that it could name (R199 to R215). -/
def Cmd.spans (k : Core) (m : Cmd) : List (Nat × Nat) :=
  let h := k.rings[m.h.toFin].h
  let a := m.a.toNat
  match m.op.toNat with
  | 0x01 => [(a, copySrcLen m h * (m.imm + 1))]
  | 0x02 => (List.range (m.imm + 1)).map (fun r => (m.rowAt r, m.c.toNat))
  | 0x03 => [(a, storeLen m.fmt h * (m.imm + 1))]
  | 0x04 | 0x05 => [(a, 1)]
  | 0x06 => if m.fmt = 0x40 then [(a, m.b.toNat)] else (List.range 128).map (fun j => (m.colAt j, colLen m.fmt))
  | 0x07 =>
    let f (o n : Nat) : Nat := k.getScr (a + o) n
    let nk := k.gathRows m
    if m.unit < nk then [(0, 2 ^ 64)]
    else
      let w := codeWidth m.fmt
      (f 0 8 + 4 * f 24 4, 4 * (nk + 1)) :: (List.range nk).flatMap (fun r =>
        let x0 := Mem.read m.acc (gathPtr r) 4
        let n := Mem.read m.acc (gathPtr r + 4) 4 - x0
        [(f 8 8 + 4 * x0, 4 * n), (f 16 8 + x0 * w / 8, (n * w + 7) / 8)])
  | 0x09 => [(a, 1152)]
  | 0x0E => [(a, m.b.toNat)]
  | _ => []

/-- A command of core k that is not over names an extent that overlaps a range (R340). -/
def Core.names (k : Core) (va len : Nat) : Bool :=
  let ex := k.e.toList.filter (fun e => exV e && exBase e < va + len && va < exBase e + exLen e)
  k.cmds.any (fun m => !m.fin && (m.spans k).any (fun r => r.2 != 0 && ex.any (fun e => exBase e < r.1 + r.2 && r.1 < exBase e + exLen e)))

/-- Core c no longer uses the range of a shootdown: it holds no extent of it, or it has parked and its engine commands there are over (R340). -/
def State.shot (s : State) (h : Shoot) (c : Fin 320) : Bool :=
  let k := s.core c
  k.task.isNone || s.slotOf c != h.slot.toNat || !k.revokes h.va h.len || (k.task.any (·.parked) && !k.names h.va h.len)

/-- Each cluster acknowledges a shootdown once its cores allow it; one that every cluster has acknowledged is over (R340 steps 2 and 3). -/
def State.ackAll (s : State) : State :=
  if s.plat.shoots.isEmpty then s
  else
    let ack (h : Shoot) : Shoot :=
      { h with acks := h.acks ||| bvOf 40 (fun i => (List.range 8).all (fun j => s.shot h (Fin.ofNat 320 (8 * i + j)))) }
    { s with plat := { s.plat with shoots := (s.plat.shoots.map ack).filter (fun h => h.acks != BitVec.allOnes 40) } }

/-- A task parked in place goes on at its checkpoint with new extents (R340 step 5). -/
def State.unpark (s : State) (c : Fin 320) : State :=
  match (s.core c).task with
  | none => s
  | some t =>
    if !t.parked then s
    else match s.rebuild c t with
    | .ok _ s' => s'.modCore c (fun k => { k with task := some { t with parked := false }, revoked := false }.resumeIdle s.tb.toNat)
    | .park _ => s
    | .fault cause info op s' => match (s.ctx t.osq).bind (fun x => (x.inv t.inv).map (fun i => (x, i))) with
      | some (x, i) => s'.walkFault t.osq x i t.ord cause info op
      | none => s

/-- PAGE_RESOLVED (R228, R340): the sequencer fetches or accesses again, or the parked task goes on once every cluster has acknowledged the shootdowns
of its context. -/
def execPageResolved (u : UnitId) (s : State) : Out :=
  match u with
  | .core c => .next (if s.plat.shoots.any (fun h => h.slot.toNat == s.slotOf c) then s else s.unpark c)
  | .seq q => .next (s.modCtx q (fun x => { x with pageWait := false }))

/-! ## Errors of storage (R378) -/

/-- The process of the context in a slot. -/
def State.procOf (s : State) (slot : BitVec 6) : Option Nat := (s.allCtxs.find? (fun x => x.slot == slot)).map (·.proc)

/-- An uncorrectable error met by a read of a unit: the phase is cancelled, or the reading context takes FATAL_HW. In the weight buffer, planes and
accumulators it is the array that meets it (R368). -/
def State.ueUnit (s : State) (u : UnitId) (code : Nat) (addr : BitVec 52) : State :=
  match u with
  | .core c => s.ueFail c (BitVec.ofNat 64 (code + addr.toNat % 2 ^ 48 * 65536)) (code == 5 || code == 6) none
  | .seq q => ((s.countUe code).logRec 5 (BitVec.ofNat 8 code) (leBytes 2 (320 + q.val) ++ leBytes 6 addr.toNat ++ [0])).fatalCtx (s.strike .fatalHw none) q

/-- Counts and logs an error that no phase meets (R419, R458). -/
def State.noteUe (s : State) (code : Nat) (u : UnitId) (addr : BitVec 52) : State :=
  (s.countUe code).logRec 5 (BitVec.ofNat 8 code) (leBytes 2 (match u with
    | .core c => c.val
    | .seq q => 320 + q.val) ++ leBytes 6 addr.toNat ++ [0])

/-- An entry of the cloak or surface table that no context owns is invalidated (R378). -/
def State.dropEntry (s : State) (a : Nat) : State :=
  if a < 32768 then
    let d : Fin 4 := Fin.ofNat 4 (a / 8192)
    let x := s.dies[d]
    { s with dies := s.dies.set d { x with cloak := spSet 0 x.cloak (a % 8192) 0 } }
  else { s with dies := s.dies.map (fun d => if d.surf = [] then d else { d with surf := d.surf.filter (fun e => e.2.1 != a) }) }

/-- The context slot that a table entry names (R378): the cloak entry's own SLOT, or the slot that the resident kernel wrote with a surface entry. -/
def State.entrySlot (s : State) (a : Nat) : Option (BitVec 6) :=
  if a < 32768 then (s.cloaks.find? (fun e => e.1 = a && e.2 ≠ 0)).map (fun e => BitVec.ofNat 6 (clSlot e.2))
  else (s.dies.toList.findSome? (fun d => d.surf.find? (fun e => e.2.1 == a))).map (fun e => BitVec.ofNat 6 e.1)

/-- The die of a unit. -/
def unitDie : UnitId → Nat
  | .core c => c.val / 80
  | .seq q => q.val / 4

/-- UNCORRECTABLE_ERROR (R378): the outcome of the part of the structure in which the word lies. Under code 10 an owner in the event says that the word is
sequencer state, a record cache, a walker queue or a latch entry of that context; without one it is the table entry at the address. -/
def execUncorrectableError (e : ErrSite) (s : State) : Out :=
  let a := e.addr.toNat
  let note (s : State) : State := s.noteUe e.code.val e.unit e.addr
  .next (match e.code.val with
    | 2 => if e.hard then { (note s) with ueMarks := s.ueMarks.insert (s.readKey (s.frameIlv a) (a / 64 * 64)) } else s
    | 3 => if e.hard then s.ueUnit e.unit 3 e.addr else note s
    | 9 =>
      if !e.hard then note s
      else
        let d := unitDie e.unit
        let gs := s.imgs.filter (fun g => g.dies.getLsbD d && g.ofs ≤ a && a < g.ofs + g.size)
        s.killCtxs .fatalHw (s.allCtxs.filter (fun x => gs.any (fun g => x.kt.any (fun k => k.2.2 == g.num)))) (note s)
    | 10 =>
      let s := note s
      if !e.hard then { s with dies := s.dies.map (fun d => if d.tlb.any (fun t => e.owner.any (fun o => leafHit o a 1 t))
                                                            then { d with tlb := d.tlb.filter (fun t => !e.owner.any (fun o => leafHit o a 1 t)) } else d) }
      else match (match e.owner with
          | some o => some o
          | none => (s.entrySlot a).filter (fun o => (s.procOf o).isSome)) with
        | some o => s.killCtxs .fatalHw (s.allCtxs.filter (fun x => x.slot == o)) s
        | none => s.dropEntry a
    | 11 => s.killCtxs .saveIntegrity (s.allCtxs.filter (fun x => e.owner.any (· == x.slot))) (note s)
    | n => s.ueUnit e.unit n e.addr)

/-- CORRECTABLE_ERROR (R378, R458): corrected in place and counted. -/
def execCorrectableError (code : Fin 12) (s : State) : Out :=
  .next { s with plat := { s.plat with ce := s.plat.ce.set code (satInc s.plat.ce[code]) } }

/-! ## Contexts (R11, R292, R388) -/

/-- A created context (R11, R14, R295): the entry body counts as an open loop level (R13). -/
def Ctx.create (g : CtxCfg) : Ctx :=
  { tag := g.tag, slot := g.slot, root := g.root, proc := g.process, entry := g.entry, sysv := g.sys, dbgOk := g.debug, dumps := g.dumps, team := g.team, quota := g.quota,
    vpc := g.entry, nvpc := g.entry, avpc := g.entry, n := Vector.replicate 64 0, g := 0, hnds := [], ft := Vector.replicate 16 0x101, ftb := 0, loops := [], ldepth := 1,
    calls := [], th := 0, kt := [], parked := false, intrap := false, lcause := 0, trapD := (0, 0), trapUid := none, trap0 := 0, held := [],
    frep := none, rvpc := 0, fvpc := 0, reexec := [], rsave := [], mboxP := Vector.replicate 8 0, ninv := 0, ncoll := [],
    heap := (g.heap.toNat, g.heapSize.toNat), allocs := [], fuse := none, lazyw := [], pageWait := false, sigWait := none, sigHit := none, sigFence := false, invs := [],
    recs := [], latch := Vector.replicate 16 Latch.idle, contrib := [], exp := none, preReq := none, saved := [], area := g.area, reply := 0,
    awaits := false, done := false, parts := [], stamps := [], barrs := [] }

/-- Writes the save area of a context with its tags (R388, R389). -/
def State.saveCtx (s : State) (x : Ctx) : State := s.saveArea x.area.toNat ctxPages x.pages

/-- CONTEXT_CREATE (R11): the context is resident in its save area; a tag or slot in use creates nothing. A context that serves a queue waits for a
launch packet (R435). In recovery no context runs (R446). -/
def execContextCreate (g : CtxCfg) (s : State) : Out :=
  if s.plat.recov || s.plat.off || s.allCtxs.any (fun x => x.tag == g.tag || x.slot == g.slot) then .next s
  else
    let x := Ctx.create g
    let x := { x with awaits := (s.queueOf x).isSome }
    .next { (s.saveCtx x) with dorm := s.dorm ++ [x] }

/-- The context on sequencer q has stopped whole: pre-empted or ended, no task on a core, no write of its own outstanding (R384). -/
def State.stoppedOn (s : State) (q : Fin 16) (x : Ctx) : Bool :=
  (x.preReq.isSome || x.done) && (s.coresOn q).isEmpty && !s.plat.reqs.any (fun r => r.osq == q && r.kind == 1 && r.st == 0 && !r.blocked)

/-- Moves the context of sequencer q into its save area, with what its homes keep for it. -/
def State.deactivate (s : State) (q : Fin 16) (x : Ctx) : State :=
  let x1 := { x with parts := s.parts.filter (fun p => p.osq == q), stamps := s.stamps.filter (fun a => a.osq == q),
                     barrs := s.barrs.filter (fun b => b.own == 40 + q.val), preReq := none }
  let s := (s.vacate q).saveCtx x1
  { s with dorm := s.dorm ++ [x1] }

/-- The package barriers at which a saved core has arrived, as they stand for another sequencer (R134, R135). -/
def Core.gensOnto (k : Core) (q : Fin 16) : Core := { k with gens := k.gens.map (fun g => if 40 ≤ g.2.1 then (g.1, 40 + q.val, g.2.2) else g) }

/-- A stamp, a partial and a barrier as they stand for another sequencer. -/
def Stamp.onto (a : Stamp) (q : Fin 16) : Stamp := { a with osq := q, core := if 320 ≤ a.core then 320 + q.val else a.core }

/-- Restores every saved task of the context on sequencer q that finds a free core (R384, R386). -/
def State.resumeAll (s : State) (q : Fin 16) : List (BitVec 52) → State
  | [] => s
  | a :: l => match execTaskResume q a s with
    | .next s => State.resumeAll s q l
    | _ => s

/-- Makes a resident context active on the free sequencer q (R292): its save area is checked first (R389). -/
def State.activate (s : State) (q : Fin 16) (x : Ctx) : State :=
  if !s.areaOk x.area.toNat ctxPages then (s.countArea x.area.toNat ctxPages).killProcess (s.strike .saveIntegrity none [x.slot]) x.proc
  else
    let s := { s with dorm := s.dorm.filter (fun y => y.tag != x.tag),
                      parts := s.parts ++ x.parts.map (fun (p : Part) => { p with osq := q }), stamps := s.stamps ++ x.stamps.map (fun a => Stamp.onto a q),
                      barrs := s.barrs ++ x.barrs.map (fun (b : Barr) => { b with own := 40 + q.val }),
                      saves := s.saves.map (fun (v : Saved) => if x.saved.contains (BitVec.ofNat 52 v.area) then { v with k := v.k.gensOnto q } else v) }
    (s.setCtx q { x with parts := [], stamps := [], barrs := [], parked := false, preReq := none }).resumeAll q x.saved

/-- CONTEXT_ACTIVATE (R292, R384, R12): a parked context goes on, and a request for its pre-emption ends; a resident context becomes active on a free
sequencer or in place of one that has stopped. R12 does not say where a context parked with TH = 0 goes on: PARKED clears and decoding goes on at VPC as
the park left it, for a trap of KIND 0 the faulting instruction itself, and the outputs of an aborted operator, which no TRAPRET publishes, stay unpublished (DESIGN CHOICE,
log 121). -/
def execContextActivate (q : Fin 16) (tag : BitVec 16) (s : State) : Out :=
  .next (match s.ctx q with
    | some x =>
      if x.tag = tag then ((s.setCtx q { x with parked := false, preReq := none }).thaw q).resumeAll q x.saved
      else match s.dorm.find? (fun y => y.tag == tag) with
        | some y => if s.stoppedOn q x then (s.deactivate q x).activate q y else s
        | none => s
    | none => match s.dorm.find? (fun y => y.tag == tag) with
      | some y => s.activate q y
      | none => s)

/-- Frees bytes o .. o+n of the control store of die d from images that nothing binds; none if a bound image lies there. -/
def State.wcsClear (s : State) (d o n : Nat) : Option State :=
  let hit (g : Img) : Bool := g.dies.getLsbD d && g.ofs < o + n && o < g.ofs + g.size
  if s.imgs.any (fun g => hit g && s.imgBound g.num) then none
  else some { s with imgs := s.imgs.filter (fun g => !hit g) }

/-- Loads an image on die d at its offset (R291, R242). -/
def State.imgOnto (s : State) (d : Nat) (n : BitVec 16) : Option State :=
  match s.img n with
  | none => none
  | some g => if g.dies.getLsbD d then some s
    else (s.wcsClear d g.ofs g.size).map (fun s =>
      { s with imgs := s.imgs.map (fun h => if h.num == n then { h with dies := h.dies ||| BitVec.ofNat 4 (2 ^ d) } else h) })

/-- TEAM_CHANGE (R291): only with no invocation in flight; the images of the kernel table are first loaded on the dies that are new. -/
def execTeamChange (q : Fin 16) (map : BitVec 40) (s : State) : Out :=
  match s.ctx q with
  | none => .next s
  | some x =>
    if x.invs ≠ [] ∨ map = 0 then .next s
    else
      let ds := (List.range 4).filter (fun d => (teamDies map).getLsbD d)
      let ns := (x.kt.map (·.2.2)).eraseDups
      let r := ds.foldl (fun (r : Option State) d => ns.foldl (fun r n => r.bind (fun s => s.imgOnto d n)) r) (some s)
      match r with
      | some s => .next (s.modCtx q (fun x => { x with team := map }))
      | none => .next s

end Sys2Proof.Machine
end

