-- ==== Sys2Proof/Machine/Fabric.lean ====
section
/-! DEFINITION. The Harness fabric, the host port and the Ethernet ports (chapter 20): links and flits (R424, R425), routes and timeouts (R426, R427),
requests that come in (R428 to R436, R439), answers to requests that went out (R431, R461), the fabric's registers, and SPDM (R447). -/

namespace Sys2Proof.Machine

def State.modPort (s : State) (p : Fin 16) (f : Port → Port) : State :=
  { s with plat := { s.plat with ports := s.plat.ports.set p (f s.plat.ports[p]) } }

/-! ## Requests that wait at the source (R425, R427) -/

/-- A request that left for the device still waits for its acknowledgement, a lost one too (R426, R427). -/
def State.outTo (s : State) (dev : BitVec 12) : Bool := s.plat.reqs.any (fun r => r.dev == dev && r.st == 0 && !r.held)

/-- A waiting change of route takes effect once everything sent to the device is acknowledged. -/
def State.settleRoute (s : State) (dev : BitVec 12) : State :=
  if !s.routeWait dev || s.outTo dev then s
  else
    let v := s.plat.routeW.get dev.toNat &&& ~~~ (1#64 <<< 62)
    { s with plat := { s.plat with routes := s.plat.routes.set dev.toNat v, routeW := s.plat.routeW.set dev.toNat 0 } }

/-- Sends request number k if it waited and may leave now, under the timeout in force; without a route it is refused with reason 0. One that stands
behind a lost request of its line never leaves (R426). -/
def State.release (s : State) (k : Nat) : State :=
  match s.plat.reqs[k]? with
  | none => s
  | some r =>
    if !r.held || r.blocked || s.routeWait r.dev || (s.plat.reqs.take k).any (fun x => x.held && !x.blocked && x.dev == r.dev) then s
    else
      let put (s : State) (r : FReq) : State := { s with plat := { s.plat with reqs := s.plat.reqs.set k r } }
      if (s.routeOf r.dev).isNone then put s { r with held := false, st := 2, reason := 0 }
      else if !s.portRoom r.dev then s
      else put (s.emitReq r (r.kind == 1 || r.kind == 2)) { r with held := false, tick := s.tb.toNat, lim := s.plat.fabTo }

/-- A commit's write is over once it is answered, and so is a request that nobody waits for; any other keeps its answer for the instruction that waits. -/
def FReq.posted (r : FReq) : Bool := r.gone || (r.kind == 1 && (match r.unit with
  | .core _ => true
  | .seq _ => false))

/-- A line of a commit was refused: a kernel fault of its invocation, with ASYNC (R431, R368), which names the operand that the line hit (R371); a stopped
core holds it until resume (R404). -/
def State.refuseWrite (s : State) (c : Fin 320) (r : FReq) (reason : BitVec 2) : State :=
  let t : Trap := { cause := .signalAccess, info := sigInfo (peerAddrOf r.addr) r.dev reason.toNat, slot := none, ring := none, tensor := r.hnd,
                    async := true, note := [] }
  if (s.core c).task.any (fun k => k.osq == r.osq && k.inv == r.uid) then
    (if (s.core c).stopped then s.modCore c (fun k => { k with async := k.async ++ [t] }) else s.kernelFault c t)
  else match (s.ctx r.osq).bind (fun x => x.inv r.uid) with
    | none => s
    | some i => if i.aborted then s else
      (s.abortInv r.osq i.uid).holdReport r.osq
        { cause := .signalAccess, kind := true, fvpc := i.fvpc, info := t.info, tile := 0, hnd := r.hnd, core := some (BitVec.ofNat 9 c.val), num := i.num,
          uid := some i.uid, tb := s.tb }

/-- Request r of a unit was refused: a line of a commit has its kernel fault, any other is met by the instruction that waits. -/
def State.refused (s : State) (r : FReq) (reason : BitVec 2) : State :=
  match r.unit with
  | .core c => if r.kind == 1 && !r.gone then s.refuseWrite c r reason else s
  | .seq _ => s

/-- The answers to requests of other devices that waited and may leave now leave, those for one device in order (R425, R426). -/
def State.flushOut (s : State) : State :=
  s.plat.outq.foldl (fun s o =>
    let wait (s : State) : State := { s with plat := { s.plat with outq := s.plat.outq ++ [o] } }
    match s.routeOf o.1 with
    | none => wait s
    | some p => if s.plat.outq.any (fun x => x.1 == o.1) || 2048 < (s.plat.ports[p]).unack.length + o.2.length then wait s else s.sendFlits p o.2)
    { s with plat := { s.plat with outq := [] } }

/-- Everything that waited and may leave now leaves, in order; the lines of commits that lost their route meanwhile are refused. -/
def State.releaseAll (s : State) : State :=
  let s := ((List.range s.plat.reqs.length).foldl State.release s).flushOut
  let lost := s.plat.reqs.filter (fun r => r.posted && r.st == 2)
  if lost.isEmpty then s
  else lost.foldl (fun s r => s.refused r r.reason) { s with plat := { s.plat with reqs := s.plat.reqs.filter (fun r => !(r.posted && r.st == 2)) } }

/-! ## Links (R424, R425, R427) -/

def flSeq (f : BitVec 576) : BitVec 12 := f.extractLsb' 512 12
def flAck (f : BitVec 576) : BitVec 12 := f.extractLsb' 524 12
def flBody (f : BitVec 576) : BitVec 512 := f.extractLsb' 0 512

/-- The CRC of a flit is good (R424). -/
def flitOk (f : BitVec 576) : Bool := flitCrc (flBody f) (f.extractLsb' 512 32) == f.extractLsb' 544 32

/-- The buffer of a sender after an acknowledgement: everything up to the flit that ACK names goes. -/
def ackDrop (ack : BitVec 12) (l : List (BitVec 576)) : List (BitVec 576) :=
  match l.findIdx? (fun f => flSeq f == ack) with
  | some i => l.drop (i + 1)
  | none => l

/-- A port takes a flit that came in order and whole. -/
def Port.take (t : Port) (f : BitVec 576) (en : Bool) : Port :=
  let l := ackDrop (flAck f) t.unack
  { t with seqRx := t.seqRx + 1, unack := l, pend := some (flBody f), cred := t.cred + 1, replays := if l.length = t.unack.length then t.replays else 0,
           up := t.up && (en || !l.isEmpty) }

/-- A flit at the port: accepted when its SEQ is the next and its CRC good, else discarded with a negative acknowledgement. -/
def State.flitIn (s : State) (p : Fin 16) (f : BitVec 576) : State :=
  let t := s.plat.ports[p]
  if flSeq f = t.seqRx ∧ flitOk f then
    ((s.modPort p (fun t => t.take f (s.plat.porten.getLsbD p.val))).logRec 4 (BitVec.ofNat 8 (16 + p.val)) (leBytes 72 f.toNat)).releaseAll
  else s.modPort p (fun t => { t with nak := some t.seqRx })

/-- FLIT_RECEIVE (R425): in replay the ports take no external input (R418). -/
def execFlitReceive (p : Fin 16) (flit : BitVec 576) (s : State) : Out :=
  .next (if s.plat.rmode || !(s.plat.ports[p]).up || (s.plat.ports[p]).train then s else s.flitIn p flit)

/-- LINK_REPLAY (R425): a negative acknowledgement came back and the named flit and all after it go again; the 16th replay in a row of one flit has the
link retrain. -/
def execLinkReplay (p : Fin 16) (seq : BitVec 12) (s : State) : Out :=
  let t := s.plat.ports[p]
  if !t.up || t.train || !t.unack.any (fun f => flSeq f == seq) then .next s
  else
    let n := if t.last = seq then t.replays + 1 else 1
    .next (s.modPort p (fun t => { t with replays := n, total := t.total + 1, last := seq }))

/-- LINK_RETRAIN (R425) -/
def execLinkRetrain (p : Fin 16) (s : State) : Out :=
  .next (if 16 ≤ (s.plat.ports[p]).replays then s.modPort p (fun t => { t with train := true, replays := 0 }) else s)

/-- LINK_TRAINING_DONE (R425, R427): a link that does not come up is down and its buffered flits are lost. -/
def execLinkTrainingDone (p : Fin 16) (up : Bool) (s : State) : Out :=
  if !(s.plat.ports[p]).train then .next s
  else if up then .next (s.modPort p (fun t => { t with train := false, up := true })).releaseAll
  else .next (s.modPort p (fun t => { Port.reset with total := t.total })).releaseAll

/-- FABRIC_TIMEOUT (R426): request number k is lost; it and every later request of its line to that device are blocked, and each context that had one
takes FATAL_HW. A request that was blocked as it left takes the same end. -/
def execFabricTimeout (k : Nat) (s : State) : Out :=
  match s.plat.reqs[k]? with
  | none => .next s
  | some r =>
    if !(r.blocked || (r.st == 0 && !r.held && r.tick + r.lim ≤ s.tb.toNat)) then .next s
    else
      let hit (j : Nat) (x : FReq) : Bool := j == k || (x.dev == r.dev && x.addr / 64 == r.addr / 64 && (k < j || x.blocked))
      let l := (s.plat.reqs.zipIdx).map (fun (x : FReq × Nat) => if hit x.2 x.1 then { x.1 with blocked := true } else x.1)
      let qs := (s.plat.reqs.zipIdx).filterMap (fun (x : FReq × Nat) => if hit x.2 x.1 && x.1.st == 0 && x.1.uid != 2 ^ 32 then some x.1.osq else none)
      .next (qs.eraseDups.foldl (fun s q => s.fatalCtx (s.strike .fatalHw none) q) { s with plat := { s.plat with reqs := l } })

/-! ## Answers (R431, R461) -/

/-- Request k takes an answer: `f` gives its new form. One that was lost keeps the later requests of its line blocked (R426). -/
def State.answer (s : State) (k : Nat) (r : FReq) (f : FReq) : State :=
  let s := { s with plat := { s.plat with reqs := if r.posted && !r.blocked then s.plat.reqs.eraseIdx k else s.plat.reqs.set k f } }
  (s.settleRoute r.dev).releaseAll

/-- In replay what a port hands on is what it received last (R418): the body given, which is used up. -/
def State.fromPort (s : State) (body : BitVec 512) : Option State :=
  if !s.plat.rmode then some s
  else ((List.finRange 16).find? (fun p => (s.plat.ports[p]).pend == some body)).map (fun p => s.modPort p (fun t => { t with pend := none }))

/-- In replay an arrival of the host or an Ethernet port comes from the log (R418): the port buffer must hold these bytes, which are used up. -/
def State.arrive (s : State) (port : BitVec 8) (payload : List Byte) : Option State :=
  if s.plat.off then none
  else if !s.plat.rmode then some (s.logRec 4 port payload)
  else if s.plat.inbuf.contains (port, payload) then some { s with plat := { s.plat with inbuf := s.plat.inbuf.erase (port, payload) } }
  else none

/-- The header flit of the answer to a request of this device: kind 4 response, 5 refusal (R424, R461). -/
def State.answerHead (s : State) (r : FReq) (kind reason : Nat) : BitVec 512 :=
  Config.flitHead [bits s.plat.fabId 11 0, r.dev.toNat, (((s.ctx r.osq).map (·.tag)).getD (s.tagOf r.unit)).toNat, kind, r.op.toNat, r.n, peerAddrOf r.addr, 0, reason]

/-- The answer to request r reaches the device: from the host (kind 4 data, kind 5 a reason) or as flits of which `body` is the last. -/
def State.answered (s : State) (r : FReq) (host : List Byte) (body : BitVec 512) : Option State :=
  if r.dev = 0xFFF then s.arrive 8 host else s.fromPort body

/-- RESPONSE (R426, R461): the acknowledgement of request k, with the line or the old word it asked for. -/
def execResponse (k : Nat) (data : BitVec 512) (s : State) : Out :=
  match s.plat.reqs[k]? with
  | none => .next s
  | some r => if r.st ≠ 0 ∨ r.held then .next s
    else match s.answered r (leBytes 64 data.toNat) (if r.kind = 1 then s.answerHead r 4 0 else data) with
      | none => .next s
      | some s => .next (s.answer k r { r with st := 1, data := data })

/-- REFUSAL (R431): nothing of request k was performed at its destination. -/
def execRefusal (k : Nat) (reason : BitVec 2) (s : State) : Out :=
  match s.plat.reqs[k]? with
  | none => .next s
  | some r => if r.st ≠ 0 ∨ r.held then .next s
    else match s.answered r [reason.zeroExtend 8] (s.answerHead r 5 reason.toNat) with
      | none => .next s
      | some s => .next ((s.answer k r { r with st := 2, reason := reason }).refused r reason)

/-! ## Requests that come in (R428 to R436) -/

/-- What the ingress answers: performed, with data for a read or an atomic; refused with a reason (R431); nothing yet, while the home waits for room in a
spill table (R336) or where the bits are no request of the fabric. -/
inductive Ans where
  | done (data : Option (BitVec 512))
  | refused (reason : BitVec 2)
  | wait
deriving DecidableEq, Repr

/-- The answer a leaves with state t, or the home waits for room in a spill table as state s has it (R336). -/
def State.homeAns (s t : State) (a : Ans) : Ans × State :=
  match s.spillOver t with
  | some d => (.wait, s.askSpill d)
  | none => (a, t)

/-- A request lies within one line. -/
def reqFits (r : Req) : Bool := 1 ≤ r.len && r.addr.toNat % 64 + r.len ≤ 64

/-- The masked bytes of a request that lie in its range. -/
def reqBytes (r : Req) : BitVec 64 :=
  bvOf 64 (fun i => r.mask.getLsbD i && r.addr.toNat % 64 ≤ i && i < r.addr.toNat % 64 + r.len)

/-- Writes the masked bytes of a line at their home by physical address, one write event (R346, R352, R413). -/
def State.writeLine (s : State) (r : Req) : State :=
  let line := r.addr.toNat / 64 * 64
  let m := reqBytes r
  let ilv := s.frameIlv line
  let s := (List.range 64).foldl (fun s i => if m.getLsbD i then s.writeByte ilv (line + i) (BitVec.ofNat 8 (r.data.toNat / 2 ^ (8 * i))) else s) s
  (s.invalRange line 64).watchRemote line m r.data.toNat r.src r.ctx false

/-- An inbound enqueue: admission, then the checks of the queue (R430, R433). -/
def State.enqIn (s : State) (r : Req) : Ans × State :=
  match s.letIn r.src r.ctx (r.addr.toNat / 64 * 64) 64 1 with
  | (some e, s) => (.refused e, s)
  | (none, s) => match s.enqueue r.src r.ctx r.addr.toNat (reqBytes r) r.data with
    | (some e, s) => (.refused e, s)
    | (none, t) => s.homeAns t (.done none)

/-- An inbound write: an enqueue where the line belongs to a queue-doorbell exposure (R433). -/
def State.writeIn (s : State) (r : Req) : Ans × State :=
  if !reqFits r then (.wait, s)
  else if s.isDoor r.addr.toNat then s.enqIn r
  else match s.letIn r.src r.ctx r.addr.toNat r.len 1 with
    | (some e, s) => (.refused e, s)
    | (none, s) => s.homeAns ((s.inLine r.addr.toNat).writeLine r) (.done none)

/-- An inbound read: the line, zeros for a doorbell line (R430, R433), with its use at its home (R334, R335, R343). -/
def State.readIn (s : State) (r : Req) : Ans × State :=
  if !reqFits r then (.wait, s)
  else match s.letIn r.src r.ctx r.addr.toNat r.len 0 with
    | (some e, s) => (.refused e, s)
    | (none, s) =>
      let a := r.addr.toNat / 64 * 64
      if s.isDoor a then (.done (some 0), s)
      else s.homeAns ((s.inLine a).noteCv a 64) (.done (some (BitVec.ofNat 512 (s.readP a 64))))

/-- An inbound atomic at the home slice of its line (R436, R461), whose old word it answers; at a doorbell line it is refused as an access that is no
enqueue (DESIGN CHOICE, log 134). -/
def State.atomIn (s : State) (r : Req) : Ans × State :=
  let n := if r.wide then 8 else 4
  let a := r.addr.toNat
  if a % n ≠ 0 then (.wait, s)
  else match s.letIn r.src r.ctx a n 2 with
    | (some e, s) => (.refused e, s)
    | (none, s) =>
      if s.isDoor a then (.refused 3, (s.enqueue r.src r.ctx a 0 0).2)
      else
        let ilv := s.frameIlv a
        let x := (s.inLine a).atomHome r.op ilv a n (r.data.toNat % 2 ^ (8 * n)) (r.data.toNat / 2 ^ 64 % 2 ^ (8 * n))
        let v := x.2.readPA ilv a n
        s.homeAns (x.2.watchRemote (a / 64 * 64) (BitVec.ofNat 64 ((2 ^ n - 1) * 2 ^ (a % 64))) (v * 2 ^ (8 * (a % 64))) r.src r.ctx true)
          (.done (some (BitVec.ofNat 512 x.1)))

/-- The header flit of a request of another device, or of the answer to it (R424, R461). -/
def State.headTo (s : State) (r : Req) (kind reason : Nat) : BitVec 512 :=
  let me := bits s.plat.fabId 11 0
  let d := if kind < 4 then (me, r.src.toNat) else (r.src.toNat, me)
  Config.flitHead [d.1, d.2, r.ctx.toNat, kind, r.op.toNat, if kind = 2 || r.wide then (if r.wide then 8 else 4) else r.len, r.addr.toNat,
                   if kind = 1 then r.mask.toNat else 0, reason]

/-- The answer to a request of another device leaves as flits: a header, and the data of a read or an atomic (R424, R426, R430, R461); sources 0xFFE and
0xFFF have no device. -/
def State.reply (s : State) (r : Req) : Ans → State
  | .wait => s
  | .done data => if 0xFFE ≤ r.src.toNat then s else
    { s with plat := { s.plat with outq := s.plat.outq ++ [(r.src, s.headTo r 4 0 :: data.toList)] } }.flushOut
  | .refused e => if 0xFFE ≤ r.src.toNat then s else
    { s with plat := { s.plat with outq := s.plat.outq ++ [(r.src, [s.headTo r 5 e.toNat])] } }.flushOut

/-- A request of another device is performed and answered; in replay its last flit must have come (R418). -/
def State.peerReq (s : State) (r : Req) (body : BitVec 512) (f : State → Ans × State) : Out :=
  match s.fromPort body with
  | none => .next s
  | some s => let x := f s
              .next (x.2.reply r x.1)

/-- PEER_READ (R430) -/
def execPeerRead (r : Req) (s : State) : Out := s.peerReq r (s.headTo r 0 0) (fun s => s.readIn r)

/-- PEER_WRITE (R430) -/
def execPeerWrite (r : Req) (s : State) : Out := s.peerReq r r.data (fun s => s.writeIn r)

/-- ENQUEUE (R433): it travels as a write of its line (R461). -/
def execEnqueue (r : Req) (s : State) : Out := s.peerReq r r.data (fun s => s.writeIn r)

/-- REMOTE_ATOMIC (R436, R461): the operand bytes are those of the data flit. -/
def execRemoteAtomic (r : Req) (s : State) : Out := s.peerReq r r.data (fun s => s.atomIn r)

/-! ## The host and Ethernet (R438, R439) -/

/-- A host request as an inbound one: source 0xFFF, context tag 0. Operation 0 names BAR2, whose offsets are HBM addresses below its size; 2 names CXL.mem on
a port that trained as CXL, whose offsets lie in the range of HBM that the HDM decoder holds (R440); any other BAR0, whose doorbell q lies at 64q and stands
for queue q's DOOR line (R439). -/
def State.hostReq (s : State) (r : Req) : Option Req :=
  let a := r.addr.toNat
  if r.op = 0 then (if a < s.plat.bar2 && isHbm a then some { r with src := 0xFFF, ctx := 0 } else none)
  else if r.op = 2 then
    (if s.plat.cxl && a < s.plat.hdm.2 && isHbm (s.plat.hdm.1 + a) then some { r with src := 0xFFF, ctx := 0, addr := BitVec.ofNat 52 (s.plat.hdm.1 + a) } else none)
  else if a < 4096 then some { r with src := 0xFFF, ctx := 0, addr := BitVec.ofNat 52 (bits (s.queueW (a / 64) 1) 51 6 * 64 + a % 64) }
  else none

/-- The bytes of a host request as the recorder logs them. -/
def reqWire (r : Req) : List Byte := leBytes 8 r.addr.toNat ++ leBytes 8 r.mask.toNat ++ leBytes 64 r.data.toNat

/-- A host request arrives: by CXL.mem or by PCIe (R419). -/
def State.hostArrive (s : State) (r : Req) : Option State := s.arrive (if r.op = 2 then 9 else 8) (reqWire r)

/-- The completion of a host read (R431, R440): data, Unsupported Request, or for CXL.mem data marked poisoned. -/
def State.complete (s : State) (r : Req) : Ans → State
  | .wait => s
  | .done data => { s with plat := { s.plat with hostCpl := some (r.addr.toNat, 0, data.getD 0) } }
  | .refused _ => { s with plat := { s.plat with hostCpl := some (r.addr.toNat, if r.op = 2 then 2 else 1, 0) } }

/-- The security version of the fuses: as made, or as raised since (R446). -/
def State.secVer (s : State) : BitVec 32 := if Config.fuseVersion.toNat ≤ s.plat.sv.toNat then s.plat.sv else Config.fuseVersion

/-- FW.STAT as it reads: the fuse security version above the rest (R448). -/
def State.fwStat (s : State) : Word := (s.secVer.zeroExtend 64 <<< 32) ||| s.plat.fwstat

/-- HOST_READ (R439, R440); BAR0 shows FW.STAT, at an offset that the manual does not give (R446; log 139). -/
def execHostRead (r : Req) (s : State) : Out :=
  match s.hostArrive r with
  | none => .next s
  | some s => match s.hostReq r with
    | some q => let x := s.readIn q
                .next (x.2.complete r x.1)
    | none => .next (if r.op != 0 && r.op != 2 && 4096 ≤ r.addr.toNat && r.addr.toNat == Config.bar0Stat then s.complete r (.done (some (s.fwStat.zeroExtend 512))) else s)

/-- HOST_WRITE (R439, R440): posted; a write of a BAR0 doorbell is an enqueue at queue q's DOOR line, valid or not. -/
def execHostWrite (r : Req) (s : State) : Out :=
  match s.hostArrive r with
  | none => .next s
  | some s => match s.hostReq r with
    | some q => .next (if r.op = 0 || r.op = 2 then (s.writeIn q).2 else if reqFits q then (s.enqIn q).2 else s)
    | none => .next s

/-- ETHERNET_FRAME (R438): the frame goes to the Rein cores, whose firmware may turn it into an enqueue of source 0xFFE and tag 0. -/
def execEthernetFrame (port : Fin 8) (frame : List Byte) (enq : Option Req) (s : State) : Out :=
  match s.arrive (BitVec.ofNat 8 port.val) frame with
  | none => .next s
  | some s => match enq with
    | none => .next s
    | some r => .next (s.writeIn { r with src := 0xFFE, ctx := 0 }).2

/-! ## SPDM (R447) -/

/-- One entropy draw of the security engine: 64 bits, logged in record mode and taken from the log in replay (R419, R420). -/
def State.draw8 (s : State) (unit : Nat) : Word × State :=
  if s.plat.rmode then
    match entropyOf s.plat.replay with
    | [] => (0, s.noteDiverge)
    | r :: _ =>
      let s1 := { s with plat := { s.plat with replay := s.plat.replay.erase r } }
      if r.src == 2 && leNat (r.payload.drop 8) == unit then (BitVec.ofNat 64 (leNat (r.payload.take 8)), s1) else (0, s1.noteDiverge (some r))
  else
    let v := Config.freeWord s.free
    (v, { s with free := s.free + 1 }.logRec 3 2 (leBytes 8 v.toNat ++ leBytes 2 unit))

/-- A nonce of 32 bytes. -/
def State.nonce (s : State) : List Byte × State :=
  (List.range 4).foldl (fun p _ => let (v, s) := p.2.draw8 0
                                   (p.1 ++ leBytes 8 v.toNat, s)) ([], s)

/-- The 64-byte pieces of a message. -/
def lines64 (l : List Byte) : List (BitVec 512) := (List.range ((l.length + 63) / 64)).map (fun i => BitVec.ofNat 512 (leNat ((l.drop (64 * i)).take 64)))

/-- An answer of the DOE mailbox: version 1.3, a response code, its body; both messages join the transcript. It also leaves for the peer that the resident
kernel named, behind a header flit of a response (R447; the form on the fabric is the model's, log 71). -/
def State.spdmReply (s : State) (req : List Byte) (code : Byte) (body : List Byte) : State :=
  if s.plat.off then s
  else
    let out : List Byte := [0x13, code, 0, 0] ++ body
    let s := { s with plat := { s.plat with spdm := s.plat.spdm ++ req ++ out, spdmOut := out } }
    match s.plat.spdmPeer with
    | none => s
    | some d =>
      let head := Config.flitHead [d.toNat, bits s.plat.fabId 11 0, 0, 4, 0, out.length, 0, 0, 0]
      { s with plat := { s.plat with outq := s.plat.outq ++ [(d, head :: lines64 out)] } }.flushOut

/-- A signed answer: a nonce, the body, and the device key's signature over the transcript with them. -/
def State.spdmSigned (s : State) (req : List Byte) (code : Byte) (body : List Byte) : State :=
  if s.plat.off then s
  else
    let (n, s) := s.nonce
    s.spdmReply req code (n ++ body ++ Config.deviceSign (s.plat.spdm ++ req ++ n ++ body))

/-- GET_VERSION (R447): SPDM 1.3; it opens a transcript. -/
def execGetVersion (req : List Byte) (s : State) : Out := .next ({ s with plat := { s.plat with spdm := [] } }.spdmReply req 0x04 [0, 1, 0, 0x13])

/-- GET_CAPABILITIES (R447): certificates, challenge, measurements with signature. -/
def execGetCapabilities (req : List Byte) (s : State) : Out := .next (s.spdmReply req 0x61 [0x16, 0, 0, 0])

/-- NEGOTIATE_ALGORITHMS (R447): SHA-384 and ECDSA over P-384. -/
def execNegotiateAlgorithms (req : List Byte) (s : State) : Out := .next (s.spdmReply req 0x63 [0x80, 0, 0, 0, 0x02, 0, 0, 0])

/-- GET_DIGESTS (R447): the digest of certificate slot 0. -/
def execGetDigests (req : List Byte) (s : State) : Out := .next (s.spdmReply req 0x01 (leBytes 48 (Config.sha384 (Config.certChain 0)).toNat))

/-- GET_CERTIFICATE (R447): the chain of slot 0. -/
def execGetCertificate (req : List Byte) (s : State) : Out := .next (s.spdmReply req 0x02 (Config.certChain 0))

/-- CHALLENGE (R447) -/
def execChallenge (req : List Byte) (s : State) : Out := .next (s.spdmSigned req 0x03 (leBytes 48 (Config.sha384 (Config.certChain 0)).toNat))

/-- The measurements of indices 1 .. 7 as they stand, each behind its index. -/
def State.measured (s : State) : List Byte :=
  (List.range 7).flatMap (fun i => BitVec.ofNat 8 (i + 1) :: leBytes 48 (s.plat.meas[Fin.ofNat 8 (i + 1)]).toNat)

/-- GET_MEASUREMENTS (R447) -/
def execGetMeasurements (req : List Byte) (s : State) : Out := .next (s.spdmSigned req 0x60 s.measured)

/-! ## Registers of the fabric (R421, R422, R427, R428, R432) -/

/-- FAB_ID_WRITE (R421): ignored while a port is enabled. -/
def execFabIdWrite (v : Word) (s : State) : Out :=
  if s.plat.porten ≠ 0 then .next s
  else .next { s with plat := { s.plat with fabId := BitVec.ofNat 64 (bits v 23 16 * 65536 + bits v 11 0) } }

/-- PEER_SLOT_WRITE (R422): a slot is not bound to this device or to a reserved source. -/
def execPeerSlotWrite (slot : Fin 256) (v : Word) (s : State) : Out :=
  let dev := bits v 11 0
  if bit v 63 && (dev == bits s.plat.fabId 11 0 || 0xFFE ≤ dev) then .next s
  else .next { s with plat := { s.plat with slots := s.plat.slots.set slot.val (BitVec.ofNat 64 (bits v 63 62 * 2 ^ 62 + dev)) } }

/-- FAB_PORTEN_WRITE (R427): a port newly enabled trains; one disabled goes down once its buffer is acknowledged. -/
def execFabPortenWrite (v : Word) (s : State) : Out :=
  let en : BitVec 16 := v.setWidth 16
  let ports := Vector.ofFn (fun (p : Fin 16) =>
    let t := s.plat.ports[p]
    if en.getLsbD p.val then (if t.up then t else { t with train := true })
    else { t with train := false, up := t.up && !t.unack.isEmpty })
  .next { s with plat := { s.plat with porten := en, ports := ports } }.releaseAll

/-- ROUTE_WRITE (R427): it waits until every request to the device is acknowledged. -/
def execRouteWrite (dev : Fin 4094) (v : Word) (s : State) : Out :=
  let w := BitVec.ofNat 64 (b2n (bit v 63) * 2 ^ 63 + bits v 3 0)
  let d := BitVec.ofNat 12 dev.val
  .next (({ s with plat := { s.plat with routeW := s.plat.routeW.set dev.val (w ||| (1#64 <<< 62)) } }.settleRoute d).releaseAll)

/-- The rules of a valid exposure (R428). -/
def State.expoOk (s : State) (e : Nat) (x : Nat) : Bool :=
  let a := exStart x
  let b := exEnd x
  let tier2 (p : Nat) : Bool := isTier2 p && p < 0x10000000000 + s.plat.tier2
  exKind x < 2 && a < b && ((isHbm a && isHbm (b - 1)) || (tier2 a && tier2 (b - 1))) &&
  (List.range 256).all (fun j => j == e || (let y := s.expo j
                                            y % 2 = 0 || exEnd y ≤ a || b ≤ exStart y))

/-- The writable bits of an exposure's two words: [47:40] and [15:4] of the low one read zero. -/
def expoMask (high : Bool) : Word := if high then BitVec.allOnes 64 else 0xFFFF00FFFFFF000F

/-- EXPOSURE_WRITE (R428): a write that would leave a valid entry breaking a rule is ignored as a whole. -/
def execExposureWrite (e : Fin 256) (high : Bool) (v : Word) (s : State) : Out :=
  let w := v &&& expoMask high
  let lo := if high then s.plat.expo.get (2 * e.val) else w
  let hi := if high then w else s.plat.expo.get (2 * e.val + 1)
  let x := lo.toNat + hi.toNat * 2 ^ 64
  if x % 2 = 1 && !s.expoOk e.val x then .next s
  else .next { s with plat := { s.plat with expo := s.plat.expo.set (2 * e.val + b2n high) w } }

/-- QUEUE_W0_WRITE (R432): a reserved LN leaves W0 as it was. -/
def execQueueW0Write (q : Fin 64) (v : Word) (s : State) : Out :=
  if 8 < bits v 61 58 then .next s else .next (s.setQueueW q.val 0 (v &&& ~~~ 0x3F#64))

end Sys2Proof.Machine
end

