-- ==== Sys2Proof/Machine/Debug.lean ====
section
/-! DEFINITION. Debug and replay events (chapter 19): stop, resume and step (R403, R406), the stop window (R401, R405), samples (R409), the halter
trigger and its snapshots (R415 to R417), arrivals of a replay (R420). -/

namespace Sys2Proof.Machine

/-! ## The in-flight list of the stop window (R405) -/

/-- The 32 words of a vector register's content back. -/
def wordsLanes (l : List Word) : Lanes :=
  Vector.ofFn (fun i => BitVec.ofNat 32 ((l.getD (i.val / 2) 0).toNat / 2 ^ (32 * (i.val % 2))))

/-- The lane mask of one bit per byte. -/
def maskBytes (x : Nat) : Lanes :=
  Vector.ofFn (fun i => BitVec.ofNat 32 ((List.range 4).foldl (fun a b => if x.testBit (4 * i.val + b) then a + 255 * 2 ^ (8 * b) else a) 0))

/-- The result that an entry of 2 or 38 words names. -/
def wordsFlight (l : List Word) : Flight :=
  let h := l.headD 0
  let d := bits h 15 10
  let v := l.getD 1 0
  { pos := bits h 23 16,
    dst := match bits h 9 8 with
      | 0 => .s (BitVec.ofNat 6 d) v (bit h 0)
      | 1 => .v (BitVec.ofNat 6 d) (wordsLanes (l.drop 1))
              (maskBytes ((List.range 4).foldl (fun a i => a + (l.getD (34 + i) 0).toNat * 2 ^ (64 * i)) 0)) (l.getD 33 0)
      | 2 => .p (BitVec.ofNat 4 d) (bit v 0)
      | _ => .m (BitVec.ofNat 3 d) v }

/-- The list that words hold up to a zero head; none if an entry has K = 0 or above 12. An entry that equals one of `old` is that result. -/
def readFlights (old : List Flight) : Nat → List Word → Option (List Flight)
  | 0, _ => some []
  | _ + 1, [] => some []
  | n + 1, h :: l =>
    if h = 0 then some []
    else if bits h 23 16 = 0 ∨ 12 < bits h 23 16 then none
    else
      let len := if bits h 9 8 = 1 then 38 else 2
      let e := (h :: l).take len
      let f := (old.find? (fun f => flightWords f == e)).getD (wordsFlight e)
      (readFlights old n ((h :: l).drop len)).map (fun r => f :: r)

/-- A word written through the window, zero or not, in the place of an earlier one at its offset. -/
def putWord (win : List (Nat × Word)) (o : Nat) (v : Word) : List (Nat × Word) := win.filter (fun w => w.1 != o) ++ [(o, v)]

/-- The n words of a list's area at offset o with the words written through the window in place. -/
def areaWords (fl : List Flight) (win : List (Nat × Word)) (o n : Nat) : List Word :=
  let l := fl.flatMap flightWords
  (List.range n).map (fun i => (win.lookup (o + 8 * i)).getD (l.getD i 0))

/-- The results in flight, and those that a handler's entry saved, with the words written through the window in place. -/
def Core.flightArea (k : Core) (win : List (Nat × Word)) : List Word := areaWords (k.fr.fl.filter (fun f => 1 ≤ f.pos)) win 0x1800 512
def HSave.flightArea (h : HSave) (win : List (Nat × Word)) : List Word := areaWords h.fl win 0x2800 256

/-! ## Writes through the stop window (R401, R32) -/

/-- Bytes laid over by words of the window that lie in a range of its offsets. -/
def overWords (l : List Byte) (win : List (Nat × Word)) (o n : Nat) : Mem :=
  let m0 : Mem := (l.zipIdx.map (fun (x : Byte × Nat) => (x.2, x.1))).filter (fun x => x.2 != 0)
  (win.filter (fun w => o ≤ w.1 && w.1 < o + n)).foldl (fun (m : Mem) (w : Nat × Word) => Mem.write m (w.1 - o) w.2.toNat 8) m0

/-- What R32 refuses: FS, G, P and the tiles while a factorisation runs, and values of FS. -/
def Core.r32Bad (k : Core) (o : Nat) (v : Word) : Bool :=
  let running := bits k.arr.fs 2 0 ≠ 0 && !bit k.arr.fs 30
  (running && ((0x8000 ≤ o && o < 0x8090) || (0x13000 ≤ o && o < 0x33000))) ||
  (o == 0x8000 && (4 < bits v 2 0 || bits v 15 8 < bits v 23 16 || 128 < bits v 15 8))

/-- A write that the window refuses: by R32, a format level that R33 refuses, a list entry of no position (R405). -/
def Core.winBad (k : Core) (o : Nat) (v : Word) : Bool :=
  k.r32Bad o v ||
  (o == 0x1408 && bit v 3 && 6 ≤ bits v 2 0) ||
  (o == 0x1438 && 8 < v.toNat) ||
  (0x1800 ≤ o && o < 0x2800 && (readFlights [] 512 (k.flightArea (putWord k.dbg.win o v))).isNone) ||
  (0x2800 ≤ o && o < 0x3000 && k.hs.any (fun h => (readFlights [] 256 (h.flightArea (putWord k.dbg.win o v))).isNone))

/-- FP32 elements 2j and 2j + 1 of a row. -/
def rowSet {n : Nat} (r : Vector Lane n) (j : Nat) (v : Word) : Vector Lane n :=
  Vector.ofFn (fun i => if i.val = 2 * j then v.truncate 32 else if i.val = 2 * j + 1 then v.extractLsb' 32 32 else r[i])

def tileSet (t : Tile) (b : Nat) (v : Word) : Tile :=
  Vector.ofFn (fun r => if r.val = b / 512 then rowSet t[r] (b % 512 / 8) v else t[r])

def hemMod (k : Core) (t : Nat) (f : Hem → Hem) : Core :=
  let i : Fin 2 := Fin.ofNat 2 t
  { k with arr := { k.arr with hems := k.arr.hems.set i (f k.arr.hems[i]) } }

/-- One word of the window's fixed part takes effect, by its save-area offset (R387, log 42). -/
def Core.winWord (k : Core) (o : Nat) (v : Word) : Core :=
  let i := (o % 0x200) / 8
  if o < 0x1200 then
    let r := BitVec.ofNat 6 i
    { k with fr := k.fr.putS r v (k.fr.getS r).2 }
  else if o = 0x1200 then { k with fr := { k.fr with sp := v &&& ~~~ 1#64 } }
  else if o = 0x1208 then { k with fr := { k.fr with p := v.truncate 16 ||| 1#16 } }
  else if o < 0x1240 then k
  else if o < 0x1280 then k.putM (BitVec.ofNat 3 ((o - 0x1240) / 8)) v
  else if o < 0x1300 then
    let h : Fin 16 := Fin.ofNat 16 ((o - 0x1280) / 8)
    { k with rings := k.rings.set h { k.rings[h] with h := v } }
  else if o < 0x1380 then
    let h : Fin 16 := Fin.ofNat 16 ((o - 0x1300) / 8)
    { k with rings := k.rings.set h { k.rings[h] with lofs := bits v 7 0 } }
  else if o < 0x13B0 then k.setLc ((o - 0x1380) / 8) v
  else if o < 0x1400 then { k with loops := { k.loops with trips := k.loops.trips.set ((o - 0x13B0) / 8) (v.toNat % 2 ^ 32) } }
  else if o = 0x1400 then k.writeSys 0x000 v true
  else if o = 0x1408 then k.writeSys 0x01B v true
  else if o = 0x1410 then k.writeSys 0x01C v true
  else if o = 0x1418 then k.writeSys 0x018 v true
  else if o = 0x1420 then k.writeSys 0x01A v true
  else if o = 0x1438 then { k with fr := { k.fr with ret := (List.range v.toNat).map (fun j => k.fr.ret.getD j 0) } }
  else if 0x1440 ≤ o ∧ o < 0x1480 then { k with fr := { k.fr with ret := k.fr.ret.set ((o - 0x1440) / 8) v.toNat } }
  else if 0x14A0 ≤ o ∧ o < 0x14E0 then
    { k with hs := k.hs.map (fun h => { h with bank := h.bank.set (Fin.ofNat 8 ((o - 0x14A0) / 8)) v }) }
  else if 0x14E0 ≤ o ∧ o < 0x1500 then
    { k with hs := k.hs.map (fun h =>
      if o = 0x14E0 then { h with bankp := v.truncate 8 } else if o = 0x14E8 then { h with pc := v.toNat }
      else if o = 0x14F0 then { h with rtn := v.toNat } else { h with depth := v.toNat }) }
  else if 0x3000 ≤ o ∧ o < 0x7000 then
    let r : Fin 64 := Fin.ofNat 64 ((o - 0x3000) / 256)
    { k with v := k.v.set r (rowSet k.v[r] (o % 256 / 8) v) }
  else if 0x7000 ≤ o ∧ o < 0x7200 then { k with vp := k.vp.set (Fin.ofNat 64 ((o - 0x7000) / 8)) v }
  else if o = 0x8000 then k.writeSys 0x01E v true
  else if o = 0x8008 then k.writeSys 0x01F v true
  else if 0x8010 ≤ o ∧ o < 0x8090 then k.writeSys (0x020 + (o - 0x8010) / 8) v true
  else if o = 0x8090 then k.writeSys 0x019 v true
  else if 0x80A0 ≤ o ∧ o < 0x80E0 then k.writeSys (0x008 + (o - 0x80A0) / 8) v true
  else if o = 0x80E0 then k.writeSys 0x004 v true
  else if 0x8100 ≤ o ∧ o < 0x8500 then hemMod k ((o - 0x8100) / 512) (fun h => { h with col := rowSet h.col ((o - 0x8100) % 512 / 8) v })
  else if 0x8500 ≤ o ∧ o < 0x8900 then hemMod k ((o - 0x8500) / 512) (fun h => { h with row := rowSet h.row ((o - 0x8500) % 512 / 8) v })
  else if 0x8900 ≤ o ∧ o < 0x8920 then
    hemMod k ((o - 0x8900) / 16) (fun h => { h with valid := if o % 16 = 0 then h.valid.extractLsb' 64 64 ++ v else v ++ h.valid.truncate 64 })
  else if 0x8920 ≤ o ∧ o < 0x8930 then hemMod k ((o - 0x8920) / 8) (fun h => { h with epoch := if bit v 0 then some (v.extractLsb' 1 2) else none, ovr := bit v 3 })
  else if 0x9000 ≤ o ∧ o < 0xA200 then
    let t : Fin 4 := Fin.ofNat 4 ((o - 0x9000) / 1152)
    let b := (o - 0x9000) % 1152
    { k with ftab := k.ftab.set t ((k.ftab[t]).take b ++ leBytes 8 v.toNat ++ (k.ftab[t]).drop (b + 8)) }
  else if 0xA200 ≤ o ∧ o < 0xA600 then
    let j := (o - 0xA200) / 4
    { k with bins := (k.bins.set (Fin.ofNat 256 j) (v.truncate 32)).set (Fin.ofNat 256 (j + 1)) (v.extractLsb' 32 32) }
  else if o = 0xA600 then { k with binOut := v.truncate 32 }
  else if 0x13000 ≤ o ∧ o < 0x23000 then
    { k with arr := { k.arr with tiles := k.arr.tiles.set 0 (tileSet k.arr.tiles[0] (o - 0x13000) v) } }
  else if 0x23000 ≤ o ∧ o < 0x33000 then
    { k with arr := { k.arr with tiles := k.arr.tiles.set 1 (tileSet k.arr.tiles[1] (o - 0x23000) v) } }
  else k

/-- The n bytes at offset o of an image that starts at offset b, as a number. -/
def Mem.num (m : Mem) (b o n : Nat) : Nat := leNat (memBytes m (o - b) n)

/-- The binding at offset o of a loop image, if one stands there. -/
def bindAt (m : Mem) (o : Nat) : Option Binding :=
  let h := Mem.num m 0 o 8
  if h.testBit 9 then some { lvl := h % 8, ring := h.testBit 8, tgt := h / 2 ^ 16, stride := BitVec.ofNat 64 (Mem.num m 0 (o + 8) 8) } else none

/-- The loop state after the writes to its image (R100 to R103). -/
def Loops.windowed (l : Loops) (win : List (Nat × Word)) : Loops :=
  if !win.any (fun w => 0x1500 ≤ w.1 && w.1 < 0x1800) then l
  else
    let m := overWords (loopBytes l) win 0x1500 0x300
    let num (o n : Nat) : Nat := Mem.num m 0 o n
    { l with binds := (List.range 12).filterMap (fun i => bindAt m (16 * i)),
             run := if num 0x10C 4 % 2 = 0 then none else some {
               start := num 0x100 4, n := num 0x104 4, m := num 0x108 4 % 8, first := (num 0x10C 4).testBit 1,
               trip := (List.range (num 0x108 4 % 8)).map (fun j => num (0x110 + 4 * j) 4),
               binds := (List.range 12).filterMap (fun i => (bindAt m (0x128 + 24 * i)).map (fun b => (b, BitVec.ofNat 64 (num (0x138 + 24 * i) 8)))) } }

/-- The open phase after the writes to its image (R107, R118, R130, R203). -/
def Phase.windowed (p : Phase) (win : List (Nat × Word)) : Phase :=
  if !win.any (fun w => 0xB000 ≤ w.1 && w.1 < 0x13000) then p
  else
    let m := overWords (phaseBytes p) win 0xB000 0x8000
    let num (o n : Nat) : Nat := Mem.num m 0xB000 o n
    { p with
      sb := (List.range 256).filterMap (fun i =>
        let o := 0xB000 + 80 * i
        let line := num o 8 / 64
        let old := p.sb.find? (fun e => e.line == line)
        if num (o + 8) 8 = 0 then none
        else some { line := line, mask := BitVec.ofNat 64 (num (o + 8) 8), data := BitVec.ofNat 512 (num (o + 16) 64),
                    va := (old.map (·.va)).getD 0, ilv := (old.map (·.ilv)).getD 0 }),
      upds := (List.range 426).filterMap (fun i =>
        let o := 0x10000 + 24 * i
        let word := num o 8
        let old := p.upds.find? (fun u => u.word == word)
        if num (o + 9) 7 = 0 then none
        else some { word := word, op := BitVec.ofNat 4 (num (o + 8) 1), n := num (o + 9) 7, val := num (o + 16) 8,
                    va := (old.map (·.va)).getD 0, ilv := (old.map (·.ilv)).getD 0, inSb := old.any (·.inSb) }),
      enrol := (List.range 510).filterMap (fun i => let e := num (0x12800 + 4 * i) 4
                                                    if e.testBit 31 then some (e % 2 ^ 31) else none),
      att := num 0x12FF8 4, irrev := (num 0x12FFC 4).testBit 0 }

/-- The beat-queue entry that 32 bytes of the image hold, with what the image does not hold from the entry that stood there; none for no entry. -/
def mentOf (old : MEnt) (l : List Byte) : Option MEnt :=
  let b (i : Nat) : Byte := l.getD i 0
  let n (i w : Nat) : Nat := leNat ((l.drop i).take w)
  let t (i j : Nat) : Bool := (b i).getLsbD j
  let put (op : MOp) (f : Nat) : Option MEnt := some { old with op := op, run := t f 0, fail := t f 1 }
  match n 0 1 with
  | 1 => put (.mldw (n 4 4) (b 1) (t 2 0) (n 3 1)) 8
  | 2 => put .mswap 1
  | 3 => put (.mpush ((b 2).truncate 4) (n 4 2) (t 3 0) (n 6 2 % 128) (t 3 1) (b 1) (t 3 2)) 8
  | 4 => put (.mdrain ((b 1).truncate 4) (n 4 2) (t 2 0) (n 6 1 % 128) (n 7 1) (BitVec.ofNat 64 (n 8 8))) 16
  | 5 => put (.mzero (t 1 0)) 2
  | 6 => put (.mhem ((b 1).truncate 2)) 2
  | 7 => put (.mtclr (BitVec.ofNat 9 (n 2 2))) 4
  | 8 => put (.fact ((b 1).truncate 3) (t 3 0) (n 4 1) (n 5 1) (t 3 1) (t 3 2) (t 3 3) ((b 2).truncate 4) (n 6 2)) 8
  | 9 => put (.mperm (t 1 0)) 2
  | _ => none

/-- The beat queue after the writes to its image. -/
def Core.queueWindowed (k : Core) (win : List (Nat × Word)) : List MEnt :=
  if !win.any (fun w => 0x8940 ≤ w.1 && w.1 < 0x9000) then k.arr.queue
  else
    let m := overWords (k.arr.queue.flatMap MEnt.bytes) win 0x8940 0x6C0
    (List.range 16).filterMap (fun i =>
      mentOf (k.arr.queue.getD i { op := .mswap, run := false, phase := k.ph.num, fail := false, seq := k.issued }) (memBytes m (32 * i) 32))

/-- The command that 64 bytes of the image hold, with what the image does not hold from the command that stood there; none where it is taken out. -/
def cmdOf (old : Cmd) (l : List Byte) : Option Cmd :=
  let b (i : Nat) : Byte := l.getD i 0
  let n (i w : Nat) : Nat := leNat ((l.drop i).take w)
  if !(b 6).getLsbD 0 then none
  else some { old with op := b 0, fn := (b 1).truncate 4, h := (b 2).truncate 4, h2 := (b 3).truncate 4, tag := (b 4).truncate 4, fmt := b 5,
                       run := (b 6).getLsbD 1, fin := (b 6).getLsbD 2, a := BitVec.ofNat 64 (n 8 8), b := BitVec.ofNat 64 (n 16 8),
                       c := BitVec.ofNat 64 (n 24 8), ft := BitVec.ofNat 64 (n 32 8), imm := n 40 4, unit := n 44 4, moved := n 48 4, eff := n 52 4,
                       eff2 := n 56 4, slot := n 60 2, slot2 := n 62 2 }

/-- The refetch descriptor that 32 bytes of the image hold: its slot and the head of its command. -/
def refetchOf (old : Refetch) (l : List Byte) : Refetch :=
  { old with h := (l.getD 0 0).truncate 4, slot := leNat ((l.drop 1).take 3), unit := leNat ((l.drop 4).take 4),
             cmd := (cmdOf old.cmd ((l.drop 8).take 24 ++ old.cmd.bytes.drop 24)).getD old.cmd }

/-- The engines' commands and the refetch descriptors after the writes to their images, each in its place; a command's valid bit cleared takes it out. -/
def Core.cmdsWindowed (k : Core) (win : List (Nat × Word)) : Core :=
  if !win.any (fun w => 0xA640 ≤ w.1 && w.1 < 0xB000) then k
  else
    let all := k.cmds
    let m := overWords (all.flatMap Cmd.bytes ++ k.ph.refetch.flatMap Refetch.bytes) win 0xA640 0x9C0
    let edit (c : Cmd) : Option Cmd := cmdOf c (memBytes m (64 * all.idxOf c) 64)
    let eng := { k.eng with queue := k.eng.queue.filterMap edit, cls := k.eng.cls.map (fun (l : List Cmd) => l.filterMap edit) }
    let left := eng.queue ++ eng.cls.toList.flatten
    { k with eng := { eng with ntag := Vector.ofFn (fun t => left.countP (fun (c : Cmd) => c.tag.toNat == t.val)) },
             ph := { k.ph with refetch := k.ph.refetch.zipIdx.map (fun f => refetchOf f.1 (memBytes m (64 * all.length + 32 * f.2) 32)) } }

/-- DBG.STAT.WERR is set (R401). -/
def Core.werr (k : Core) : Core := { k with dbg := { k.dbg with stat := k.dbg.stat ||| (1#64 <<< 16) } }

/-- A plane after the writes to its image, hem column and kept format; none where the image no longer decodes. -/
def Plane.windowed (p : Plane) (win : List (Nat × Word)) (o : Nat) : Option Plane :=
  if !win.any (fun w => o ≤ w.1 && w.1 < o + 0x13000) then some p
  else
    let kept := ((win.lookup (o + 0x12200)).getD (BitVec.ofNat 64 (p.fmt.toNat + 256 * b2n p.scB + 4096 * p.cap)))
    let fmt := BitVec.ofNat 8 (bits kept 7 0)
    match readSegs (overWords p.image win o 0x12000) fmt (bits kept 15 12) 128 0 with
    | .error _ => none
    | .ok l =>
      let q := planeOf fmt (bit kept 8) (bits kept 15 12) l
      let edited := win.any (fun w => o ≤ w.1 && w.1 < o + 0x12000)
      let hem := if edited then q.hem else p.hem
      some { q with hem := (win.filter (fun w => o + 0x12000 ≤ w.1 && w.1 < o + 0x12200)).foldl (fun h w => rowSet h ((w.1 - o - 0x12000) / 8) w.2) hem }

/-- A plane's writes take effect on core k, or are refused as a whole. -/
def Core.winPlane (k : Core) (win : List (Nat × Word)) (back : Bool) : Core :=
  match (if back then k.arr.back else k.arr.cur).windowed win (planeAt back) with
  | some q => if back then { k with arr := { k.arr with back := q } } else { k with arr := { k.arr with cur := q } }
  | none => k.werr

/-- Everything written through the window takes effect, but for what R32 refuses as the core stands at resume (R401). -/
def Core.winApply (k : Core) : Core :=
  let win := k.dbg.win.filter (fun w => !k.r32Bad w.1 w.2)
  let k := if win.length = k.dbg.win.length then k else k.werr
  let k := { k with dbg := { k.dbg with win := [] } }
  if win.isEmpty then k
  else
    let fl := if win.any (fun w => 0x1800 ≤ w.1 && w.1 < 0x2800) then (readFlights k.fr.fl 512 (k.flightArea win)).getD k.fr.fl else k.fr.fl
    let hs := if win.any (fun w => 0x2800 ≤ w.1 && w.1 < 0x3000) then k.hs.map (fun h => { h with fl := (readFlights h.fl 256 (h.flightArea win)).getD h.fl }) else k.hs
    let k := { k with fr := { k.fr with fl := fl }, hs := hs, loops := k.loops.windowed win, ph := k.ph.windowed win,
                      arr := { k.arr with queue := k.queueWindowed win } }
    let k := k.cmdsWindowed win
    let k := (win.filter (fun w => !(0x1800 ≤ w.1 && w.1 < 0x3000))).foldl (fun k w => k.winWord w.1 w.2) k
    (k.winPlane win false).winPlane win true

/-- STOP_WINDOW_WRITE (R401): ignored unless the core is stopped. -/
def execStopWindowWrite (c : Fin 320) (off : BitVec 20) (v : Word) (s : State) : Out :=
  let k := s.core c
  if !k.stopped || off.toNat % 8 ≠ 0 || off.toNat < 0x81000 || 0xD9000 ≤ off.toNat then .next s
  else
    let o := off.toNat - 0x80000
    .next (s.setCore c (if k.winBad o v then k.werr else { k with dbg := { k.dbg with win := putWord k.dbg.win o v } }))

/-! ## Stop, resume, step (R403, R404, R406) -/

/-- DBG_STOP (R402, R403): a stop by command, before the next bundle of the core's task. -/
def execDbgStop (c : Fin 320) (s : State) : Out :=
  .next (if (s.core c).task.isNone || (s.core c).stopped then s else s.stopCore c 0 false 0)

/-- The ticks of the stop that ended now which a standing request for pre-emption does not count (R403). -/
def State.lostTicks (s : State) (c : Fin 320) : Nat :=
  match (s.core c).task.bind (fun t => (s.ctx t.osq).bind (·.preReq)) with
  | some t0 => s.tb.toNat - max t0 (s.core c).dbg.since
  | none => 0

/-- A stopped core goes on: the window's writes take effect, the array and the engines with it; an engine's watch stop ends. -/
def State.resume (s : State) (c : Fin 320) (step : Bool) : State :=
  let k := (s.core c).winApply
  let k := { k with dbg := { k.dbg with stat := k.dbg.stat &&& 0x10000#64, supp := some (BitVec.ofNat 8 (bits k.dbg.stat 15 8), k.bun), step := step, lost := k.dbg.lost + s.lostTicks c },
                    eng := { k.eng with watch := k.eng.watch.filter (fun w => !w.1) } }
  s.setCore c (k.resumeIdle s.tb.toNat)

/-- DBG_RESUME (R401, R403) -/
def execDbgResume (c : Fin 320) (s : State) : Out := .next (if (s.core c).stopped then s.resume c false else s)

/-- DBG_STEP (R406): one bundle issues, then a stop with CAUSE STEP. -/
def execDbgStep (c : Fin 320) (s : State) : Out := .next (if (s.core c).stopped then s.resume c true else s)

/-! ## Samples (R409) -/

/-- The reason of R411 under which the core stalls now, 0 if none. -/
def Core.stallNow (k : Core) : BitVec 8 := if k.dbg.run = 0 then 0 else k.dbg.why.1

/-- A sample of a core (R409). -/
def sampleRec (s : State) (k : Core) : List Byte :=
  leBytes 8 s.tb.toNat ++ k.name ++ leBytes 2 (bits k.dbg.stat 15 0) ++ [k.stallNow, 0, 0, 0, 0, 0]

/-- SAMPLE (R409): one on each tick that is a multiple of the period, none in the reset tick (R408); a new SPER takes effect from the next sample. -/
def execSample (c : Fin 320) (s : State) : Out :=
  let k := s.core c
  if !bit k.dbg.ctl 3 || k.stopped || s.tb.toNat % 2 ^ (12 + k.dbg.sper) ≠ 0 || s.tb.toNat = k.dbg.last then .next s
  else .next ((s.logTo c 3 (sampleRec s k)).modCore c (fun k => { k with dbg := { k.dbg with sper := bits k.dbg.ctl 11 8, last := s.tb.toNat } }))

/-! ## The halter trigger (R415 to R417) -/

/-- FIRE: a write of HALTER.CMD (R415). -/
def execFire (s : State) : Out := .next (s.fire 7 0x1FF)

/-- A falling edge of HALT_N fires where HALTER.SRC.PIN enables it (R415). -/
def State.haltEdge (s : State) : State := if bit s.plat.hsrc 4 then s.fire 4 0x1FF else s

/-- HALT_N_EDGE (R415, R418): in replay the edge comes from the log. -/
def execHaltNEdge (s : State) : Out := .next (if s.plat.rmode then s else (s.logRec 4 32 []).haltEdge)

/-- HALTER_REARM: a write of 1 to LATCHED clears it (R415). -/
def execHalterRearm (s : State) : Out := .next { s with plat := { s.plat with hstat := s.plat.hstat &&& ~~~ (1#64 <<< 63) } }

/-- HALT_N_RELEASE: 100 ticks after a firing the pin is let go (R415). -/
def execHaltNRelease (s : State) : Out :=
  .next (if s.plat.hpin.any (fun t => t ≤ s.tb.toNat) then { s with plat := { s.plat with hpin := none } } else s)

/-- Words at rising offsets as a register list. -/
def regsOf (l : List (Nat × Word)) : Regs := l.foldl (fun (r : Regs) x => r.set x.1 x.2) []

/-- A core's snapshot (R417). -/
def Core.snapAt (k : Core) (s : State) (c : Fin 320) : Regs :=
  let w (n : Nat) : Word := BitVec.ofNat 64 n
  regsOf ([(0x00, s.tb), (0x08, w (leNat (k.name.take 8))), (0x10, w (leNat (k.name.drop 8))), (0x18, w k.fr.pc), (0x20, k.gclk), (0x28, k.k[7]),
    (0x30, { s with cur := .core c }.modeWord), (0x38, s.dbgStat c), (0x40, k.arr.fs), (0x48, k.arr.beatc)] ++
    (List.range 8).map (fun g => (0x50 + 8 * g, (k.arr.termc.toList.getD g 0).zeroExtend 64)) ++
    [(0x90, w (k.arr.queue.length + 256 * k.eng.queue.length)), (0x98, k.stallNow.zeroExtend 64)] ++
    (List.range 16).map (fun h => (0x100 + 8 * h, (k.rings.toList.getD h Ring.reset).h)))

/-- A sequencer's snapshot (R417). -/
def Osq.snapAt (o : Osq) (s : State) : Regs :=
  let w (n : Nat) : Word := BitVec.ofNat 64 n
  match o.ctx with
  | none => regsOf [(0x00, s.tb), (0x28, BitVec.allOnes 64)]
  | some x => regsOf [(0x00, s.tb), (0x08, w x.vpc.toNat), (0x10, x.csw), (0x18, w x.invs.length), (0x20, w x.recs.length),
      (0x28, match x.exp with
        | some e => e.fr.scyc
        | none => BitVec.allOnes 64)]

/-- The first record that waits at the governor of die d: of the contexts whose next chunk would go to a core of the die, the offer that comes first
(R311, R312). -/
def State.firstWait (s : State) (d : Nat) : Option WRec :=
  ((List.finRange 16).foldl (fun (best : Option (Fin 16 × WRec)) q =>
    match (s.ctx q).bind (fun x => if (s.freeCores x).head?.any (fun c => c.val / 80 == d) then (x.offers s.tb.toNat).head? else none), best with
    | some w, some b => if beats s.tb.toNat q w b.1 b.2 then some (q, w) else best
    | some w, none => some (q, w)
    | none, _ => best) none).map (·.2)

/-- The governor's snapshot of die d: window start, budget left, deferred windows of the first waiting record (R417). -/
def Die.snapAt (x : Die) (s : State) (d : Nat) : Regs :=
  regsOf [(0x00, BitVec.ofNat 64 (s.plat.window * 10000)), (0x08, BitVec.ofNat 64 x.budget),
    (0x10, BitVec.ofNat 64 (((s.firstWait d).map (·.defer)).getD 0))]

/-- A port's snapshot (R417). -/
def Port.snapAt (p : Port) : Regs :=
  regsOf [(0x00, p.seqTx.zeroExtend 64), (0x08, p.seqRx.zeroExtend 64), (0x10, BitVec.ofNat 64 p.total)]

/-- Every snapshot of the package takes the values of the tick (R416). -/
def State.latchAll (s : State) : State :=
  { s with cores := Vector.ofFn (fun c => { s.core c with snap := (s.core c).snapAt s c }), osqs := s.osqs.map (fun o => { o with snap := o.snapAt s }),
           dies := s.dies.mapFinIdx (fun i d _ => { d with snap := d.snapAt s i }),
           plat := { s.plat with ports := s.plat.ports.map (fun p => { p with snap := p.snapAt }) } }

/-- Every debug-armed core, or every core at all, is to stop before the first bundle that it would issue (R416, R420). -/
def State.haltCores (s : State) (all : Bool) : State :=
  { s with cores := s.cores.map (fun k => if (all || k.armed) && !k.stopped then { k with dbg := { k.dbg with halt := true } } else k) }

/-- What falls due on latch ticks up to now (R416): the snapshots take the values of the latch tick; with STOP the armed cores are to stop, and every core
after a divergence (R420). -/
def State.latchDue (s : State) (now : Nat) : State :=
  let due (t : Nat) : Bool := t ≤ now
  let s := match s.plat.hpend with
    | none => s
    | some (t, cause, core) =>
      if !due t then s
      else
        let st := BitVec.ofNat 64 (2 ^ 63 + cause.toNat * 2 ^ 56 + core.toNat * 2 ^ 47 + t % 2 ^ 47)
        let l := { s with tb := BitVec.ofNat 64 t }.latchAll
        { l with tb := s.tb, plat := { l.plat with hstat := st, hpend := none } }
  let s := if s.plat.hstop.any due then { s.haltCores false with plat := { s.plat with hstop := s.plat.hstop.filter (fun t => !due t) } } else s
  if s.plat.hall.any due then { s.haltCores true with plat := { s.plat with hall := none } } else s

/-- HALTER_LATCH (R416): 64 ticks after a firing. The time that passes up to a step's tick latches by itself, so nothing is left to do on a later tick. -/
def execHalterLatch (s : State) : Out := .next (s.latchDue s.tb.toNat)

/-! ## Record and replay (R418 to R420) -/

/-- An error record of the log whose tick has passed without the cancellation that it logs (R420). -/
def State.lateError (s : State) : Bool := s.plat.replay.any (fun r => r.typ == 5 && r.tick < s.tb.toNat && r.payload.getD 8 0 == 1)

/-- In replay a logged cancellation that did not recur on its tick is a divergence, which names its record (R420). -/
def State.missedError (s : State) : State :=
  if !s.plat.rmode || !s.lateError then s
  else
    let late (r : RepRec) : Bool := r.typ == 5 && r.tick < s.tb.toNat
    { s with plat := { s.plat with replay := s.plat.replay.filter (fun r => !late r) } }.noteDiverge
      (s.plat.replay.find? (fun r => late r && r.payload.getD 8 0 == 1))

/-- REPLAY_ARRIVAL (R418, R420): an arrival reaches its port buffer on its logged tick, in replay only. -/
def execReplayArrival (source : BitVec 8) (payload : List Byte) (s : State) : Out :=
  if !s.plat.rmode then .next s
  else
    let s := s.missedError
    match s.plat.replay.find? (fun r => r.typ == 4 && r.src == source) with
    | none => .next s
    | some r =>
      if r.tick ≠ s.tb.toNat ∨ r.payload ≠ payload then .next s
      else
        let s := { s with plat := { s.plat with replay := s.plat.replay.erase r } }
        if 16 ≤ source.toNat ∧ source.toNat < 32 then .next (s.flitIn (Fin.ofNat 16 (source.toNat - 16)) (BitVec.ofNat 576 (leNat payload)))
        else if source = 32 then .next s.haltEdge
        else .next { s with plat := { s.plat with inbuf := s.plat.inbuf ++ [(source, payload)] } }

end Sys2Proof.Machine
end

