-- ==== Sys2Proof/Machine/Platform.lean ====
section
/-! DEFINITION. The control complex and the platform block (chapter 22): measured boot (R445, R446), live update and heartbeats (R448 to R451), queue
control blocks (R452, R453), power, clock and thermal (R455 to R457), RAS counters (R458), and writes of registers that have no row of their own (R10). -/

namespace Sys2Proof.Machine

/-! ## Measured boot (R445, R446) -/

/-- The image of a stage in a slot of boot flash; an empty slot holds none. -/
def flashAt (l : List (Nat × Bool × List Byte)) (stage : Nat) (slot : Bool) : List Byte :=
  ((l.find? (fun e => e.1 == stage && e.2.1 == slot)).map (·.2.2)).getD []

/-- A signed image is accepted under a security version of the fuses (R446): its header has the magic and a security version that is not below the fuses', and
its signature and key verify. That the version follows the magic is DEDUCED from the order in which R446 lists them (log 5). -/
def imageOk (sv : BitVec 32) (image : List Byte) : Bool :=
  image.take 4 == [0x53, 0x48, 0x58, 0x39] && sv.toNat ≤ leNat ((image.drop 4).take 4) && Config.signatureOk image

def State.imageOk (s : State) (image : List Byte) : Bool := Machine.imageOk s.secVer image

/-- How the boot stands: the measurements, the last refused stage, whether another slot was used, whether the device stays in recovery, the slot
the Rein firmware runs from, the bytes measured so far. -/
structure Boot where
  meas : Vector (BitVec 384) 8
  fail : Nat
  alt  : Bool
  dead : Bool
  rein : Bool
  bytes : List Byte
deriving DecidableEq, Repr

/-- Measurement index of a stage (R445). -/
def measOf (stage : Nat) : Fin 8 := [0, 1, 2, 3, 6, 4, 5, 7].getD stage 0

/-- The security engine measures a stage's image into its index (R445). -/
def Boot.measure (b : Boot) (n : Nat) (image : List Byte) : Boot :=
  { b with meas := b.meas.set (measOf n) (Config.sha384 image), bytes := b.bytes ++ image }

/-- One stage from a slot of boot flash, under security version sv of the fuses: measured, then verified; a refused stage 2, 3 or 6 is tried from the other
slot (R445, R446). -/
def Boot.stage (b : Boot) (sv : BitVec 32) (flash : List (Nat × Bool × List Byte)) (n : Nat) (slot : Bool) : Boot :=
  if b.dead then b
  else
    let b1 := b.measure n (flashAt flash n slot)
    if imageOk sv (flashAt flash n slot) then { b1 with rein := if n = 6 then slot else b.rein }
    else if n = 2 || n = 3 || n = 6 then
      let b2 := { b1.measure n (flashAt flash n !slot) with fail := n, alt := true }
      if imageOk sv (flashAt flash n !slot) then { b2 with rein := if n = 6 then !slot else b.rein } else { b2 with dead := true }
    else { b1 with fail := n, dead := true }

/-- The seven stages in order: the ROM, which is immutable, five signed images, the fuse state. Stage 5 comes over Ethernet where the configuration names a
fetch. -/
def bootRun (sv : BitVec 32) (flash : List (Nat × Bool × List Byte)) (fetched : Option (List Byte)) (slot rein : Bool) : Boot :=
  let b : Boot := { meas := Vector.replicate 8 0, fail := 0, alt := false, dead := false, rein := rein, bytes := [] }
  let five := match fetched with
    | some l => (5, false, l) :: flash
    | none => flash
  let b := (((((b.measure 1 Config.romImage).stage sv flash 2 slot).stage sv flash 3 slot).stage sv flash 4 false).stage sv five 5 false).stage sv flash 6 rein
  if b.dead then b else { b with meas := b.meas.set (measOf 7) (Config.fuseDigest sv) }

/-- Every Rein core's hub SRAM is loaded with its part of the Rein firmware in a slot (R444). -/
def Plat.reinSram (p : Plat) (slot : Bool) (k : Nat) : Mem :=
  let l := (Config.reinPart k (flashAt p.flash 6 slot)).take 262144
  Mem.write [] 0 (leNat l) l.length
def Plat.loadRein (p : Plat) (slot : Bool) : Plat := { p with srams := Vector.ofFn (fun (k : Fin 6) => p.reinSram slot k.val) }

/-- The parts of a payload that fit a record's 16-bit length (R419). -/
def recParts (l : List Byte) : List (List Byte) := (List.range (l.length / 65472 + 1)).map (fun i => (l.drop (65472 * i)).take 65472)

/-- A free A-clock of R456: 800 .. 2000 MHz in steps of 100 MHz. -/
def govMhz (m : BitVec 16) : BitVec 16 := BitVec.ofNat 16 (800 + 100 * min 12 ((m.toNat - 800) / 100))

/-- The security engine raises the fuses' security version for the resident kernel; it never falls (R446). -/
def State.raiseFuse (s : State) (v : BitVec 32) : State :=
  if s.plat.off || v.toNat ≤ s.secVer.toNat then s else { s with plat := { s.plat with sv := v } }

/-- The save-area key of this boot: drawn by the security engine and logged in record mode; in replay the next entropy record, which must be one of
the security engine (R389, R419, R420). -/
def State.drawKey (s : State) : State :=
  if !s.plat.rmode then s.logRec 3 2 (leBytes 8 (Config.saveKey 0).toNat ++ leBytes 2 0)
  else match entropyOf s.plat.replay with
    | [] => s.noteDiverge
    | r :: _ =>
      let s := { s with plat := { s.plat with replay := s.plat.replay.erase r, key := some (BitVec.ofNat 64 (leNat (r.payload.take 8))) } }
      if r.src == 2 then s else s.noteDiverge (some r)

/-- POWER_ON_RESET (R445, R446, R418): every register at its reset value, the boot stages run, record mode or replay as the boot configuration
says. It sets the form of the package (R2), the port's mode, the HDM decoder and the second tier that the resident kernel enumerated (R440, R327), the size of
BAR2 (R439), the timebase (R460), the boot values of MODE (R29), and in record mode a locked clock, of 2.0 GHz where the configuration names no point (R418; DESIGN CHOICE, log 6). The schedule
goes on. -/
def execPowerOnReset (cfg : BootCfg) (s : State) : Out :=
  let flash := cfg.flash.getD s.plat.flash
  let b := bootRun s.secVer flash cfg.fetched (bit s.plat.fwctl 0) cfg.rein
  let r := State.reset
  let lpt := if cfg.rec_ && cfg.lpt = 0 then 3 else cfg.lpt
  let die (d : Die) : Die := { d with mhz := if lpt = 0 then govMhz cfg.dieMhz else BitVec.ofNat 16 (lockMhz lpt) }
  let cxl := cfg.cxl && !cfg.isM
  let p := { r.plat with
    sv := s.plat.sv, isM := cfg.isM, cxl := cxl, hdm := if cxl then cfg.hdm else (0, 0), tier2 := if cfg.isM then Config.tier2Max else if cxl then min cfg.tier2 Config.tier2Max else 0,
    pwr := BitVec.ofNat 64 (Config.maxWatts cfg.isM),
    fabId := BitVec.ofNat 64 (cfg.pod.toNat * 65536 + cfg.dev.toNat), lpt := lpt, meas := b.meas, recov := b.dead,
    fwctl := BitVec.ofNat 64 (2 * b2n b.rein), fwstat := BitVec.ofNat 64 (16 * b.fail + 4 * b2n b.alt),
    rmode := cfg.replay.isSome, replay := cfg.replay.getD [], rseq := (cfg.replay.getD []).length, logAt := cfg.log.toNat,
    bar2 := min cfg.bar2 (2 ^ 39), flash := flash }
  let p := if b.dead then p else p.loadRein b.rein
  let mode := BitVec.ofNat 64 (32 * b2n cfg.flatf + 2 * b2n cfg.darb)
  let t : State := { r with tb := cfg.tb, agenda := s.agenda, free := s.free, rec_ := cfg.rec_, plat := p, dies := r.dies.map die,
                            cores := r.cores.map (fun k => { k with mode := mode }) }
  let t := t.logRec 1 0 (cfg.serial ++ leBytes 48 (b.meas[6]).toNat ++ leBytes 8 cfg.tb.toNat ++ leBytes 4 1)
  let t := (recParts (b.bytes ++ (List.range 7).flatMap (fun i => leBytes 48 (b.meas.toList.getD (i + 1) 0).toNat))).foldl (fun t l => t.logRec 2 0 l) t
  .next t.drawKey

/-! ## Firmware slots and live update (R448 to R451) -/

/-- FW.CTL with UPD and REIN. -/
def fwCtl (old : Word) (upd rein : Bool) : Word := BitVec.ofNat 64 (4 * b2n upd + 2 * b2n rein + b2n (bit old 0))

/-- Applies the queue control block at a physical address to queue q (R452, R453): the copy SEL names, when its CRC is good and its generation
SEL's; else the queue stays disabled and the fault is counted. -/
def State.applyBlock (s : State) (q : Fin 64) (block : Nat) : State :=
  let sel := BitVec.ofNat 64 (s.readP block 8)
  let copy := s.readL (block + 64 + 64 * bits sel 0 0) 64
  let w0 := BitVec.ofNat 64 (leNat (copy.take 8))
  let w1 := BitVec.ofNat 64 (leNat ((copy.drop 8).take 8))
  let good := (crc32c (copy.take 60)).toNat == leNat (copy.drop 60) && leNat ((copy.drop 32).take 8) == bits sel 63 32
  let off := s.setQueueW q.val 0 (s.queueW q.val 0 &&& ~~~ (1#64 <<< 62))
  if good && bits w0 61 58 ≤ 8 then
    (off.setQueueW q.val 1 (w1 &&& 0x000FFFFFFFFFFFC0)).setQueueW q.val 0 (w0 &&& ~~~ 0x3F#64)
  else off.countUe 10

/-- QUEUE_BLOCK_APPLY (R452): the Rein firmware keeps the block's address from then on. -/
def execQueueBlockApply (q : Fin 64) (block : BitVec 52) (s : State) : Out :=
  let a := block.toNat / 64 * 64
  .next ({ s with plat := { s.plat with blocks := s.plat.blocks.set q.val (BitVec.ofNat 64 a) } }.applyBlock q a)

/-- Every known block of the queues that a mask names is applied again (R453). -/
def State.reapply (s : State) (mine : Nat → Bool) : State :=
  (s.plat.blocks.filter (fun b => mine b.1)).foldl (fun s b => s.applyBlock (Fin.ofNat 64 b.1) b.2.toNat) s

/-- The handover structure (R451): magic, format version, length of what follows, its CRC-32C, and what follows (log 127). -/
def handover (ver : BitVec 32) (body : List Byte) : List Byte :=
  [0x48, 0x4E, 0x44, 0x56] ++ leBytes 4 ver.toNat ++ leBytes 4 body.length ++ leBytes 4 (crc32c body).toNat ++ body

/-- Word i of 4 bytes of the structure in hub SRAM. -/
def Plat.hand (p : Plat) (i : Nat) : Nat := Mem.read p.hub (Config.handoverAt + 4 * i) 4

/-- The new image accepts the handover structure: its magic and format version stand and its CRC is good (R451). -/
def Plat.handOk (p : Plat) : Bool :=
  p.hand 0 == leNat [0x48, 0x4E, 0x44, 0x56] && Config.acceptsVer p.meas[5] (p.hand 1) &&
  (crc32c ((List.range (p.hand 2)).map (fun j => p.hub.get (Config.handoverAt + 16 + j)))).toNat == p.hand 3

/-- The image of a stage in a slot of boot flash replaced. -/
def flashPut (l : List (Nat × Bool × List Byte)) (stage : Nat) (slot : Bool) (image : List Byte) : List (Nat × Bool × List Byte) :=
  l.filter (fun e => !(e.1 == stage && e.2.1 == slot)) ++ [(stage, slot, image)]

/-- UPD (R449): Bridle writes the image into the inactive slot of boot flash, then steps 1 to 4 of a live update. A refused image ends it; an accepted one is
loaded, runs and must beat. The old firmware leaves the handover structure (R451). -/
def execUpd (image : List Byte) (s : State) : Out :=
  if bit s.plat.fwctl 2 || s.plat.off then .next s
  else
    let slot := !bit s.plat.fwctl 1
    let p := { s.plat with flash := flashPut s.plat.flash 6 slot image }
    if !s.imageOk image then .next { s with plat := p }
    else
      let h := handover (Config.handoverVer s.free) (Config.handoverBody s.free)
      let p := { p with
        hub := Mem.write s.plat.hub Config.handoverAt (leNat h) h.length,
        fwctl := fwCtl s.plat.fwctl true slot, upd := some (s.plat.meas[5], s.tb.toNat),
        meas := s.plat.meas.set 5 (Config.sha384 image), hbTick := Vector.replicate 6 s.tb.toNat }
      .next ({ s with plat := p.loadRein slot, free := s.free + 1 }.reapply (fun _ => true))

/-- The held wakes are delivered in SEQ order of each queue (R449). -/
def Plat.endUpd (p : Plat) (rein : Bool) : Plat :=
  { p with fwctl := fwCtl p.fwctl false rein, upd := none, wakes := p.wakes ++ p.wakesH, wakesH := [] }

/-- REIN_HB (R450): any write counts; the first after a live update ends it. An image that does not accept the handover structure (R451), or beats later than
10,000,000 ticks, does not end its update: it is rolled back. -/
def execReinHb (k : Fin 6) (s : State) : Out :=
  let p := { s.plat with hb := BitVec.ofNat 64 ((s.plat.hb.toNat + 1) % 2 ^ 32), hbTick := s.plat.hbTick.set k s.tb.toNat }
  .next { s with plat := if p.upd.any (fun u => p.handOk && s.tb.toNat ≤ u.2 + 10000000) then p.endUpd (bit p.fwctl 1) else p }

/-- UPDATE_ROLLBACK (R450): no heartbeat for 10,000,000 ticks after the new image started. The old slot restarts with the handover structure, which stays
in hub SRAM. -/
def execUpdateRollback (s : State) : Out :=
  match s.plat.upd with
  | none => .next s
  | some (old, t) =>
    if s.tb.toNat < t + 10000000 then .next s
    else
      let p := (s.plat.endUpd (!bit s.plat.fwctl 1))
      let p := { p with meas := p.meas.set 5 old, fwstat := p.fwstat ||| 8, hbTick := Vector.replicate 6 s.tb.toNat }
      .next ({ s with plat := p.loadRein (bit p.fwctl 1) }.reapply (fun _ => true))

/-- REIN_RESTART (R450, R453): a Rein core silent for 100,000,000 ticks restarts; queue Rein core k applies again the blocks of queues q ≡ k mod 4
(log 43). -/
def execReinRestart (k : Fin 6) (s : State) : Out :=
  if s.tb.toNat < s.plat.hbTick[k] + 100000000 then .next s
  else .next ({ s with plat := { s.plat with hbTick := s.plat.hbTick.set k s.tb.toNat, srams := s.plat.srams.set k (s.plat.reinSram (bit s.plat.fwctl 1) k.val) } }.reapply
    (fun q => q % 4 == k.val))

/-! ## Clock, thermal, RAS (R456 to R458) -/

/-- PLAT_CLK_WRITE (R456): writing 1 to ERR clears it; LPT is accepted only while no tile task runs and not under REC, else ERR is set. -/
def execPlatClkWrite (v : Word) (s : State) : Out :=
  let busy := s.rec_ || (List.finRange 320).any (fun c => (s.core c).task.isSome)
  let err := if busy then true else s.plat.clkErr && !bit v 0
  .next { s with plat := { s.plat with clkErr := err, clkPend := if busy then s.plat.clkPend else some (BitVec.ofNat 2 (bits v 17 16)) } }

/-- THERMAL_TRIP (R457): T has reached TRIP; every context takes FATAL_HW, and core power goes. -/
def execThermalTrip (d : Fin 5) (s : State) : Out :=
  let w := s.plat.therm[d]
  .next ({ s with plat := { s.plat with therm := s.plat.therm.set d (setBits w 15 0 (16 * bits w 47 40)) } }.powerTrip)

/-- RAS_CLEAR (R458): a write of 0 clears; any other is ignored. -/
def execRasClear (ue : Bool) (code : Fin 12) (v : Word) (s : State) : Out :=
  if v ≠ 0 then .next s
  else .next { s with plat := if ue then { s.plat with ue := s.plat.ue.set code 0 } else { s.plat with ce := s.plat.ce.set code 0 } }

/-! ## Stamp spill tables and cloak entries (R336, R341) -/

/-- SPILLd.SIZE as it reads. -/
def State.spillSize (s : State) (d : Fin 4) : Word := setBits (s.plat.spill.get (2 * d.val + 1)) 63 32 (s.spilled d)

/-- SPILL_WRITE (R336): BASE stays while SIZE is not 0, SIZE never falls below what USED occupies; a raised SIZE answers the home's request. -/
def execSpillWrite (d : Fin 4) (size : Bool) (v : Word) (s : State) : Out :=
  let put (i : Nat) (w : Word) : State := { s with plat := { s.plat with spill := s.plat.spill.set (2 * d.val + i) w } }
  let more (t : State) : State := if bits (s.plat.spill.get (2 * d.val + 1)) 31 0 < bits v 31 0 then
      { t with plat := { t.plat with spillRq := t.plat.spillRq &&& ~~~ BitVec.ofNat 4 (2 ^ d.val) } } else t
  if size then .next (if bits v 31 0 * 4096 < 16 * s.spilled d then s else more (put 1 (BitVec.ofNat 64 (bits v 31 0))))
  else .next (if s.plat.spill.get (2 * d.val + 1) ≠ 0 then s else put 0 (v &&& 0x000FFFFFFFFFF000))

/-- The home die of an HBM address under a scheme (R332, R333); none outside HBM. -/
def homeDie (ilv pa : Nat) : Option Nat := if isHbm pa then some (hbmLoc ilv pa / 2 ^ 37) else none

/-- Two ranges of n and m bytes share a byte. -/
def shares (a n b m : Nat) : Bool := a < b + m && b < a + n

/-- A valid cloak entry may stand as entry i of die d (R341): both backings homed on the die, no range shared with another valid entry. -/
def State.cloakOk (s : State) (d : Fin 4) (i : Nat) (w : BitVec 128) : Bool :=
  let n := clBytes w
  (List.range (n / 256)).all (fun g => homeDie (clIlv w) (clName w + 256 * g) == some d.val && homeDie (clIlv w) (clBack1 w + 256 * g) == some d.val) &&
  s.cloaks.all (fun e => e.1 == d.val * 8192 + i || !clV e.2 ||
    (!shares (clName w) n (clName e.2) (clBytes e.2) && !shares (clName w) n (clBack1 e.2) (clBytes e.2) &&
     !shares (clBack1 w) n (clName e.2) (clBytes e.2) && !shares (clBack1 w) n (clBack1 e.2) (clBytes e.2)))

/-- CLOAK_ENTRY_WRITE (R341): a write that sets V is refused where the entry may not stand, and leaves V clear. -/
def execCloakEntryWrite (d : Fin 4) (i : Fin 8192) (high : Bool) (v : Word) (s : State) : Out :=
  let old := spGet 0 (s.dies[d]).cloak i.val
  let w : BitVec 128 := if high then v ++ old.truncate 64 else old.extractLsb' 64 64 ++ (v &&& 0xFFFFFFFFFFFC0007)
  if !high && clV w && !s.cloakOk d i.val w then .next s
  else .next (s.setCloak (d.val * 8192 + i.val) w)

/-! ## Writes of registers that have no row of their own (R10) -/

/-- A write of core c's debug block (R401, R402, R407, R408). -/
def State.debugWrite (s : State) (c : Fin 320) (off : Nat) (v : Word) : State :=
  let k := s.core c
  if off < 0x480 then
    let n := off / 8
    if (s.readSys c n).isNone || !sysWritable n true then s
    else match swrCheck k n v (.ok s) with
      | .ok _ => s.setCore c (k.writeSys n v true)
      | _ => s
  else if off = 0x1000 then
    let v := v &&& 0xF19
    s.setCore c { k with dbg := { k.dbg with ctl := v, halt := k.dbg.halt && bit v 0, sper := if bit k.dbg.ctl 3 then k.dbg.sper else bits v 11 8 } }
  else if off = 0x1008 then s.setCore c { k with dbg := { k.dbg with stat := setBits k.dbg.stat 16 16 (bits v 16 16) } }
  else if 0x1020 ≤ off ∧ off < 0x1060 then s.setCore c (k.setShadow off (if off % 16 = 0 then v else v &&& 0x3FFFFFFE0003))
  else if 0x1080 ≤ off ∧ off < 0x10C0 then s.setCore c (k.setShadow off (v &&& (if off % 16 = 0 then 0x000FFFFFFFFFFFC0 else 0xC000FFFFFFFFFFFF)))
  else s

/-- A write of sequencer q's block: the context trace ring (R417, R408). -/
def State.osqWrite (s : State) (q : Fin 16) (off : Nat) (v : Word) : State :=
  let o := s.osqs[q]
  if off = 0x100 then { s with osqs := s.osqs.set q { o with trace := (v &&& 0x000FFFFFFFFFFFC0, o.trace.2) } }
  else if off = 0x108 then { s with osqs := s.osqs.set q { o with trace := (o.trace.1, v &&& 0xC000FFFFFFFFFFFF) } }
  else s

/-- A write of the fabric tables (R427, R429, R432, R437). -/
def State.fabWrite (s : State) (off : Nat) (v : Word) : State :=
  let i := off / 8
  if off = 0x810 then { s with plat := { s.plat with fabTo := max 10000 (bits v 39 0) } }
  else if 0x20000 ≤ off ∧ off < 0x22000 then { s with plat := { s.plat with acl := s.plat.acl.set (i - 0x4000) (v &&& 0xC00000000FFFFFFF) } }
  else if 0x30000 ≤ off ∧ off < 0x30800 then
    let j := i - 0x6000
    match j % 4 with
    | 0 => s
    | 1 => s.setQueueW (j / 4) 1 (v &&& 0x000FFFFFFFFFFFC0)
    | 2 => s.setQueueW (j / 4) 2 v
    | _ => s.setQueueW (j / 4) 3 (v &&& 0xFFFFFFFF00000000)
  else if 0x40000 ≤ off ∧ off < 0x40800 then
    let j := i - 0x8000
    let m : Word := [0x80000FFFFFFFFFFF, 0xFFF, 0x000FFFFFFFFFFFC0, 0].getD (j % 4) 0
    { s with plat := { s.plat with mesh := s.plat.mesh.set j (v &&& m) } }
  else s

/-- A threshold of R457: 70 .. 105 °C. -/
def throttle (x : Nat) : Nat := min 105 (max 70 x)

/-- A write of the platform block (R448, R455, R457, R459). -/
def State.platWrite (s : State) (off : Nat) (v : Word) : State :=
  let p := s.plat
  if off = 0x008 then { s with plat := { p with fwctl := setBits p.fwctl 0 0 (bits v 0 0) } }
  else if off = 0x010 then { s with plat := { p with fwstat := if bit v 3 then p.fwstat &&& ~~~ 8#64 else p.fwstat } }
  else if off = 0x020 then { s with plat := { p with pwr := BitVec.ofNat 64 (min (Config.maxWatts p.isM) (bits v 10 0)) } }
  else if off = 0x030 then { s with plat := { p with govCls := v } }
  else if 0x040 ≤ off ∧ off < 0x060 then { s with plat := { p with govBud := p.govBud.set (Fin.ofNat 4 ((off - 0x40) / 8)) (BitVec.ofNat 64 (bits v 31 0)) } }
  else if 0x060 ≤ off ∧ off < 0x088 then
    let d : Fin 5 := Fin.ofNat 5 ((off - 0x60) / 8)
    { s with plat := { p with therm := p.therm.set d (setBits p.therm[d] 39 32 (throttle (bits v 39 32))) } }
  else if off = 0x200 then { s with plat := { p with wdog := max 1000 (bits v 39 0) } }
  else s

/-- A write of word j of a surface entry (R343, log 44): words 0 .. 2 hold the compressed base, the uncompressed base and the size; word 3 makes the
entry for a context slot, or drops the entry of that compressed base. -/
def State.surfWrite (s : State) (d : Fin 4) (j : Nat) (v : Word) : State :=
  if j % 4 < 3 then { s with plat := { s.plat with surfW := s.plat.surfW.set (1024 * d.val + j) v } }
  else
    let w (i : Nat) : Nat := (s.plat.surfW.get (1024 * d.val + j / 4 * 4 + i)).toNat
    let x := s.dies[d]
    let rest := x.surf.filter (fun e => e.2.1 != w 0)
    let ok := bit v 63 && rest.length < 256 && 0 < w 2 && rest.all (fun e => !shares (w 0) (w 2) e.2.1 e.2.2.2)
    { s with dies := s.dies.set d { x with surf := if ok then rest ++ [(bits v 39 34, w 0, w 1, w 2)] else rest } }

/-- A physical address of device memory: HBM, the populated second tier, the weight store. -/
def State.isMem (s : State) (a : Nat) : Bool := isHbm a || (isTier2 a && a < 0x10000000000 + s.plat.tier2) || isWs a

/-- A store of n bytes of the Bridle core to device memory, of 8 bytes or a whole line (R444): in a name range or the weight store it is refused and reported
to it as an access fault (R342, R324); at a doorbell a line is an enqueue, of this device's number and context tag 0, and 8 bytes are refused as one (R433;
the source is the model's, log 140). -/
def State.bridleStore (s : State) (a n v : Nat) : State :=
  if (s.cloakAt a).isSome || isWs a then { s with plat := { s.plat with ccFault := some a } }
  else if s.isDoor a then
    (if n = 64 then (s.writeIn { src := BitVec.ofNat 12 (bits s.plat.fabId 11 0), ctx := 0, addr := BitVec.ofNat 52 a, len := 64, mask := BitVec.allOnes 64,
                                 data := BitVec.ofNat 512 v, op := 0, wide := false }).2
     else (s.doorTry 0 a n 1).2)
  else s.spillOr (((s.inLine a).writeP a v n).invalRange (a / 64 * 64) 64)

/-- REGISTER_WRITE (R10): the writable fields of a register that has no row of its own take v; a register that none is written at the address is
unchanged. -/
def execRegisterWrite (addr : BitVec 52) (v : Word) (s : State) : Out :=
  let a := addr.toNat
  let o := a - 0xFF0000000000
  if a % 8 ≠ 0 then .next s
  else if s.isMem a then .next (s.bridleStore a 8 v.toNat)
  else if !isSysSpace a then .next s
  else if 0x1800000000 ≤ o ∧ o < 0x1800400000 then
    .next (if o % 0x100000 < 0x2000 then s.surfWrite (Fin.ofNat 4 ((o - 0x1800000000) / 0x100000)) (o % 0x100000 / 8) v else s)
  else if 0x2000000000 ≤ o ∧ o < 0x2014000000 then .next (s.debugWrite (Fin.ofNat 320 ((o - 0x2000000000) / 0x100000)) (o % 0x100000) v)
  else if 0x3000000000 ≤ o ∧ o < 0x3000100000 then .next (s.osqWrite (Fin.ofNat 16 ((o - 0x3000000000) / 0x10000)) (o % 0x10000) v)
  else if o = 0x4000000000 then .next { s with plat := { s.plat with hsrc := BitVec.ofNat 64 (bits v 6 0) } }
  else if 0x5000000000 ≤ o ∧ o < 0x5000100000 then .next (s.fabWrite (o - 0x5000000000) v)
  else if 0x6000000000 ≤ o ∧ o < 0x6000001000 then .next (s.platWrite (o - 0x6000000000) v)
  else .next s

end Sys2Proof.Machine
end

