-- ==== Sys2Proof/Machine/VanikOps.lean ====
section
/-! DEFINITION. Operator forms at issue (R256 to R260, R294): operands and roles (R257), the checks of R258 with each form's format and shape rules,
the kernel lookup (R244), sharded operands (R286), fused groups (R280, R281), collectives (R282 to R285), WSLOAD (R240), and the issue itself. -/

namespace Sys2Proof.Machine

/-! ## Operands and roles (R256, R257, R295) -/

/-- The operator form of an instruction in a context; none for a form that issues no invocation. -/
def opForm (x : Ctx) (i : Instr) : Option OpForm :=
  let mk (op : BitVec 8) (ts : List (BitVec 8 × BitVec 2)) (fld : Nat) (args : List SOp) : Option OpForm :=
    some { ins := i, vpc := x.vpc, op := op, opx := 0, ts := ts, fld := BitVec.ofNat 64 fld, args := args.map x.sop, latchR := none, latchW := none }
  match i with
  | .matmul y a w acc e => mk 0x40 [(y, if acc then 2 else 1), (a, 0), (w, 0)] (b2n acc + 16 * e.toNat) []
  | .matmulGrp y a w acc e =>
    (mk 0x40 [(y, if acc then 2 else 1), (a, 0), (w, 0)] (b2n acc + 2 + 16 * e.toNat) []).map (fun f => { f with latchR := some e.toNat })
  | .ewise y a c op => mk 0x41 [(y, 1), (a, 0), (c, 0)] op.toNat []
  | .unary y a fn table => mk 0x42 [(y, 1), (a, 0)] fn.toNat (if fn = 15 then [table] else [])
  | .norm y a g rms bt eps =>
    mk 0x43 ([(y, 1), (a, 0), (g, 0)] ++ (bt.toList.map (fun b => (b, 0)))) (b2n rms + 2 * b2n bt.isNone) [eps]
  | .softmax y a log => mk 0x44 [(y, 1), (a, 0)] (b2n log) []
  | .reduce y a op axis => mk 0x45 [(y, 1), (a, 0)] (op.toNat + 8 * axis.toNat) []
  | .attn o q k v causal scale => mk 0x46 [(o, 1), (q, 0), (k, 0), (v, 0)] (b2n causal) [scale]
  | .gather y a n axis zfill => mk 0x47 [(y, 1), (a, 0), (n, 0)] (axis.toNat + 8 * b2n zfill) []
  | .scatter y a n axis mode skip => mk 0x48 [(y, 2), (a, 0), (n, 0)] (axis.toNat + 8 * mode.toNat + 32 * b2n skip) []
  | .topk v n a k => mk 0x49 [(v, 1), (n, 1), (a, 0)] 0 [k]
  | .route p a e => (mk 0x4A [(p, 1), (a, 0)] e.toNat []).map (fun f => { f with latchW := some e.toNat })
  | .castT y a => mk 0x4B [(y, 1), (a, 0)] 0 []
  | .quant y a => mk 0x4C [(y, 1), (a, 0)] 0 []
  | .quantFix y a v => mk 0x4C [(y, 1), (a, 0)] 1 [v]
  | .dequant y a => mk 0x4D [(y, 1), (a, 0)] 0 []
  | .transp y a perm => mk 0x4E [(y, 1), (a, 0)] 0 [.imm (perm.zeroExtend 64)]
  | .concat y a c axis => mk 0x4F [(y, 1), (a, 0), (c, 0)] axis.toNat []
  | .copyT y a => mk 0x50 [(y, 1), (a, 0)] 0 []
  | .fillT y v => mk 0x51 [(y, 1)] 0 [v]
  | .luf a p g rep => mk 0x52 [(a, 2), (p, 1), (g, 1)] (b2n rep.isSome) rep.toList
  | .cholf a g rep => mk 0x53 [(a, 2), (g, 1)] (b2n rep.isSome) rep.toList
  | .qrf a tau g => mk 0x54 [(a, 2), (tau, 1), (g, 1)] 0 []
  | .trsm a l low unit trn => mk 0x55 [(a, 2), (l, 0)] (b2n low + 2 * b2n unit + 4 * b2n trn) []
  | .wsload d a => mk 0x25 [(d, 1), (a, 0)] 0 []
  | .allred y a op => mk 0x80 [(y, 1), (a, 0)] op.toNat []
  | .allgath y a => mk 0x81 [(y, 1), (a, 0)] 0 []
  | .redscat y a op => mk 0x82 [(y, 1), (a, 0)] op.toNat []
  | .alltoall y a => mk 0x83 [(y, 1), (a, 0)] 0 []
  | .sendT a peer tag => mk 0x84 [(a, 0)] 0 [peer, .imm (tag.zeroExtend 64)]
  | .recv y peer tag => mk 0x85 [(y, 1)] 0 [peer, .imm (tag.zeroExtend 64)]
  | .opx n no ts ns =>
    (mk 0xFF ((ts.zipIdx).map (fun t => (t.1, if t.2 < no.toNat then 1 else 0))) (ts.length + 16 * ns.length + 256 * no.toNat) ns).map
      (fun f => { f with opx := n })
  | _ => none

/-- A field of the B bytes. -/
def OpForm.b (f : OpForm) (h l : Nat) : Nat := bits f.fld h l
def OpForm.arg (f : OpForm) (i : Nat) : Word := f.args.getD i 0
/-- MATMUL.grp (R276). -/
def OpForm.grp (f : OpForm) : Bool := f.op == 0x40 && f.b 1 1 == 1

/-- A record with no field set, for an operand that is not there. -/
def TRec.none : TRec :=
  { base := 0, fmt := 0, rank := 0, scl := false, shd := false, ro := false, dim := [1, 1, 1, 1, 1, 1], str := [0, 0, 0, 0, 0, 0], sbase := 0, mesh := 0,
    axis := 0, index := 0, count := 0 }

def rT (r : List TRec) (i : Nat) : TRec := r.getD i TRec.none
def TRec.d (t : TRec) (i : Nat) : Nat := t.dim.getD i 1
def TRec.numel (t : TRec) : Nat := t.dim.foldl (· * ·) 1

/-! ## Format and shape rules (R258 steps 4 and 5) -/

/-- The format table entries that the elements of the first output use (R259, R251). -/
def usedEntries (ft : Vector Word 16) (ftb : BitVec 8) (y : TRec) : List Word :=
  let base := ftb.toNat / 16
  let lvl := ftb.toNat % 8
  let e (i : Nat) : Word := ft.toList.getD ((i + base) % 16) 0
  if ftb.getLsbD 3 then
    let n := if lvl < y.rank then y.d lvl else 1
    (List.range (min n 16)).map e
  else [e 0]

/-- A format rule: whether it holds, the value it refuses, the operand. -/
abbrev FRule := Bool × Nat × Nat
/-- A shape rule: whether it holds, the operand, the dimension. -/
abbrev SRule := Bool × Nat × Nat

def fRule (r : List TRec) (i : Nat) (ok : Bool) : FRule := (ok, (rT r i).fmt.toNat, i)
/-- An operand whose elements have values (R39). -/
def fVal (r : List TRec) (i : Nat) : FRule := fRule r i (fmtOf (rT r i).fmt).isSome
/-- An operand whose elements have a width (R39). -/
def fBits (r : List TRec) (i : Nat) : FRule := fRule r i ((rT r i).fmt != 0x40)
def isIntFmt (c : BitVec 8) : Bool := (fmtOf c).any Fmt.isInt
def isFloatFmt (c : BitVec 8) : Bool := (fmtOf c).any Fmt.isFloat

/-- ALLGATH and ALLTOALL move the bits of elements where the two operands have one FMT and both or neither scale bytes; otherwise each value is converted
under the entry of its place (DESIGN CHOICE, log 87). -/
def movesBits (r : List TRec) : Bool := (rT r 0).fmt == (rT r 1).fmt && (rT r 0).scl == (rT r 1).scl

/-- The format rules of a form (R261 to R285). -/
def fmtRules (f : OpForm) (r : List TRec) (ents : List Word) : List FRule :=
  let t := rT r
  let same (i j : Nat) : FRule := fRule r i ((t i).fmt == (t j).fmt)
  let scl (i : Nat) (b : Bool) : FRule := fRule r i ((t i).scl == b)
  let all (i : Nat) (p : Word → Bool) : FRule := fRule r i (ents.all p)
  let zero (v : Word) : FRule := (v == 0, v.toNat % 256, 0)
  match f.op.toNat with
  | 0x40 =>
    [all 1 (fun e => (t 1).fmt == ftA e), all 1 (fun e => ftScA e == (t 1).scl), all 2 (fun e => (t 2).fmt == 0x40 || (t 2).fmt == ftB e),
     all 2 (fun e => !ftScB e || (t 2).fmt == 0x40), fVal r 0]
  | 0x41 => [fVal r 0, fVal r 1, fVal r 2]
  | 0x42 => [fVal r 0, fVal r 1]
  | 0x43 => [fVal r 0, fVal r 1, fRule r 2 (isFloatFmt (t 2).fmt)] ++
      (if f.b 1 1 = 1 then [] else [fRule r 3 (isFloatFmt (t 3).fmt)]) ++ [zero (f.arg 0 >>> 32)]
  | 0x44 => [fVal r 0, fVal r 1]
  | 0x45 => [fVal r 0, fVal r 1]
  | 0x46 => [all 1 (fun e => (t 1).fmt == ftA e), all 2 (fun e => (t 2).fmt == ftB e), all 3 (fun e => (t 3).fmt == ftB e), fVal r 0]
  | 0x47 => [fBits r 1, same 0 1, fRule r 2 ((t 2).fmt == 0x04), scl 0 (t 1).scl, fRule r 1 (!((t 1).scl && f.b 2 0 == 0))]
  | 0x48 => [if f.b 4 3 = 0 then fBits r 1 else fVal r 1, same 0 1, fRule r 2 ((t 2).fmt == 0x04), scl 0 (t 1).scl,
      fRule r 1 (!((t 1).scl && (f.b 2 0 == 0 || f.b 4 3 != 0)))]
  | 0x49 => [fVal r 2, same 0 2, fRule r 1 ((t 1).fmt == 0x04)]
  | 0x4A => [fRule r 1 (isIntFmt (t 1).fmt), fRule r 0 ((t 0).fmt == 0x04)]
  | 0x4B => [fVal r 0, fVal r 1, scl 0 false]
  | 0x4C => [fRule r 1 ((t 1).fmt == 0x01 || (t 1).fmt == 0x02 || (t 1).fmt == 0x03), all 0 (fun e => (t 0).fmt == ftQ e), scl 0 true] ++
      (if f.b 0 0 = 1 then [zero (f.arg 0 >>> 8)] else [])
  | 0x4D => [fVal r 0, fVal r 1, scl 0 false, scl 1 true]
  | 0x4E => [fBits r 1, same 0 1]
  | 0x4F => [fBits r 0, same 1 0, same 2 0]
  | 0x50 => [fBits r 1, same 0 1, scl 0 (t 1).scl]
  | 0x51 => [fBits r 0, scl 0 false]
  | 0x52 => [fRule r 0 ((t 0).fmt == 0x01), fRule r 1 ((t 1).fmt == 0x04), fRule r 2 ((t 2).fmt == 0x01)] ++
      (if f.b 0 0 = 1 then [zero (f.arg 0 >>> 32)] else [])
  | 0x53 => [fRule r 0 ((t 0).fmt == 0x01), fRule r 1 ((t 1).fmt == 0x01)] ++ (if f.b 0 0 = 1 then [zero (f.arg 0 >>> 32)] else [])
  | 0x54 => [fRule r 0 ((t 0).fmt == 0x01), fRule r 1 ((t 1).fmt == 0x01), fRule r 2 ((t 2).fmt == 0x01)]
  | 0x55 => [fRule r 0 ((t 0).fmt == 0x01), fRule r 1 ((t 1).fmt == 0x01)]
  | 0x25 => [same 0 1]
  | 0x80 => [fVal r 0, fVal r 1]
  | 0x82 => [fVal r 0, fVal r 1]
  | 0x81 => if movesBits r then [fBits r 1, fBits r 0] else [fVal r 1, fVal r 0]
  | 0x83 => if movesBits r then [fBits r 1, fBits r 0] else [fVal r 1, fVal r 0]
  | 0x84 => [fBits r 0]
  | 0x85 => [fBits r 0]
  | _ => []

/-- The dimensions of operand i are the list given. -/
def dimsAre (r : List TRec) (i : Nat) (l : List Nat) : List SRule := (List.range 6).map (fun d => ((rT r i).d d == l.getD d 1, i, d))
/-- Operands i and j have equal dimensions but for those that `but` names. -/
def dimsEq (r : List TRec) (i j : Nat) (but : Nat → Bool) : List SRule :=
  (List.range 6).map (fun d => (but d || (rT r i).d d == (rT r j).d d, i, d))
/-- The dimensions of operand i from 2 on equal those of operand j, or are all 1. -/
def batchOrOne (r : List TRec) (i j : Nat) : List SRule :=
  let one := (List.range 4).all (fun d => (rT r i).d (d + 2) == 1)
  (List.range 4).map (fun d => (one || (rT r i).d (d + 2) == (rT r j).d (d + 2), i, d + 2))

/-- The permutation of TRANSP (R274). -/
def permAt (f : OpForm) (d : Nat) : Nat := bits (f.arg 0) (3 * d + 2) (3 * d)

/-- The shape rules of a form (R261 to R285). -/
def shapeRules (f : OpForm) (r : List TRec) : List SRule :=
  let t := rT r
  let none_ (_ : Nat) : Bool := false
  match f.op.toNat with
  | 0x40 =>
    [((t 2).d 1 == (t 1).d 0, 2, 1), ((t 0).d 0 == (t 2).d 0, 0, 0), ((t 0).d 1 == (t 1).d 1, 0, 1)] ++
    (if f.grp then
      [(decide (1 ≤ (t 2).d 2 ∧ (t 2).d 2 ≤ 256), 2, 2)] ++ (List.range 3).map (fun d => ((t 2).d (d + 3) == 1, 2, d + 3)) ++
      (List.range 4).flatMap (fun d => [((t 1).d (d + 2) == 1, 1, d + 2), ((t 0).d (d + 2) == 1, 0, d + 2)])
     else (List.range 4).map (fun d => ((t 0).d (d + 2) == (t 1).d (d + 2), 0, d + 2)) ++ batchOrOne r 2 1)
  | 0x41 => [1, 2].flatMap (fun i => (List.range 6).map (fun d => ((t i).d d == (t 0).d d || (t i).d d == 1, i, d)))
  | 0x43 => dimsEq r 0 1 none_ ++ dimsAre r 2 [(t 1).d 0] ++ (if f.b 1 1 = 1 then [] else dimsAre r 3 [(t 1).d 0])
  | 0x45 => let ax := f.b 5 3
            ((t 0).d ax == 1, 0, ax) :: dimsEq r 0 1 (fun d => d == ax)
  | 0x46 =>
    let q := t 1
    let k := t 2
    let v := t 3
    dimsAre r 2 [q.d 0, k.d 1, k.d 2, q.d 3] ++ [(if k.d 2 = 0 then q.d 2 == 0 else q.d 2 % k.d 2 == 0, 2, 2)] ++
    dimsAre r 3 [v.d 0, k.d 1, k.d 2, q.d 3] ++ dimsAre r 0 [v.d 0, q.d 1, q.d 2, q.d 3] ++ dimsAre r 1 [q.d 0, q.d 1, q.d 2, q.d 3]
  | 0x47 => let ax := f.b 2 0
            [(decide (ax < 6), 0, ax), ((t 2).rank == 1, 2, 1), ((t 2).d 0 == (t 0).d ax, 2, 0)] ++ dimsEq r 1 0 (fun d => d == ax)
  | 0x48 => let ax := f.b 2 0
            [(decide (ax < 6), 0, ax), ((t 2).rank == 1, 2, 1), ((t 2).d 0 == (t 1).d ax, 2, 0)] ++ dimsEq r 1 0 (fun d => d == ax)
  | 0x49 => let k := (f.arg 0).toInt
            [(decide (1 ≤ k ∧ k ≤ (t 2).d 0), 2, 0), (decide (((t 0).d 0 : Int) = k), 0, 0), (decide (((t 1).d 0 : Int) = k), 1, 0)] ++
            dimsEq r 0 2 (fun d => d == 0) ++ dimsEq r 1 2 (fun d => d == 0)
  | 0x4A => [(decide ((t 1).numel < 2 ^ 31), 1, 0), ((t 0).rank == 1, 0, 1), ((t 0).d 0 == (t 1).numel, 0, 0)]
  | 0x42 => dimsEq r 0 1 none_
  | 0x44 => dimsEq r 0 1 none_
  | 0x4B => dimsEq r 0 1 none_
  | 0x4C => dimsEq r 0 1 none_
  | 0x4D => dimsEq r 0 1 none_
  | 0x50 => dimsEq r 0 1 none_
  | 0x4E => let n := (t 1).rank
            (List.range 6).map (fun d => (if d < n then decide (permAt f d < n) && (List.range d).all (fun c => permAt f c != permAt f d) else permAt f d == d, 1, d)) ++
            (List.range 6).map (fun d => ((t 0).d d == (t 1).d (permAt f d), 0, d))
  | 0x4F => let ax := f.b 2 0
            [(decide (ax < 6), 0, ax), ((t 0).d ax == (t 1).d ax + (t 2).d ax, 0, ax)] ++ dimsEq r 1 0 (fun d => d == ax) ++ dimsEq r 2 0 (fun d => d == ax)
  | 0x52 => let n := (t 0).d 0
            [(decide (n ≤ 128), 0, 0), ((t 0).d 1 == n, 0, 1)] ++ dimsAre r 1 ([n, 1] ++ (t 0).dim.drop 2) ++ dimsAre r 2 ([1, 1] ++ (t 0).dim.drop 2)
  | 0x53 => let n := (t 0).d 0
            [(decide (n ≤ 128), 0, 0), ((t 0).d 1 == n, 0, 1)] ++ dimsAre r 1 ([1, 1] ++ (t 0).dim.drop 2)
  | 0x54 => let n := (t 0).d 0
            [(decide (n ≤ 128), 0, 0), ((t 0).d 1 == n, 0, 1)] ++ dimsAre r 1 ([n, 1] ++ (t 0).dim.drop 2) ++ dimsAre r 2 ([1, 1] ++ (t 0).dim.drop 2)
  | 0x55 => let n := (t 0).d 1
            [(decide (n ≤ 128), 0, 1), ((t 1).d 0 == n, 1, 0), ((t 1).d 1 == n, 1, 1)] ++ batchOrOne r 1 0
  | 0x25 => ((t 0).rank == (t 1).rank, 0, 0) :: dimsEq r 0 1 none_
  | 0x80 => ((t 1).shd, 1, 0) :: (!(t 0).shd, 0, 0) :: dimsEq r 0 1 none_
  | 0x81 => let ax := (t 1).axis
            [((t 1).shd, 1, 0), (!(t 0).shd, 0, 0), ((t 0).d ax == (t 1).count * (t 1).d ax, 0, ax)] ++ dimsEq r 0 1 (fun d => d == ax)
  | 0x82 => let ax := (t 1).axis
            let like := (t 0).shd && (t 0).mesh == (t 1).mesh && (t 0).axis == ax && (t 0).index == (t 1).index && (t 0).count == (t 1).count
            [((t 1).shd, 1, 0), (like, 0, 0), ((t 0).d ax * (t 1).count == (t 1).d ax, 0, ax)] ++ dimsEq r 0 1 (fun d => d == ax)
  | 0x83 => let ax := (t 1).axis
            let like := (t 0).shd && (t 0).mesh == (t 1).mesh && (t 0).axis == ax && (t 0).index == (t 1).index && (t 0).count == (t 1).count
            [((t 1).shd, 1, 0), (like, 0, 0), ((t 1).count != 0 && (t 1).d ax % (t 1).count == 0, 1, ax)] ++ dimsEq r 0 1 none_
  | 0x84 => [((t 0).shd, 0, 0), (decide (f.arg 0 ≠ BitVec.ofNat 64 (t 0).index ∧ (f.arg 0).toNat < (t 0).count), 0, 0)]
  | 0x85 => [((t 0).shd, 0, 0), (decide (f.arg 0 ≠ BitVec.ofNat 64 (t 0).index ∧ (f.arg 0).toNat < (t 0).count), 0, 0)]
  | _ => []

/-! ## Sharded operands of built-in operators (R286) -/

/-- How a built-in operator with sharded operands is lowered: not at all, refused with SHAPE, member by member, or as a local product and an all-reduce. -/
inductive Lower where
  | plain | refused | local_ | sum
deriving DecidableEq, Repr

def TRec.sameShard (a b : TRec) : Bool := a.shd == b.shd && (!a.shd || (a.mesh == b.mesh && a.axis == b.axis && a.index == b.index && a.count == b.count))

/-- The lowering of R286. -/
def lowerOf (f : OpForm) (r : List TRec) : Lower :=
  let t := rT r
  if !r.any (·.shd) then .plain
  else
    let mapOp := [0x41, 0x42, 0x4B, 0x50, 0x51, 0x4C, 0x4D].contains f.op.toNat
    if mapOp then (if r.all (fun a => a.sameShard (t 0)) then .local_ else .refused)
    else if f.op = 0x40 && !f.grp then
      if (t 2).shd && (t 2).axis == 0 && !(t 1).shd && (t 0).sameShard (t 2) then .local_
      else if (t 1).shd && (t 2).shd && (t 1).axis == 0 && (t 2).axis == 1 && (t 1).mesh == (t 2).mesh && (t 1).count == (t 2).count &&
        (t 1).index == (t 2).index && f.b 0 0 == 0 && !(t 0).shd then .sum
      else .refused
    else .refused

/-! ## Meshes (R282, R437) -/

/-- The mesh table entry that names a tag and a mesh. -/
def State.meshEntry (s : State) (mesh : Nat) (tag : BitVec 16) : Option Nat :=
  (List.range 64).find? (fun m => let w := s.plat.mesh.get (4 * m)
                                  bit w 63 && bits w 31 16 == mesh && bits w 15 0 == tag.toNat)

/-- A context is registered as member index of a mesh (R282). -/
def State.isMember (s : State) (mesh index : Nat) (tag : BitVec 16) : Bool :=
  match s.meshEntry mesh tag with
  | some m => bits (s.plat.mesh.get (4 * m + 1)) 11 0 == index
  | none => false

/-- The members of a mesh in index order: device and context tag (R437). -/
def State.members (s : State) (mesh : Nat) (tag : BitVec 16) : List (Nat × Nat) :=
  match s.meshEntry mesh tag with
  | none => []
  | some m =>
    let n := bits (s.plat.mesh.get (4 * m)) 43 32 + 1
    let pa := bits (s.plat.mesh.get (4 * m + 2)) 51 6 * 64
    (List.range n).map (fun i => let e := s.readP (pa + 4 * i) 4
                                 (e % 2 ^ 12, e / 2 ^ 16))

/-! ## The checks at issue (R258) -/

/-- A fault of R258: cause, TRAP.INFO, handle. -/
abbrev OpErr := Cause × Nat × Option (BitVec 8)

/-- The records of a form's operands, with their roots; the first unbound handle. -/
def Ctx.recsOf (x : Ctx) : List (BitVec 8 × BitVec 2) → Except (BitVec 8) (List Opnd)
  | [] => .ok []
  | (h, role) :: l => match x.hnd h with
    | none => .error h
    | some b => match x.recsOf l with
      | .error e => .error e
      | .ok r => .ok ({ hnd := h, root := b.root, role := role, tr := b.tr, pub := false } :: r)

/-- The numbers n of blocks of w bytes that a run of bytes meets. -/
def blocksIn (w : Nat) (l : NSet) (r : Nat × Nat) : NSet :=
  if r.2 ≤ r.1 then l else (List.range ((r.2 - 1) / w + 1 - r.1 / w)).foldl (fun l i => l.insert (r.1 / w + i)) l

/-- The byte runs that WSLOAD writes of a TCW tensor: the table, and the images that the source's table leads to at the same offsets (R240, R263). -/
def State.wsRuns (s : State) (root : BitVec 40) (sysv : Bool) (d src : TRec) : List (Nat × Nat) :=
  (d.base, d.base + d.tableLen) :: (s.tcwRuns root sysv src).map (fun p => (p.1 + d.base - src.base, p.2 + d.base - src.base))

/-- The span of an operand of a form at issue (R258): that of a TCW tensor into which WSLOAD copies takes the images of its source (DEDUCED, log 135). -/
def State.spanIn (s : State) (x : Ctx) (f : OpForm) (os : List Opnd) (o : Opnd) : Option (Int × Int) :=
  if f.op = 0x25 && o.role = 1 && o.tr.fmt = 0x40 then
    o.tr.span.map (fun p => (s.wsRuns x.root x.sysv o.tr (((os.find? (fun y => y.role == 0)).map (·.tr)).getD TRec.none)).foldl
      (fun p i => (min p.1 i.1, max p.2 ((i.2 : Int) - 1))) p)
  else s.spanOf x o.tr

def State.spansMeet (s : State) (x : Ctx) (f : OpForm) (os : List Opnd) (a b : Opnd) : Bool :=
  match s.spanIn x f os a, s.spanIn x f os b with
  | some p, some q => decide (p.1 ≤ q.2 ∧ q.1 ≤ p.2)
  | _, _ => false

/-- The aliasing rule of R258 step 3 on a pair of operands. -/
def State.aliasBad (s : State) (x : Ctx) (f : OpForm) (os : List Opnd) (a b : Opnd) : Bool :=
  let inPlace := (f.op == 0x41 || f.op == 0x42 || f.op == 0x4B) && a.hnd == b.hnd && (a.role == 0) != (b.role == 0) && a.tr.dim == b.tr.dim && a.tr.fmt == b.tr.fmt
  !inPlace && (a.root == b.root || ((a.role != 0 || b.role != 0) && s.spansMeet x f os a b))

/-- The first operand that is aliased with one before it. -/
def State.firstAlias (s : State) (x : Ctx) (f : OpForm) (os : List Opnd) : List Opnd → Option Opnd
  | [] => none
  | a :: l => match l.find? (s.aliasBad x f os a) with
    | some b => some b
    | none => s.firstAlias x f os l

/-- The kernel that a form takes (R243, R244): an image, the built-in kernel, or none. -/
def Ctx.lookup (x : Ctx) (f : OpForm) (r : List TRec) : Option (Option (BitVec 16)) :=
  let key : BitVec 9 := if f.op = 0xFF then 0x100#9 + f.opx.zeroExtend 9 else f.op.zeroExtend 9
  let fm (i : Nat) : Nat := ((r[i]?).map (·.fmt.toNat)).getD 0
  let sb (g : BitVec 32) (i : Nat) : Nat := g.toNat / 2 ^ (8 * i) % 256
  let fits (k : BitVec 9 × BitVec 32 × BitVec 16) : Bool := k.1 == key && (List.range 4).all (fun i => sb k.2.1 i == 255 || sb k.2.1 i == fm i)
  let wild (k : BitVec 9 × BitVec 32 × BitVec 16) : Nat := (List.range 4).countP (fun i => sb k.2.1 i == 255)
  match (x.kt.filter fits).foldl (fun b k => match b with
      | none => some k
      | some j => if wild k < wild j then some k else some j) (none : Option (BitVec 9 × BitVec 32 × BitVec 16)) with
  | some k => some (some k.2.2)
  | none => if f.op = 0xFF then none else some none

/-- WSLOAD's destination pages are writable weight-store pages (R240): the first that is not. -/
def State.wsBad (s : State) (x : Ctx) (d src : TRec) : Option Nat :=
  let pages : NSet := if d.fmt = 0x40 then (s.wsRuns x.root x.sysv d src).foldl (blocksIn 4096) []
    else match d.span with
      | none => []
      | some (lo, hi) => blocksIn 4096 [] (lo.toNat, hi.toNat + 1)
  (pages.map (· * 4096)).find? (fun va => match s.walk x.root x.sysv va with
    | .leaf w _ => !(lfW w && isWs (lfPa w va))
    | .absent => true
    | .notResident => false)

/-- The checks of R258 in order; with them R259's FORMAT, R282's membership, R286's lowering, R240's pages. -/
def State.checkOp (s : State) (x : Ctx) (f : OpForm) : Except OpErr (List Opnd × Option (BitVec 16) × Lower) :=
  match x.recsOf f.ts with
  | .error h => .error (.handle, 0, some h)
  | .ok os =>
    let r := os.map (·.tr)
    let hnd (i : Nat) : Option (BitVec 8) := (os[i]?).map (·.hnd)
    match os.find? (fun o => o.role != 0 && o.tr.ro) with
    | some o => .error (.handle, 0, some o.hnd)
    | none => match s.firstAlias x f os os with
      | some o => .error (.handle, 0, some o.hnd)
      | none =>
        let isOp := (0x40 ≤ f.op.toNat && f.op.toNat ≤ 0x55) || f.op == 0xFF
        let kern := if isOp then x.lookup f r else some none
        let moves := (f.op == 0x81 || f.op == 0x83) && movesBits r
        let ents := if isOp || (0x80 ≤ f.op.toNat && f.op.toNat ≤ 0x83 && !moves) then usedEntries x.ft x.ftb (rT r 0) else []
        let builtIn := isOp && kern == some none
        if builtIn && x.ftb.getLsbD 3 && x.ftb.toNat % 8 < 2 then .error (.format, x.ftb.toNat % 8, hnd 0)
        else match ents.findSome? ftBad with
        | some v => .error (.format, v % 256, hnd 0)
        | none => match (fmtRules f r ents).find? (fun u => !u.1) with
          | some (_, v, i) => .error (.format, v, hnd i)
          | none => match (shapeRules f r).find? (fun u => !u.1) with
            | some (_, i, d) => .error (.shape, i + 8 * d, hnd i)
            | none =>
              let low := if builtIn then lowerOf f r else .plain
              let shard := (r.find? (·.shd)).getD TRec.none
              let needMesh := low == .sum || (0x80 ≤ f.op.toNat && f.op.toNat ≤ 0x85)
              if low = .refused then .error (.shape, (r.findIdx (·.shd)) + 8 * shard.axis, hnd (r.findIdx (·.shd)))
              else if needMesh && !s.isMember shard.mesh shard.index x.tag then .error (.signalAccess, 0, hnd 0)
              else match kern with
                | none => .error (.kernelMissing, 0, none)
                | some k =>
                  match (if f.op = 0x25 then s.wsBad x (rT r 0) (rT r 1) else none) with
                  | some va => .error (.extentPerm, 65536 * (va % 2 ^ 48), hnd 0)
                  | none => .ok (os, k, low)

/-! ## Pages of an operator -/

/-- A fault of a built-in kernel: cause, TRAP.INFO, operand, tile ordinal where the form names one. -/
structure EFault where
  cause : Cause
  info  : Nat
  opnd  : Nat
  tile  : Option Nat

abbrev ERes (α : Type) := Except EFault α
def eFail {α : Type} (c : Cause) (info opnd : Nat) : ERes α := .error ⟨c, info, opnd, none⟩

/-- A page that an operator touches: its number, whether it is read and written, the operand, the form of the stage. -/
abbrev PNeed := Nat × Bool × Bool × Nat × OpForm

/-- Who writes an operator's outputs: a kernel's tasks, the base die's copy path (R240), the sequencer (R396). -/
inductive Writer where
  | kernel | copy | seq
deriving DecidableEq, Repr

/-- A writer may write a page (R240, R324, R338 step 5, R339, R342 to R344). -/
def State.mayWrite (s : State) (by_ : Writer) (w : Word) (pa : Nat) : Bool :=
  lfW w && match by_ with
    | .kernel => !isWs pa && !lfSk w && !lfCv w && (s.cloakAt pa).isNone
    | .copy => isWs pa
    | .seq => !isWs pa && (s.cloakAt pa).isNone

/-- What looking up the pages of an operator gives. -/
inductive Prep where
  | ok (pm : List (Nat × Word)) (s : State)
  | park
  | fault (e : EFault) (f : OpForm) (s : State)

/-- Translates the pages an operator touches (R307, R308, R331) and checks its rights there; of a doorbell line a built-in kernel writes parts, which the
home refuses (R433; log 134). -/
def State.prep (s : State) (q : Fin 16) (x : Ctx) (by_ : Writer) : List PNeed → List (Nat × Word) → Prep
  | [], pm => .ok pm s
  | (p, rd, wr, o, f) :: l, pm =>
    let info := p * 4096 % 2 ^ 48 * 65536
    let (r, s1) := s.translate q x (p * 4096) false
    match r with
    | .absent => .fault ⟨.extentMiss, info, o, none⟩ f s1
    | .notResident => .park
    | .leaf w ea =>
      let pa := lfPa w (p * 4096)
      if (rd && !lfR w) || (wr && !s.mayWrite by_ w pa) then .fault ⟨.extentPerm, info, o, none⟩ f s1
      else if wr && s.isDoor pa then
        let d := s1.doorTry x.tag pa 64 1
        .fault ⟨.signalAccess, (sigInfo pa (BitVec.ofNat 12 (bits s.plat.fabId 11 0)) d.1.toNat).toNat, o, none⟩ f d.2
      else State.prep (if wr then s1.touchLeaf x.slot.toNat w ea true else s1) q x by_ l (pm ++ [(p, w)])

/-- A factorisation of empty matrices, which completes without tasks and writes nothing (R278). -/
def OpForm.noMatrix (f : OpForm) (r : List TRec) : Bool := (0x52 ≤ f.op.toNat && f.op.toNat ≤ 0x54) && (rT r 0).d 0 == 0

/-- Every output of an operator has zero elements, or its matrices are empty: it completes without tasks, and so without an access (R260, R278). -/
def Inv.noWork (i : Inv) : Bool :=
  (i.opnds.any (fun o => o.role != 0) && i.opnds.all (fun o => o.role == 0 || o.tr.empty)) || i.stages.any (fun f => f.noMatrix (i.opnds.map (·.tr)))

/-! ## Issue (R294) -/

/-- Zero-fills a line, and leaves it alone when no byte of it is listed. -/
def State.zeroLine (s : State) (ilv pa : Nat) : State :=
  let k := locKey ilv pa
  if (s.surfAt pa).isNone && s.mem.all (fun c => c.1 < k || k + 64 ≤ c.1) then s else s.writePA ilv pa 0 64

/-- Zero-fills the n bytes of an invocation area, granule by granule (R294). -/
def State.zeroArea (s : State) (q : Fin 16) (x : Ctx) : Nat → Nat → Nat → SeqRes
  | 0, _, _ => .val 0 s
  | fuel + 1, va, n => if n = 0 then .val 0 s else match s.seqCheck q x va 1 true with
    | .trap t => .trap t
    | .park => .park
    | .ok w pa s =>
      let len := min n (4096 - va % 4096)
      State.zeroArea ((List.range (len / 64)).foldl (fun s l => s.zeroLine (lfIlv w) (pa + 64 * l)) s) q x fuel (va + len) (n - len)

/-- Writes n bytes of the area, at most one granule. -/
def State.areaPut (s : State) (q : Fin 16) (x : Ctx) (va : Nat) (l : List Byte) : State :=
  match s.seqCheck q x va 1 true with
  | .ok w pa s => s.writePA (lfIlv w) pa (leNat l) l.length
  | _ => s

/-- Two operands order a later invocation's form behind an earlier invocation (R299). -/
def orders (os : List Opnd) (fs : List OpForm) (y : Inv) : Bool :=
  os.any (fun o => y.opnds.any (fun p => p.root == o.root && (o.role != 0 || p.role != 0))) ||
  fs.any (fun f => match f.latchR, f.latchW with
    | some e, _ => y.latchW == some e
    | none, some e => y.latchW == some e || y.latchR == some e
    | none, none => false)

/-- The invocations in flight that a new one is concurrent with (R300): those it is not ordered behind, directly or through another. -/
def Ctx.concOf (x : Ctx) (os : List Opnd) (fs : List OpForm) : List Nat :=
  let deps := x.invs.filter (fun y => !y.over && orders os fs y)
  (x.invs.filter (fun y => !y.over && !deps.any (fun z => z.uid == y.uid || (y.uid < z.uid && !z.conc.contains y.uid)))).map (·.uid)

/-- The operands of a group: the distinct handles in order of first appearance, each with its strongest role (R294). -/
def mergeOpnds (os : List Opnd) : List Opnd :=
  os.foldl (fun (l : List Opnd) o =>
    if l.any (fun p => p.hnd == o.hnd) then l.map (fun p => if p.hnd = o.hnd ∧ p.role.toNat < o.role.toNat then { p with role := o.role } else p) else l ++ [o]) []

/-- A form writes a handle. -/
def OpForm.writes (f : OpForm) (h : BitVec 8) : Bool := f.ts.any (fun t => t.1 == h && t.2 != 0)

/-- The intermediate outputs of a group: those of every member but the last, where a later member does not write the same handle last (R281). -/
def interOf (fs : List OpForm) : List (BitVec 8 × BitVec 2) :=
  (fs.dropLast.flatMap (fun f => (f.ts.filter (fun t => t.2 != 0)).map (fun t => (t.1, 0)))).filter (fun t => !(fs.getLast?).any (fun f => f.writes t.1))

/-- A later operator outside the group names handles (R281): an input asks for the group's output of that name, an output drops it. -/
def Inv.named (i : Inv) (os : List Opnd) : Inv :=
  { i with inter := i.inter.map (fun t => if t.2 ≠ 0 then t
      else match os.find? (fun o => o.hnd == t.1) with
        | some o => (t.1, if o.role = 1 then 2 else 1)
        | none => t) }

/-- The byte that a 4-bit element and its partner make in a window (R42): one request carries both where both are written, none the second of them; the
bits of a partner that is not written stay as they are there, another device's (log 60). -/
def State.winNibble (s : State) (pa : Nat) (ws : List (Nat × Nat × Nat)) (w : Nat × Nat × Nat) : Option Nat :=
  let low := w.1 % 8 = 0
  let old := ((Config.freeWord (s.free + pa)).setWidth 8).toNat
  match ws.reverse.find? (fun o => o.1 == (if low then w.1 + 4 else w.1 - 4) && o.2.1 == 4) with
  | some o => if low then some (w.2.2 % 16 + 16 * (o.2.2 % 16)) else none
  | none => some (if low then old / 16 * 16 + w.2.2 % 16 else old % 16 + 16 * (w.2.2 % 16))

/-- Writes an element, given as bit address, width and code, for invocation uid of the context: at a local home or as a write request to a window; a cloaked
range and a doorbell line take no such write (R342, R433). The element is one of the list ws. -/
def State.putBits (s : State) (q : Fin 16) (x : Ctx) (uid : Nat) (ws : List (Nat × Nat × Nat)) (w : Nat × Nat × Nat) : State :=
  let va := w.1 / 8
  match s.walk x.root x.sysv va with
  | .leaf l _ =>
    let pa := lfPa l va
    let ilv := lfIlv l
    let n := max 1 (w.2.1 / 8)
    let old := s.readByte ilv pa
    let code := if w.2.1 ≠ 4 then w.2.2
      else if w.1 % 8 = 0 then old.toNat / 16 * 16 + w.2.2 % 16 else old.toNat % 16 + w.2.2 % 16 * 16
    if isWin pa then
      match (if w.2.1 = 4 then s.winNibble pa ws w else some w.2.2) with
      | none => s
      | some code => s.sendReq { unit := .core ((s.freeCores x).headD 0), dev := s.devOf pa, addr := pa / 64 * 64, kind := 1, op := 0, n := n, tick := s.tb.toNat, uid := uid,
                                 osq := q, mask := BitVec.ofNat 64 ((2 ^ n - 1) * 2 ^ (pa % 64)), data := BitVec.ofNat 512 (code * 2 ^ (8 * (pa % 64))),
                                 blocked := false, st := 0, reason := 0 } true
    else if s.isDoor pa || (s.cloakAt pa).isSome then s
    else s.writePA ilv pa code n
  | _ => s

/-- Writes the elements of a list in order. -/
def State.putEls (s : State) (q : Fin 16) (x : Ctx) (uid : Nat) (ws : List (Nat × Nat × Nat)) : State :=
  ws.foldl (fun s w => s.putBits q x uid ws w) s

/-- The intermediate outputs kept aside that an operator with these operands comes to name as an input (R281). -/
def Ctx.lazyNow (x : Ctx) (os : List Opnd) : List (BitVec 8 × List (Nat × Nat × Nat)) :=
  x.lazyw.filter (fun t => os.any (fun o => o.hnd == t.1 && o.role != 1))

/-- The pages that they are written to. -/
def Ctx.lazyNeeds (x : Ctx) (os : List Opnd) (f : OpForm) : List PNeed :=
  (x.lazyNow os).flatMap (fun t =>
    let p : NSet := t.2.foldl (fun (l : NSet) w => (l.insert (w.1 / 8 / 4096)).insert ((w.1 / 8 + max 1 (w.2.1 / 8) - 1) / 4096)) []
    p.map (fun n => (n, false, true, os.findIdx (fun o => o.hnd == t.1), f)))

/-- The intermediate outputs that an operator comes to name are written before it issues; those it overwrites are dropped (R281). -/
def State.flushLazy (s : State) (q : Fin 16) (os : List Opnd) : State :=
  match s.ctx q with
  | none => s
  | some x =>
    let hit (h : BitVec 8) : Option Opnd := os.find? (fun o => o.hnd == h)
    let s := (x.lazyNow os).foldl (fun s t => s.putEls q x x.ninv t.2) s
    s.modCtx q (fun x => { x with lazyw := x.lazyw.filter (fun t => (hit t.1).isNone) })

/-- The invocation of a form or group. -/
def Ctx.newInv (x : Ctx) (fs : List OpForm) (f : OpForm) (os : List Opnd) (vpc : BitVec 48) (keep : Bool) (img : Option (BitVec 16)) (area : Nat)
    (coll : Option (BitVec 16 × Nat)) : Inv :=
  { num := BitVec.ofNat 16 x.ninv, uid := x.ninv, stages := fs, keep := keep, inter := if keep then [] else interOf fs, opcode := f.op, opx := f.opx,
    vpc := vpc, fld := f.fld, args := f.args, opnds := os, nout := os.countP (fun o => o.role != 0), ft := x.ft, ftb := x.ftb, mbox := x.mboxP,
    sealed := img.isNone, img := img, area := area, regions := Vector.replicate 16 none, nrec := 0, reps := 0, sstep := 0, opened := img.isNone,
    ended := img.isNone && coll.isNone && f.op != 0x84 && f.op != 0x85, cancel := false, aborted := false,
    latchW := fs.findSome? (·.latchW), latchR := fs.findSome? (·.latchR), coll := coll, conc := x.concOf os fs }

/-- The front of an expansion routine at its first bundle (R294 step 5). -/
def expStart (img : BitVec 16) (exp : Nat) : Front := { Front.reset with img := img, pc := exp, rtn := exp }

/-- Puts an invocation into flight. -/
def State.launch (s : State) (q : Fin 16) (x : Ctx) (i : Inv) (entry : Option Nat) : State :=
  let x' : Ctx := { x.pass with
    ninv := x.ninv + 1, fuse := none,
    invs := x.invs.map (fun y => let y := y.named i.opnds
                                 if i.conc.contains y.uid then { y with conc := y.conc ++ [i.uid] } else y) ++ [i],
    ncoll := match i.coll with
      | some (m, k) => x.ncoll.filter (fun c => c.1 != m) ++ [(m, k + 1)]
      | none => x.ncoll,
    exp := match i.img, entry with
      | some g, some e => some { fr := expStart g e, uid := i.uid, code := e, handledPage := false }
      | _, _ => none }
  (s.flushLazy q i.opnds).setCtx q { x' with lazyw := (((s.flushLazy q i.opnds).ctx q).map (·.lazyw)).getD x.lazyw }

/-- The next instance number of a mesh (R283). -/
def Ctx.instNo (x : Ctx) (mesh : Nat) : Nat := ((x.ncoll.find? (fun c => c.1.toNat == mesh)).map (·.2)).getD 0

/-- Lk of an ATTN that the built-in kernel runs on its decode path: Lq = 1, D and Dv at most 128 (R396). -/
def decodeRows (f : OpForm) (os : List Opnd) : Option Nat :=
  let r (j : Nat) : TRec := (((f.ts[j]?).bind (fun t => os.find? (fun o => o.hnd == t.1))).map (·.tr)).getD TRec.none
  if f.op == 0x46 && (r 1).d 1 == 1 && decide ((r 1).d 0 ≤ 128) && decide ((r 3).d 0 ≤ 128) then some ((r 2).d 1) else none

/-- Launches the built-in ATTN at decode shapes: its expansion routine runs from here on (R396). -/
def State.launchDecode (s : State) (q : Fin 16) (x : Ctx) (i : Inv) : State :=
  (s.launch q x { i with ended := false, sealed := false, opened := false } none).modCtx q
    (fun x => { x with exp := some { fr := Front.reset, uid := i.uid, code := 0, handledPage := false } })

/-- An operand entry of the record that the built-in ATTN submits: the range of the first iteration, with no stride (R303); the ranges of the others, whose
kv head no stride gives, are decRange's (R396; log 119). -/
def decEntry (r : Nat × Int × Nat) : Nat :=
  if r.1 = 0 then 0
  else
    let u := r.2.2 / 64
    let e := ((List.range 16).find? (fun e => (u + 2 ^ e - 1) / 2 ^ e ≤ 1024)).getD 15
    r.2.1.toNat / 64 + r.1 * 2 ^ 42 + 6 * 2 ^ 44 + 6 * 2 ^ 47 + ((u + 2 ^ e - 1) / 2 ^ e - 1) * 2 ^ 82 + e * 2 ^ 92

/-- The record that the built-in ATTN submits (R396 step 5): NDIM 2 with the head innermost, trips H and Bt, CHUNK 0, PRIO 1, ECLS 1, the entries of O, Q,
K and V. -/
def decRaw (i : Inv) (h bt : Nat) : LRec :=
  let r := Mem.write (Mem.write (Mem.write [] 0 (0xFFF * 2 ^ 27 + 2 ^ 24 + 2 ^ 18 + 2 ^ 16 + 2 * 2 ^ 13) 8) 8 ((i.area + 4096) / 64) 8) 16 (h + bt * 2 ^ 21) 16
  (List.range 4).foldl (fun r j => Mem.write r (32 + 12 * j) (decEntry (decRange i [0, 0, 0, 0, 0, 0] j)) 12) r

/-- The end of that routine (R396 steps 4 to 6): SMB0, SMB1, the seal, the record when Lk ≥ 1, `opend.done`. A fused group is evaluated as a whole when it
completes and submits no record (log 119). -/
def Ctx.decodeEnd (x : Ctx) (i : Inv) (f : OpForm) (lk : Nat) : Ctx :=
  let rec_ := lk != 0 && i.stages.length == 1
  let q := i.recAt f 1
  let w : WRec := { inv := i.uid, ord := 0, raw := decRaw i (q.d 2) (q.d 3), consts := [], latch := none, total := none, next := 0, back := [], out := 0,
                    ready := none, first := 0, defer := 0, defWin := 0 }
  { (x.modInv i.uid (fun i => { i with nrec := b2n rec_, mbox := (i.mbox.set 0 (BitVec.ofNat 64 lk)).set 1 (i.args.headD 0), sealed := true,
                                       opened := true, ended := true })) with
    exp := none, recs := if rec_ then x.recs ++ [w] else x.recs }

/-- A turn of the built-in expansion routine of ATTN at decode shapes (R396): region 0, region 1, the record, each when it can be had. An RGALLOC that
fails ends it as R397 says. It goes no further while a request for pre-emption stands (R384). -/
def State.decodeExp (s : State) (q : Fin 16) : State :=
  match (s.ctx q).bind (fun x => if x.preReq.isSome then none else x.exp.bind (fun e => (x.inv e.uid).map (fun i => (x, i)))) with
  | none => s
  | some (x, i) => match i.stages with
    | [] => s
    | f :: _ =>
      let lk := (i.recAt f 2).d 1
      let ask (r n : Nat) : State := match s.roomFor x i r n with
        | .found g => s.grantRegion q x i.uid r g n
        | .wait => s
        | .short run => s.seqTrap q (mkTrap .regionAlloc (BitVec.ofNat 64 (roomInfo r n run)) 0)
      if (i.regions[(0 : Fin 16)]).isNone then ask 0 1
      else if lk ≠ 0 ∧ (i.regions[(1 : Fin 16)]).isNone then ask 1 ((lk + 3) / 4)
      else if lk ≠ 0 ∧ 32 ≤ x.recs.length then s
      else (s.setCtx q (x.decodeEnd i f lk)).armRecs q

/-- Issues a form or a group whose checks have passed (R293, R294). Intermediate outputs that it names are to be written first: a page that is not there
parks the context, one that cannot be written is this instruction's trap (DESIGN CHOICE, log 136). An operator without elements takes no record (R260). -/
def State.issue (s : State) (q : Fin 16) (x : Ctx) (op : BitVec 8) (fs : List OpForm) (os : List Opnd) (vpc : BitVec 48) (keep : Bool)
    (img : Option (BitVec 16)) (low : Lower) : Out :=
  match fs with
  | [] => s.vDone q { x with fuse := none }
  | f :: _ =>
    let isOp := (0x40 ≤ f.op.toNat && f.op.toNat ≤ 0x55) || f.op == 0xFF
    let idle := match f.latchR with
      | some e => (x.latch[Fin.ofNat 16 e]).st == 0 && !x.invs.any (fun i => i.latchW == some e)
      | none => false
    if idle then s.vTrap q op .handle 0 (os.head?.map (·.hnd))
    else if 32 ≤ x.invs.countP (fun i => !i.over) then .next s
    else match s.prep q x .kernel (x.lazyNeeds os f) [] with
    | .park => .next (s.modCtx q (fun x => { x with pageWait := true }))
    | .fault e _ s => s.vTrap q op e.cause e.info ((os[e.opnd]?).map (·.hnd))
    | .ok _ s =>
      let shard := ((os.map (·.tr)).find? (·.shd)).getD TRec.none
      let coll := if low = .sum || (0x80 ≤ f.op.toNat && f.op.toNat ≤ 0x83) then some (BitVec.ofNat 16 shard.mesh, x.instNo shard.mesh) else none
      if !isOp then .next (s.launch q x (x.newInv fs f os vpc keep none 0 coll) none)
      else match heapFit x.heap x.allocs 8192 with
        | none =>
          let held := x.invs.map (·.area)
          if (heapFit x.heap (x.allocs.filter (fun a => !held.contains a.1)) 8192).isSome then .next s
          else s.vTrap q op .regionAlloc (heapInfo 8192) none
        | some a =>
          (s.zeroArea q x 3 a 8192).vk s q op none fun _ s =>
            let s := ((os.take 8).zipIdx).foldl (fun s o => s.areaPut q x (a + 128 * o.2) o.1.tr.bytes) s
            let x := { x with allocs := x.allocs ++ [(a, 8192)] }
            let i := x.newInv fs f os vpc keep img a coll
            .next (if img.isNone && (decodeRows f os).isSome && !i.noWork then s.launchDecode q x i else s.launch q x i ((img.bind s.img).map Img.exp))

/-- The forms that may open a group, and those that may follow (R280). -/
def anchorOk (op : BitVec 8) : Bool := [0x40, 0x46, 0x43, 0x44, 0x41, 0x42, 0xFF].contains op.toNat
def memberOk (op : BitVec 8) : Bool := [0x41, 0x42, 0x4B, 0x4C].contains op.toNat

/-- A member keeps the rules of R280. -/
def groupOk (g : FGroup) (f : OpForm) : Bool :=
  match g.mem.getLast? with
  | none => anchorOk f.op
  | some p => memberOk f.op && match p.ts.find? (fun t => t.2 != 0) with
    | some y => (f.ts.countP (fun t => t.2 == 0 && t.1 == y.1)) == 1
    | none => false

/-- An operator form: outside a group it is checked and issued, inside a group it is checked and kept (R258, R280). -/
def operator (i : Instr) (s : State) : Out :=
  onSeq s fun q x =>
    match opForm x i with
    | none => .next s
    | some f =>
      let trap (e : OpErr) : Out := .next (s.ctxTrap q e.1 (BitVec.ofNat 64 e.2.1) e.2.2 f.op f.opx 0 x.nvpc)
      match x.fuse with
      | none => match s.checkOp x f with
        | .error e => trap e
        | .ok (os, k, low) => s.issue q x f.op [f] os x.vpc false k low
      | some g =>
        if 8 ≤ g.mem.length then trap (.vbcIllegal, 0, none)
        else if !groupOk g f then trap (.handle, 0, f.ts.head?.map (·.1))
        else match s.checkOp x f with
          | .error e => trap e
          | .ok _ => s.vDone q { x with fuse := some { g with mem := g.mem ++ [f] } }

/-- A form that issues an invocation but is no operator in the sense of R243. -/
def scoreboarded (i : Instr) (s : State) : Out :=
  onSeq s fun q x =>
    match opForm x i with
    | none => .next s
    | some f =>
      if x.fuse.isSome then s.vTrap q f.op .vbcIllegal 0 none
      else match s.checkOp x f with
        | .error e => s.vTrap q f.op e.1 e.2.1 e.2.2
        | .ok (os, k, low) => s.issue q x f.op [f] os x.vpc false k low

/-! ## The forms -/

/-- FUSE (R280) -/
def execFuse (keep : Bool) (s : State) : Out :=
  ctlForm 0x30 s fun q x => s.vDone q { x with fuse := some { keep := keep, vpc := x.vpc, mem := [] } }

/-- FUSEND (R280, R281, R294) -/
def execFusend (s : State) : Out :=
  onSeq s fun q x =>
    match x.fuse with
    | none => s.vTrap q 0x31 .vbcIllegal 0 none
    | some g =>
      let all := g.mem.map (fun f => x.recsOf f.ts)
      let os := mergeOpnds (all.flatMap (fun r => match r with
        | .ok l => l
        | .error _ => []))
      if 8 < os.length then s.vTrap q 0x31 .handle 0 ((os[8]?).map (·.hnd))
      else
        let k := (g.mem.head?).bind (fun f => match x.recsOf f.ts with
          | .ok l => (x.lookup f (l.map (·.tr))).getD none
          | .error _ => none)
        let low := match g.mem.head? with
          | some f => (match x.recsOf f.ts with
            | .ok l => if k.isSome then .plain else lowerOf f (l.map (·.tr))
            | .error _ => .plain)
          | none => .plain
        s.issue q x 0x31 g.mem os g.vpc g.keep k low

/-- MATMUL (R261, R262) -/
def execMatmul (y x w : BitVec 8) (acc : Bool) (e : BitVec 4) (s : State) : Out := operator (.matmul y x w acc e) s
/-- MATMUL_GRP (R276) -/
def execMatmulGrp (y x w : BitVec 8) (acc : Bool) (e : BitVec 4) (s : State) : Out := operator (.matmulGrp y x w acc e) s
/-- EWISE (R264) -/
def execEwise (y a c : BitVec 8) (op : BitVec 4) (s : State) : Out := operator (.ewise y a c op) s
/-- UNARY (R265) -/
def execUnary (y x : BitVec 8) (fn : BitVec 4) (table : SOp) (s : State) : Out := operator (.unary y x fn table) s
/-- NORM (R268) -/
def execNorm (y x g : BitVec 8) (rms : Bool) (bt : Option (BitVec 8)) (eps : SOp) (s : State) : Out := operator (.norm y x g rms bt eps) s
/-- SOFTMAX (R269) -/
def execSoftmax (y x : BitVec 8) (log : Bool) (s : State) : Out := operator (.softmax y x log) s
/-- REDUCE (R270) -/
def execReduce (y x : BitVec 8) (op axis : BitVec 3) (s : State) : Out := operator (.reduce y x op axis) s
/-- ATTN (R272) -/
def execAttn (o q k v : BitVec 8) (causal : Bool) (scale : SOp) (s : State) : Out := operator (.attn o q k v causal scale) s
/-- GATHER (R273) -/
def execGather (y x i : BitVec 8) (axis : BitVec 3) (zfill : Bool) (s : State) : Out := operator (.gather y x i axis zfill) s
/-- SCATTER (R273) -/
def execScatter (y x i : BitVec 8) (axis : BitVec 3) (mode : BitVec 2) (skip : Bool) (s : State) : Out := operator (.scatter y x i axis mode skip) s
/-- TOPK (R271) -/
def execTopk (v i x : BitVec 8) (k : SOp) (s : State) : Out := operator (.topk v i x k) s
/-- ROUTE (R275) -/
def execRoute (p x : BitVec 8) (e : BitVec 4) (s : State) : Out := operator (.route p x e) s
/-- CAST (R266) -/
def execCastT (y x : BitVec 8) (s : State) : Out := operator (.castT y x) s
/-- QUANT (R267) -/
def execQuant (y x : BitVec 8) (s : State) : Out := operator (.quant y x) s
/-- QUANT_FIX (R267) -/
def execQuantFix (y x : BitVec 8) (scale : SOp) (s : State) : Out := operator (.quantFix y x scale) s
/-- DEQUANT (R266) -/
def execDequant (y x : BitVec 8) (s : State) : Out := operator (.dequant y x) s
/-- TRANSP (R274) -/
def execTransp (y x : BitVec 8) (perm : BitVec 18) (s : State) : Out := operator (.transp y x perm) s
/-- CONCAT (R274) -/
def execConcat (y a c : BitVec 8) (axis : BitVec 3) (s : State) : Out := operator (.concat y a c axis) s
/-- COPY (R266) -/
def execCopyT (y x : BitVec 8) (s : State) : Out := operator (.copyT y x) s
/-- FILL (R266) -/
def execFillT (y : BitVec 8) (v : SOp) (s : State) : Out := operator (.fillT y v) s
/-- LUF (R277, R278) -/
def execLuf (a p g : BitVec 8) (rep : Option SOp) (s : State) : Out := operator (.luf a p g rep) s
/-- CHOLF (R277, R278) -/
def execCholf (a g : BitVec 8) (rep : Option SOp) (s : State) : Out := operator (.cholf a g rep) s
/-- QRF (R277, R278) -/
def execQrf (a tau g : BitVec 8) (s : State) : Out := operator (.qrf a tau g) s
/-- TRSM (R277, R278) -/
def execTrsm (x l : BitVec 8) (low unit trn : Bool) (s : State) : Out := operator (.trsm x l low unit trn) s
/-- OPX (R279) -/
def execOpx (x : BitVec 8) (no : BitVec 4) (ts : List (BitVec 8)) (ns : List SOp) (s : State) : Out := operator (.opx x no ts ns) s
/-- WSLOAD (R240) -/
def execWsload (d src : BitVec 8) (s : State) : Out := scoreboarded (.wsload d src) s
/-- ALLRED (R284) -/
def execAllred (y x : BitVec 8) (op : BitVec 2) (s : State) : Out := scoreboarded (.allred y x op) s
/-- ALLGATH (R284) -/
def execAllgath (y x : BitVec 8) (s : State) : Out := scoreboarded (.allgath y x) s
/-- REDSCAT (R284) -/
def execRedscat (y x : BitVec 8) (op : BitVec 2) (s : State) : Out := scoreboarded (.redscat y x op) s
/-- ALLTOALL (R284) -/
def execAlltoall (y x : BitVec 8) (s : State) : Out := scoreboarded (.alltoall y x) s
/-- SEND (R285) -/
def execSendT (x : BitVec 8) (peer : SOp) (tag : BitVec 16) (s : State) : Out := scoreboarded (.sendT x peer tag) s
/-- RECV (R285) -/
def execRecv (y : BitVec 8) (peer : SOp) (tag : BitVec 16) (s : State) : Out := scoreboarded (.recv y peer tag) s

/-! ## Signals and fences (R287 to R289) -/

/-- SIGNAL: waits for every operator issued before it, then performs one atomic (R287). -/
def signal (op : BitVec 4) (addr v : SOp) (s : State) : Out :=
  ctlForm 0x90 s fun q x =>
    if x.invs ≠ [] then .next s
    else (s.signalAtom q x (x.sop addr).toNat op (x.sop v)).vk s q 0x90 none fun _ s => s.vDone q x

/-- SIGNAL_SET (R287) -/
def execSignalSet (addr v : SOp) (s : State) : Out := signal 0 addr v s
/-- SIGNAL_ADD (R287) -/
def execSignalAdd (addr v : SOp) (s : State) : Out := signal 1 addr v s

/-- The condition of WAITSIG on the signal word (R288). -/
def sigHolds (cc : BitVec 3) (w v : Word) : Bool :=
  match cc.toNat with
  | 0 => w == v
  | 1 => w != v
  | 2 => decide (v.toNat ≤ w.toNat)
  | 3 => decide (w.toNat < v.toNat)
  | 4 => decide (v.toInt ≤ w.toInt)
  | _ => decide (w.toInt < v.toInt)

/-- WAITSIG (R288): the home's evaluation is no read event and never races (R399). -/
def execWaitsig (cc : BitVec 3) (d : BitVec 6) (addr v : SOp) (s : State) : Out :=
  ctlForm 0x91 s fun q x =>
    let a := (x.sop addr).toNat
    (s.seqRead q x none true a 8).vk s q 0x91 none fun w s =>
      let w := BitVec.ofNat 64 w
      if sigHolds cc w (x.sop v) then s.vDone q (x.setN d w) else .next (s.setCtx q { x with sigWait := some (cc, d, a, x.sop v), sigHit := none })

/-- The word a context waits for, as its home in device memory holds it; the home goes on evaluating while the page migrates (R340, R399). -/
def State.sigWord (s : State) (x : Ctx) (a : Nat) : Option Word :=
  match s.walk x.root x.sysv a true with
  | .leaf w _ => if isWin (lfPa w a) then none else some (BitVec.ofNat 64 (s.readPA (lfIlv w) (lfPa w a) 8))
  | .absent => none
  | .notResident => none

/-- The home of a signal word has been written: the first value that satisfies a WAITSIG is the one it receives, whatever is written later (R288,
R399). -/
def State.sigEval (s : State) (x : Ctx) : Ctx :=
  match x.sigWait, x.sigHit with
  | some (cc, _, a, v), none => (match s.sigWord x a with
    | some w => if sigHolds cc w v then { x with sigHit := some w } else x
    | none => x)
  | _, _ => x

/-- The homes re-evaluate the conditions of the contexts that wait, active or resident (R288, R292). -/
def State.sigEvalAll (s : State) : State :=
  let s := (List.finRange 16).foldl (fun (s : State) q => s.modCtx q (fun x => s.sigEval x)) s
  if s.dorm.isEmpty then s else { s with dorm := s.dorm.map (s.sigEval ·) }

/-- WAITSIG_WAKE (R288): the home found the condition true; the context resumes with the value that satisfied it. -/
def execWaitsigWake (q : Fin 16) (s : State) : Out :=
  match s.ctx q with
  | none => .next s
  | some x => match x.sigWait, x.sigHit with
    | none, _ => .next s
    | some (_, d, _, _), some w => s.vDone q { (x.setN d w) with sigWait := none, sigHit := none }
    | some (cc, d, a, v), none => match s.seqRead q x none true a 8 with
      | .val w s =>
        let w := BitVec.ofNat 64 w
        if sigHolds cc w v then s.vDone q { (x.setN d w) with sigWait := none } else .next s
      | .send r b => .next (s.sendReq r b)
      | .full b => .next (s.askSpill b)
      | _ => .next s

/-- OPFENCE (R289): 5 DEV, 6 HOST, 7 POD, 8 FAB. -/
def execOpfence (scope : BitVec 4) (s : State) : Out :=
  ctlForm 0x92 s fun q x =>
    let out := s.plat.reqs.any (fun r => r.osq == q && r.kind == 1 && r.st == 0 && match r.unit with
      | .core _ => true
      | .seq _ => false)
    if x.invs ≠ [] || (scope ≠ 5 && out) then .next s else s.vDone q x

end Sys2Proof.Machine
end

