-- ==== Sys2Proof/Machine/VanikEval.lean ====
section
/-! DEFINITION. What the vendor built-in kernels compute (R259 to R278, R281), the collectives (R283 to R286), WSLOAD (R240), and the completion of an
invocation (R300). A built-in operator runs in one step when it completes: R260 fixes neither its tasks nor their order. -/

namespace Sys2Proof.Machine

/-! ## Reading tensors -/

/-- Memory as an operator sees it: the translations of the pages it touches, and the elements that earlier stages of its group wrote, the newest first, as
bit address, width and code. -/
structure View where
  s    : State
  root : BitVec 40
  sysv : Bool
  pm   : List (Nat × Word)
  ov   : List (Nat × Nat × Nat)

/-- A byte at a virtual address; a window's bytes belong to another device and are free values (log 60); a doorbell line reads as zero (R433). -/
def View.byte (v : View) (va : Nat) : Byte :=
  let leaf := match v.pm.find? (fun p => p.1 == va / 4096) with
    | some p => some p.2
    | none => match v.s.walk v.root v.sysv va with
      | .leaf w _ => some w
      | _ => none
  match leaf with
  | none => 0
  | some w =>
    let pa := lfPa w va
    if isWin pa then (Config.freeWord (v.s.free + pa)).setWidth 8 else if v.s.isDoor pa then 0 else v.s.readByte (lfIlv w) pa

def View.bytes (v : View) (va n : Nat) : List Byte := (List.range n).map (fun i => v.byte (va + i))

/-- The w bits at a bit address (R42). -/
def View.get (v : View) (bit w : Nat) : Nat :=
  match v.ov.find? (fun o => o.1 == bit && o.2.1 == w) with
  | some o => o.2.2
  | none => if w = 4 then (v.byte (bit / 8)).toNat / 2 ^ (bit % 8) % 16 else leNat (v.bytes (bit / 8) (w / 8))

/-- The bit address of an element (R231). -/
def TRec.bitAt (t : TRec) (idx : List Nat) : Nat :=
  let e : Int := (idx.zip t.str).foldl (fun a p => a + (p.1 : Int) * p.2) 0
  (8 * (t.base : Int) + e * codeWidth t.fmt).toNat

/-- The address of an element's scale byte (R231). -/
def TRec.scaleAt (t : TRec) (idx : List Nat) : Nat :=
  let nb := (t.d 0 + 31) / 32
  let r := (List.range 5).foldl (fun (a : Nat × Nat) d => (a.1 + idx.getD (d + 1) 0 * nb * a.2, a.2 * t.d (d + 1))) (0, 1)
  t.sbase + idx.getD 0 0 / 32 + r.1

/-- The indices of element n, dimension 0 fastest. -/
def idxOf : List Nat → Nat → List Nat
  | [], _ => []
  | d :: l, n => n % d :: idxOf l (n / d)

/-- The index lists of a shape in linear order. -/
def allIdx (dim : List Nat) : List (List Nat) := (List.range (dim.foldl (· * ·) 1)).map (idxOf dim)

def View.code (v : View) (t : TRec) (idx : List Nat) : Nat := v.get (t.bitAt idx) (codeWidth t.fmt)

/-- in(x): the exact value of an element, its block factor included (R259, R46, R58). -/
def View.val (v : View) (t : TRec) (idx : List Nat) : Val :=
  let x := valOf t.fmt (v.code t idx)
  if t.scl then scaleVal x (BitVec.ofNat 8 (v.get (8 * t.scaleAt idx) 8)) else x

/-- rne(in(x)). -/
def View.f32 (v : View) (t : TRec) (idx : List Nat) : Lane := rneF32 (v.val t idx)

/-- The integer of an element of an integer format. -/
def View.int (v : View) (t : TRec) (idx : List Nat) : Int :=
  match fmtOf t.fmt with
  | some (.uint _) => v.code t idx
  | _ => sintOf (codeWidth t.fmt) (v.code t idx)

/-! ## Writing elements -/

/-- What a form gives an output element: its bits, a value to convert, or nothing. -/
inductive ElOut where
  | raw (c : Nat)
  | val (v : Val)
  | keep

/-- The format table entry of an element of the first output (R259). -/
def entryAt (ft : Vector Word 16) (ftb : BitVec 8) (y : TRec) (idx : List Nat) : Word :=
  let lvl := ftb.toNat % 8
  let i := if ftb.getLsbD 3 then (if lvl < y.rank then idx.getD lvl 0 else 0) else 0
  ft.toList.getD ((i + ftb.toNat / 16) % 16) 0

/-- Writes so far, and the draws that come next. -/
abbrev EAcc := List (Nat × Nat × Nat) × Rand

def elWrite (y : TRec) (idx : List Nat) (c : Nat) : Nat × Nat × Nat := (y.bitAt idx, codeWidth y.fmt, c % 2 ^ codeWidth y.fmt)

/-- Converts and writes one element: cvt(z) takes a draw under SR (R259). -/
def elPut (y : TRec) (ent : Word) (a : EAcc) (idx : List Nat) : ElOut → EAcc
  | .raw c => (elWrite y idx c :: a.1, a.2)
  | .keep => a
  | .val v => (elWrite y idx (rndTo ent y.fmt (srAt a.2 0) v) :: a.1, a.2.adv (b2n (ftRm ent == .sr)))

/-- Evaluates every element of an output in linear order under the entries of the first output. -/
def evalEls (y : TRec) (ent : List Nat → Word) (n0 : EAcc) (g : Nat → List Nat → ERes ElOut) : ERes EAcc :=
  ((allIdx y.dim).zipIdx).foldl (fun acc p => acc.bind (fun a => (g p.2 p.1).map (elPut y (ent p.1) a p.1))) (.ok n0)

/-- The clamped integer result (R49). -/
def clampTo (c : BitVec 8) (z : Int) : ElOut :=
  match fmtOf c with
  | some f => .raw (f.clampInt z)
  | none => .keep

/-! ## Functions (R265) -/

def oneVal : Val := .fin false 1 0
def sigmoidF32 (x : Lane) : Lane :=
  let e := exp2F32 (mulF32 (negF32 x) 0x3FB8AA3B)
  rneF32 (oneVal.div (f32Val (rneF32 (oneVal.add (f32Val e)))))
def expF32 (x : Lane) : Lane := exp2F32 (mulF32 x 0x3FB8AA3B)
def logF32 (x : Lane) : Lane := mulF32 (log2F32 x) 0x3F317218
def tanhF32 (x : Lane) : Lane := rneF32 (((f32Val (sigmoidF32 (rneF32 ((f32Val x).scale 1)))).scale 1).sub oneVal)
def geluF32 (x : Lane) : Lane :=
  let c := mulF32 (mulF32 x x) x
  let c := rneF32 (((f32Val 0x3D372713).mul (f32Val c)).add (f32Val x))
  let c := mulF32 0x3F4C422A c
  mulF32 (rneF32 ((f32Val x).scale (-1))) (rneF32 (oneVal.add (f32Val (tanhF32 c))))

/-- The function fn of UNARY on x′; `tab` is the image of fn 15. -/
def unaryF32 (fn : Nat) (tab : List Byte) (x : Lane) : Val :=
  let v := f32Val x
  match fn with
  | 0 => v.neg
  | 1 => v.abs
  | 2 => f32Val (exp2F32 x)
  | 3 => f32Val (log2F32 x)
  | 4 => f32Val (sqrtF32 x)
  | 5 => f32Val (rsqrtF32 x)
  | 6 => f32Val (rneF32 (oneVal.div v))
  | 7 => f32Val (expF32 x)
  | 8 => f32Val (logF32 x)
  | 9 => f32Val (tanhF32 x)
  | 10 => f32Val (sigmoidF32 x)
  | 11 => f32Val (mulF32 x (sigmoidF32 x))
  | 12 => f32Val (geluF32 x)
  | 13 => if v.isNan then .nan else if Val.lt true (.fin false 0 0) v then v else .fin false 0 0
  | _ => f32Val (ftabEval tab x)

/-- The fold of R154 in FP32: 0 sum, 1 min, 2 max, 3 amax. -/
def foldF32 (op : Nat) : List Lane → Lane
  | [] => BitVec.ofNat 32 (foldId 0 op)
  | x :: l => BitVec.ofNat 32 ((l.map (·.toNat)).foldl (foldOp 0 op) (foldFirst 0 op x.toNat))

/-- The SOFTMAX of a run before cvt (R269). -/
def softmaxF32 (log : Bool) (xs : List Lane) : List Lane :=
  let mx := foldF32 2 xs
  if (f32Val mx).isNan then xs.map (fun _ => 0x7FC00000)
  else if (f32Val mx).isInf && (f32Val mx).isNeg then xs.map (fun _ => if log then 0x7FC00000 else 0)
  else
    let ds := xs.map (fun x => subF32 x mx)
    let es := ds.map expF32
    let s := es.foldl addF32 0
    if log then ds.map (fun d => subF32 d (logF32 s)) else es.map (fun e => divF32 e s)

/-- The NORM of a run before cvt (R268): g and b per element; b absent with NOB. -/
def normF32 (rms : Bool) (eps : Lane) (xs : List Lane) (g : List Lane) (b : Option (List Lane)) : List Lane :=
  let n : Val := .fin false xs.length 0
  let divN (x : Lane) : Lane := rneF32 ((f32Val x).div n)
  let mu := divN (xs.foldl addF32 0)
  let ds := if rms then xs else xs.map (fun x => subF32 x mu)
  let q := ds.foldl (fun q d => fma q d d) 0
  let rho := rsqrtF32 (addF32 (divN q) eps)
  (ds.zipIdx).map (fun d =>
    let z := mulF32 d.1 rho
    match b with
    | none => mulF32 z (g.getD d.2 0)
    | some b => fma (b.getD d.2 0) z (g.getD d.2 0))

/-! ## Matrix products (R262, R263, R276) -/

/-- The segments of a TCW tile image, 128 of them, each checked (R206, R263). -/
def View.segs (v : View) : Nat → Nat → Except Nat (List Seg)
  | 0, _ => .ok []
  | n + 1, a => match decSeg (fun m => some (v.bytes a m)) with
    | .error e => .error e
    | .ok g => match v.segs n (a + g.len) with
      | .error e => .error e
      | .ok l => .ok (g :: l)

/-- The address of the tile image that holds row k, column n of batch ordinal b (R263). -/
def View.tileAt (v : View) (w : TRec) (n k b : Nat) : Nat :=
  let kt := (w.d 1 + 127) / 128
  let nt := (w.d 0 + 127) / 128
  v.get (8 * (w.base + 8 * ((b * kt + k / 128) * nt + n / 128))) 64

/-- Element W[n, k] of a TCW tensor under an entry: its value with the block factor if SCM scales B, none when it has no term. -/
def View.tcw (v : View) (w : TRec) (e : Word) (n k b : Nat) : ERes (Option Val) :=
  let off := v.tileAt w n k b
  if off % 64 ≠ 0 || w.str.any (· != 0) then eFail .format 0x40 2
  else match v.segs 128 (w.base + off) with
    | .error x => eFail .format (x % 256) 2
    | .ok l =>
      let past (j : Nat) (g : Seg) : Bool :=
        (w.d 0 ≤ n / 128 * 128 + j && g.col.any (· != 0)) || (g.col.zipIdx).any (fun c => w.d 1 ≤ k / 128 * 128 + c.2 && c.1 != 0)
      match l.find? (fun g => g.fmt != ftB e), (l.zipIdx).any (fun g => past g.2 g.1) with
      | some g, _ => eFail .format g.fmt.toNat 2
      | none, true => eFail .format 0x40 2
      | none, false => match l[n % 128]? with
        | none => .ok none
        | some g =>
          let c := g.col.getD (k % 128) 0
          let x := valOf g.fmt c
          .ok (if x.isZero then none else some (if ftScB e then scaleVal x (BitVec.ofNat 8 (g.scl.toNat / 2 ^ (8 * (k % 128 / 32)))) else x))

/-- The batch index of W for a batch index of Y: its own, or 0 where W is shared. -/
def batchIdx (w : TRec) (b : List Nat) : List Nat := (b.zipIdx).map (fun p => if w.d (p.2 + 2) = 1 then 0 else p.1)

/-- W[n, k, b]. -/
def View.weight (v : View) (w : TRec) (e : Word) (n k : Nat) (b : List Nat) : ERes (Option Val) :=
  if w.fmt = 0x40 then
    v.tcw w e n k ((b.zipIdx).foldl (fun (a : Nat × Nat) p => (a.1 + p.1 * a.2, a.2 * w.d (p.2 + 2))) (0, 1)).1
  else
    let idx := [n, k] ++ b
    .ok (if (valOf w.fmt (v.code w idx)).isZero then none else some (v.val w idx))

/-- One accumulation of R262, from a start value. -/
def View.dot (v : View) (x w : TRec) (e : Word) (n m : Nat) (xb wb : List Nat) (acc : Lane) : ERes Lane :=
  (List.range (x.d 0)).foldl (fun acc k => acc.bind (fun a => (v.weight w e n k wb).map (fun o => match o with
    | some u => fmaF32 a (v.val x ([k, m] ++ xb)) u
    | none => a))) (.ok acc)

/-- The expert that forms row m (R276). -/
def expertOf (l : Latch) (ne m : Nat) : Option Nat :=
  (List.range ne).find? (fun e => let p := (l.pre.toList.getD e 0).toNat
                                  p ≤ m && m < p + (l.cnt.toList.getD e 0).toNat)

/-- An element of MATMUL before cvt; none where MATMUL.grp leaves it. -/
def View.matmul (v : View) (f : OpForm) (r : List TRec) (l : Option Latch) (e : Word) (idx : List Nat) : ERes (Option Lane) :=
  let y := rT r 0
  let x := rT r 1
  let w := rT r 2
  let n := idx.getD 0 0
  let m := idx.getD 1 0
  let b := idx.drop 2
  let start := if f.b 0 0 = 1 then v.f32 y idx else 0
  match f.grp, l with
  | true, some l => match expertOf l (w.d 2) m with
    | none => .ok none
    | some ex => (v.dot x w e n m b [ex, 0, 0, 0] start).map some
  | true, none => .ok none
  | false, _ => (v.dot x w e n m b (batchIdx w b) start).map some

/-! ## Attention (R272) -/

/-- The scores of a row, masked. -/
def View.scores (v : View) (f : OpForm) (q k : TRec) (i h b : Nat) : List Lane :=
  let hk := kvHead q k h
  (List.range (k.d 1)).map (fun j =>
    let acc := (List.range (q.d 0)).foldl (fun a d =>
      let ki := [d, j, hk, b, 0, 0]
      if (valOf k.fmt (v.code k ki)).isZero then a else fmaF32 a (v.val q [d, i, h, b, 0, 0]) (v.val k ki)) 0
    if f.b 0 0 = 1 && decide ((i : Int) + k.d 1 - q.d 1 < j) then 0xFF800000 else mulF32 acc ((f.arg 0).setWidth 32))

/-- A row of ATTN, the query row i of head h and batch b: it draws first for its p′ and then for its elements. -/
def View.attnRow (v : View) (f : OpForm) (r : List TRec) (ent : List Nat → Word) (a : EAcc) (row : List Nat) : EAcc :=
  let o := rT r 0
  let q := rT r 1
  let k := rT r 2
  let u := rT r 3
    let i := row.getD 0 0
    let h := row.getD 1 0
    let b := row.getD 2 0
    let hk := kvHead q k h
    let e := ent [0, i, h, b, 0, 0]
    let p := softmaxF32 false (v.scores f q k i h b)
    -- a row whose scores are all masked
    let dark := f.b 0 0 = 1 && decide ((i : Int) + k.d 1 - q.d 1 < 0)
    let p' := (p.zipIdx).map (fun x => valOf (ftA e) (rndTo e (ftA e) (srAt a.2 x.2) (f32Val x.1)))
    let a : EAcc := (a.1, a.2.adv (if ftRm e == .sr then p.length else 0))
    (List.range (o.d 0)).foldl (fun a d =>
      let acc := if dark then 0 else (p'.zipIdx).foldl (fun s x =>
        let vi := [d, x.2, hk, b, 0, 0]
        if (valOf u.fmt (v.code u vi)).isZero then s else fmaF32 s x.1 (v.val u vi)) 0
      elPut o e a [d, i, h, b, 0, 0] (.val (f32Val acc))) a

/-- The rows of ATTN in ascending order. -/
def View.attn (v : View) (f : OpForm) (r : List TRec) (ent : List Nat → Word) (a0 : EAcc) : EAcc :=
  let q := rT r 1
  (allIdx [q.d 1, q.d 2, q.d 3]).foldl (v.attnRow f r ent) a0

/-! ## Data movement (R266, R271, R273 to R275) -/

/-- The first element of every block of a shape (R58). -/
def blocksOf (dim : List Nat) : List (List Nat) :=
  (allIdx (dim.set 0 ((dim.getD 0 1 + 31) / 32))).map (fun b => b.set 0 (32 * b.getD 0 0))

/-- The scale bytes that move with whole blocks: `src` names the element whose scale byte the block at an index takes, none for 0x7F. -/
def View.scales (v : View) (y x : TRec) (src : List Nat → Option (List Nat)) : List (Nat × Nat × Nat) :=
  if !y.scl || !x.scl then []
  else (blocksOf y.dim).map (fun b => (8 * y.scaleAt b, 8, match src b with
    | some i => v.get (8 * x.scaleAt i) 8
    | none => 0x7F))

/-- The rank of x is above that of y in TOPK (R271). -/
def ranksAbove (x y : Val) : Bool := if x.isNan then !y.isNan else !y.isNan && Val.lt false y x

/-- The positions of a run, the highest rank first, ties to the lower index. -/
def rankRun (l : List Val) : List Nat :=
  (List.range l.length).foldl (fun (acc : List Nat) i =>
    let x := l.getD i .nan
    acc.takeWhile (fun j => !ranksAbove x (l.getD j .nan)) ++ [i] ++ acc.dropWhile (fun j => !ranksAbove x (l.getD j .nan))) []

/-- The slices of SCATTER in ascending order, each combined into its slice of Y (R273). -/
def View.scatter (v : View) (f : OpForm) (r : List TRec) (ent : List Nat → Word) (a0 : EAcc) : ERes EAcc :=
  let y := rT r 0
  let x := rT r 1
  let n := rT r 2
  let ax := f.b 2 0
  let ints := isIntFmt x.fmt
  (List.range (x.d ax)).foldl (fun acc p => acc.bind (fun a =>
    let row := v.int n [p, 0, 0, 0, 0, 0]
    if row < 0 ∨ (y.d ax : Int) ≤ row then (if f.b 5 5 = 1 then .ok a else eFail .shape p 0)
    else
      let a := (allIdx (x.dim.set ax 1)).foldl (fun a i =>
        let xi := i.set ax p
        let yi := i.set ax row.toNat
        let now : View := { v with ov := a.1 ++ v.ov }
        let out : ElOut := match f.b 4 3 with
          | 0 => .raw (v.code x xi)
          | 1 => if ints then clampTo y.fmt (now.int y yi + v.int x xi) else .val (f32Val (addF32 (now.f32 y yi) (v.f32 x xi)))
          | _ => if ints then clampTo y.fmt (max (now.int y yi) (v.int x xi)) else .val ((f32Val (now.f32 y yi)).max (f32Val (v.f32 x xi)))
        elPut y (ent yi) a yi out) a
      let sc := if y.scl && x.scl then (blocksOf (x.dim.set ax 1)).map (fun i =>
          (8 * y.scaleAt (i.set ax row.toNat), 8, v.get (8 * x.scaleAt (i.set ax p)) 8)) else []
      .ok (sc ++ a.1, a.2))) (.ok a0)

/-- The counts, prefix sums and placement of ROUTE (R275): the latch entry and P. -/
def View.route (v : View) (x : TRec) : Latch × List Nat :=
  let keys := (allIdx x.dim).map (v.int x)
  let cnt (e : Nat) : Nat := keys.countP (fun k => k == (e : Int))
  let cs := (List.range 256).map cnt
  let pre (e : Nat) : Nat := (cs.take e).foldl (· + ·) 0
  let out := keys.countP (fun k => decide (k < 0 ∨ 255 < k))
  let w (n : Nat) : BitVec 32 := BitVec.ofNat 32 n
  let sorted := (List.range 256).flatMap (fun (e : Nat) => ((keys.zipIdx).filter (fun k => k.1 == (e : Int))).map (·.2)) ++
    ((keys.zipIdx).filter (fun k => decide (k.1 < 0 ∨ 255 < k.1))).map (·.2)
  ({ st := 2, n := 0, got := 0, cnt := Vector.ofFn (fun e => w (cnt e.val)), pre := Vector.ofFn (fun e => w (pre e.val)), out := w out }, sorted)

/-- QUANT (R267): each run of dimension 0 in blocks of 32. -/
def View.quant (v : View) (f : OpForm) (y x : TRec) (ent : List Nat → Word) (a0 : EAcc) : EAcc :=
  (blocksOf y.dim).foldl (fun a b =>
    let lo := b.getD 0 0
    let is := (List.range (min 32 (y.d 0 - lo))).map (fun i => b.set 0 (lo + i))
    let e := ent b
    let sc := if f.b 0 0 = 1 then (f.arg 0).setWidth 8 else quantScale y.fmt (ftCap e) (is.map (v.val x))
    let a := is.foldl (fun (a : EAcc) i =>
      let e := ent i
      (elWrite y i (quantCode e y.fmt (f.b 0 0 == 0) sc (srAt a.2 0) (v.val x i)) :: a.1, a.2.adv (b2n (ftRm e == .sr)))) a
    ((8 * y.scaleAt b, 8, sc.toNat) :: a.1, a.2)) a0

/-! ## Factorisations (R277, R278) -/

/-- The hem tolerance of a built-in kernel's tasks: the reset value of HEM.TOL (R28, log 61). -/
def builtInTol : Lane := 0x39800000

/-- Steps k .. n − 1 of a factorisation over the array: the array, τ_k, whether a pivot was replaced. -/
def factLoop (step : MArr → Nat → Option Lane → FStep) (stop : Cause) (rep : Option Lane) (tile : Nat) :
    Nat → Nat → MArr → List Lane → Bool → ERes (MArr × List Lane × Bool)
  | 0, _, a, taus, used => .ok (a, taus, used)
  | n + 1, k, a, taus, used =>
    let r := match step a k none, rep with
      | .stop, some v => (step a k (some v), true)
      | s, _ => (s, false)
    match r.1 with
    | .stop => .error ⟨stop, k, 0, some tile⟩
    | .done tiles perm tau _ cmp =>
      if cmp.any (fun c => hemMismatch builtInTol c.1 c.2) then
        .error ⟨.hemEscalated, k, 0, some tile⟩
      else factLoop step stop rep tile n (k + 1) { a with tiles := tiles, perm := perm } (taus ++ [tau]) (used || r.2)

/-- A matrix of a tensor in a tile: element [i][j] is at dimension 1 index i and dimension 0 index j (R277). -/
def View.tile (v : View) (t : TRec) (rows cols j0 : Nat) (b : List Nat) : Tile :=
  Vector.ofFn (fun i => Vector.ofFn (fun j =>
    if i.val < rows && j.val < cols then BitVec.ofNat 32 (v.code t ([j0 + j.val, i.val] ++ b)) else 0))

/-- The writes of a tile's matrix. -/
def tileOut (t : TRec) (rows cols j0 : Nat) (b : List Nat) (x : Tile) : List (Nat × Nat × Nat) :=
  (List.range rows).flatMap (fun i => (List.range cols).map (fun j => elWrite t ([j0 + j, i] ++ b) (tAt x i j).toNat))

def arrOf (x y : Tile) : MArr := { MArr.reset with tiles := (MArr.reset.tiles.set 0 x).set 1 y }

/-- One matrix of LUF, CHOLF, QRF or TRSM. -/
def View.factor (v : View) (f : OpForm) (r : List TRec) (ord : Nat) (b : List Nat) : ERes (List (Nat × Nat × Nat)) :=
  let a := rT r 0
  let n := a.d 0
  let rep := if f.b 0 0 = 1 then some ((f.arg 0).setWidth 32) else none
  let x0 := v.tile a n n 0 b
  let grow (op : BitVec 3) (x : Tile) (used : Bool) : Nat := (growthG op x n (growthD op x0 n) ||| (if used then 0x80000000 else 0)).toNat
  match f.op.toNat with
  | 0x52 => (factLoop (fun a k p => luStep a 0 n k p) .zeroPivot rep ord n 0 (arrOf x0 Tile.zero) [] false).map (fun o =>
      tileOut a n n 0 b o.1.tiles[0] ++ (List.range n).map (fun i => elWrite (rT r 1) ([i, 0] ++ b) (o.1.perm[Fin.ofNat 128 i]).toNat) ++
      [elWrite (rT r 2) ([0, 0] ++ b) (grow 1 o.1.tiles[0] o.2.2)])
  | 0x53 => (factLoop (fun a k p => cholStep a 0 n k p) .notPd rep ord n 0 (arrOf x0 Tile.zero) [] false).map (fun o =>
      tileOut a n n 0 b o.1.tiles[0] ++ [elWrite (rT r 1) ([0, 0] ++ b) (grow 2 o.1.tiles[0] o.2.2)])
  | 0x54 => (factLoop (fun a k _ => qrStep a 0 n k) .zeroPivot none ord n 0 (arrOf x0 Tile.zero) [] false).map (fun o =>
      tileOut a n n 0 b o.1.tiles[0] ++ (o.2.1.zipIdx).map (fun t => elWrite (rT r 1) ([t.2, 0] ++ b) t.1.toNat) ++
      [elWrite (rT r 2) ([0, 0] ++ b) (grow 3 o.1.tiles[0] false)])
  | _ =>
    let l := rT r 1
    let m := a.d 1
    let t := v.tile l m m 0 (batchIdx l b)
    (List.range ((a.d 0 + 127) / 128)).foldl (fun acc g => acc.bind (fun ws =>
      let c := min 128 (a.d 0 - 128 * g)
      (factLoop (fun a q _ => trsmStep a 0 m c (f.b 0 0 == 1) (f.b 1 1 == 1) (f.b 2 2 == 1) q none) .zeroPivot none ord m 0
        (arrOf t (v.tile a m c (128 * g) b)) [] false).map (fun o => ws ++ tileOut a m c (128 * g) b o.1.tiles[1]))) (.ok [])

/-- Every matrix of the batch, in order; none is written when one faults. -/
def View.factorAll (v : View) (f : OpForm) (r : List TRec) : ERes (List (Nat × Nat × Nat)) :=
  if f.noMatrix r then .ok [] else ((allIdx ((rT r 0).dim.drop 2)).zipIdx).foldl (fun acc b => acc.bind (fun ws => (v.factor f r b.2 b.1).map (fun w => ws ++ w))) (.ok [])

/-! ## One form (R259 to R278) -/

/-- What a form leaves: its writes, the newest first, the next draw, and the latch entry of ROUTE. -/
abbrev EOut := EAcc × Option (Nat × Latch)

/-- What WSLOAD writes of a TCW tensor: the table and the images that it leads to, at the same offsets (R240, R263). -/
def View.imageCopy (v : View) (d src : TRec) : List (Nat × Nat × Nat) :=
  ((src.base, src.base + src.tableLen) :: v.s.tcwRuns v.root v.sysv src).flatMap (fun r =>
    (List.range (r.2 - r.1)).map (fun i => (8 * (d.base + r.1 + i - src.base), 8, (v.byte (r.1 + i)).toNat)))

/-- The run of dimension 0 that holds an index. -/
def runOf (v : View) (t : TRec) (idx : List Nat) : List Lane := (List.range (t.d 0)).map (fun i => v.f32 t (idx.set 0 i))

/-- A form evaluated on the memory a view shows (R259). -/
def evalForm (v : View) (f : OpForm) (r : List TRec) (latch : Vector Latch 16) (ft : Vector Word 16) (ftb : BitVec 8) (n0 : Rand) : ERes EOut :=
  let t := rT r
  let y := t 0
  let ent := entryAt ft ftb y
  let els (o : TRec) (g : Nat → List Nat → ERes ElOut) : ERes EOut := (evalEls o ent ([], n0) g).map (fun a => (a, none))
  let map1 (g : Lane → Val) : ERes EOut := els y (fun _ i => .ok (.val (g (v.f32 (t 1) i))))
  let copy (src : List Nat → List Nat) : ERes EOut := els y (fun _ i => .ok (.raw (v.code (t 1) (src i))))
  let withSc (o : ERes EOut) (src : List Nat → Option (List Nat)) : ERes EOut := o.map (fun a => ((v.scales y (t 1) src ++ a.1.1, a.1.2), a.2))
  match f.op.toNat with
  | 0x40 =>
    let l := f.latchR.map (fun e => latch[Fin.ofNat 16 e])
    let ne := (t 2).d 2
    let excess := f.grp && l.any (fun l => (t 1).d 1 < (l.pre.toList.getD (ne - 1) 0).toNat + (l.cnt.toList.getD (ne - 1) 0).toNat)
    if excess then eFail .shape 0 0
    else els y (fun _ i => (v.matmul f r l (ent i) i).map (fun o => match o with
      | some x => .val (f32Val x)
      | none => .keep))
  | 0x41 =>
    let a := t 1
    let c := t 2
    let at_ (x : TRec) (i : List Nat) : List Nat := (i.zipIdx).map (fun p => if x.d p.2 = 1 then 0 else p.1)
    let op := f.b 3 0
    if isIntFmt y.fmt && isIntFmt a.fmt && isIntFmt c.fmt then
      els y (fun n i =>
        let p := v.int a (at_ a i)
        let q := v.int c (at_ c i)
        match op with
        | 0 => .ok (clampTo y.fmt (p + q))
        | 1 => .ok (clampTo y.fmt (p - q))
        | 2 => .ok (clampTo y.fmt (p * q))
        | 3 => if q = 0 then eFail .divZero n 0 else .ok (clampTo y.fmt (Int.tdiv p q))
        | 4 => .ok (clampTo y.fmt (min p q))
        | _ => .ok (clampTo y.fmt (max p q)))
    else
      els y (fun _ i =>
        let p := f32Val (v.f32 a (at_ a i))
        let q := f32Val (v.f32 c (at_ c i))
        .ok (.val (f32Val (rneF32 (match op with
          | 0 => p.add q
          | 1 => p.sub q
          | 2 => p.mul q
          | 3 => p.div q
          | 4 => p.min q
          | _ => p.max q)))))
  | 0x42 =>
    let fn := f.b 3 0
    let tab := if fn = 15 then v.bytes (f.arg 0).toNat 1152 else []
    if fn = 15 && !ftabOk tab then eFail .format 0 0 else map1 (fun x => unaryF32 fn tab x)
  | 0x43 =>
    let vec (o : TRec) : List Lane := (List.range (y.d 0)).map (fun i => v.f32 o [i, 0, 0, 0, 0, 0])
    els y (fun _ i =>
      let z := normF32 (f.b 0 0 == 1) ((f.arg 0).setWidth 32) (runOf v (t 1) i) (vec (t 2)) (if f.b 1 1 = 1 then none else some (vec (t 3)))
      .ok (.val (f32Val (z.getD (i.getD 0 0) 0))))
  | 0x44 => els y (fun _ i => .ok (.val (f32Val ((softmaxF32 (f.b 0 0 == 1) (runOf v (t 1) i)).getD (i.getD 0 0) 0))))
  | 0x45 =>
    let x := t 1
    let op := f.b 2 0
    let ax := f.b 5 3
    let along (i : List Nat) : List (List Nat) := (List.range (x.d ax)).map (fun j => i.set ax j)
    if op = 0 && isIntFmt x.fmt && isIntFmt y.fmt then els y (fun _ i => .ok (clampTo y.fmt (((along i).map (v.int x)).foldl (· + ·) 0)))
    else els y (fun _ i =>
      let xs := (along i).map (v.f32 x)
      .ok (.val (f32Val (if op = 4 then (if xs = [] then 0x7FC00000 else rneF32 ((f32Val (foldF32 0 xs)).div (.fin false xs.length 0))) else foldF32 op xs))))
  | 0x46 => .ok (v.attn f r ent ([], n0), none)
  | 0x47 =>
    let x := t 1
    let ax := f.b 2 0
    let src (i : List Nat) : Option (List Nat) :=
      let g := v.int (t 2) [i.getD ax 0, 0, 0, 0, 0, 0]
      if 0 ≤ g ∧ g < x.d ax then some (i.set ax g.toNat) else none
    withSc (els y (fun _ i => match src i with
      | some j => .ok (.raw (v.code x j))
      | none => if f.b 3 3 = 1 then .ok (.raw 0) else eFail .shape (i.getD ax 0) 1)) src
  | 0x48 => (v.scatter f r ent ([], n0)).map (fun a => (a, none))
  | 0x49 =>
    let x := t 2
    let sel (i : List Nat) : Nat := (rankRun ((List.range (x.d 0)).map (fun j => v.val x (i.set 0 j)))).getD (i.getD 0 0) 0
    (evalEls y ent ([], n0) (fun _ i => .ok (.raw (v.code x (i.set 0 (sel i)))))).bind (fun a =>
      (evalEls (t 1) ent a (fun _ i => .ok (.raw (sel i)))).map (fun a => (a, none)))
  | 0x4A =>
    let e := f.b 3 0
    if (latch[Fin.ofNat 16 e]).st = 1 then eFail .handle 0 0
    else
      let p := v.route (t 1)
      (evalEls y ent ([], n0) (fun n _ => .ok (.raw (p.2.getD n 0)))).map (fun a => (a, some (e, p.1)))
  | 0x4B => els y (fun _ i => .ok (.val (v.val (t 1) i)))
  | 0x4D => els y (fun _ i => .ok (.val (v.val (t 1) i)))
  | 0x4C => .ok (v.quant f y (t 1) ent ([], n0), none)
  | 0x4E => copy (fun i => (List.range 6).map (fun d => ((List.range 6).find? (fun e => permAt f e == d)).elim 0 (fun e => i.getD e 0)))
  | 0x4F =>
    let ax := f.b 2 0
    let n := (t 1).d ax
    els y (fun _ i => .ok (.raw (if i.getD ax 0 < n then v.code (t 1) i else v.code (t 2) (i.set ax (i.getD ax 0 - n)))))
  | 0x50 => withSc (copy id) some
  | 0x25 => if y.fmt = 0x40 then .ok ((v.imageCopy y (t 1), n0), none) else withSc (copy id) some
  | 0x51 => els y (fun _ _ => .ok (.raw (f.arg 0).toNat))
  | 0x52 => (v.factorAll f r).map (fun w => ((w, n0), none))
  | 0x53 => (v.factorAll f r).map (fun w => ((w, n0), none))
  | 0x54 => (v.factorAll f r).map (fun w => ((w, n0), none))
  | 0x55 => (v.factorAll f r).map (fun w => ((w, n0), none))
  | _ => .ok (([], n0), none)

/-! ## Pages and races -/

/-- The pages of a tensor's elements and scale bytes, ascending. -/
def TRec.pages (t : TRec) : NSet :=
  let p := (allIdx t.dim).foldl (fun (l : NSet) i =>
    let b := t.bitAt i / 8
    (l.insert (b / 4096)).insert ((b + (codeWidth t.fmt - 1) / 8) / 4096)) []
  let p := if t.scl then (blocksOf t.dim).foldl (fun l i => l.insert (t.scaleAt i / 4096)) p else p
  if t.fmt = 0x40 then (List.range (t.tableLen / 8)).foldl (fun l i => l.insert ((t.base + 8 * i) / 4096)) p else p

/-- The images of a TCW operand (R263): those that WSLOAD writes stand as its source's do (R240). -/
def State.imagesIn (s : State) (x : Ctx) (i : Inv) (o : Opnd) : List (Nat × Nat) :=
  if o.tr.fmt ≠ 0x40 then []
  else if i.opcode = 0x25 && o.role != 0 then
    (s.wsRuns x.root x.sysv o.tr (((i.opnds.find? (fun y => y.role == 0)).map (·.tr)).getD TRec.none)).drop 1
  else s.tcwImages x o.tr

/-- The pages of an operand, the images of a TCW tensor included (R263). -/
def State.pagesOf (s : State) (x : Ctx) (i : Inv) (o : Opnd) : NSet := (s.imagesIn x i o).foldl (blocksIn 4096) o.tr.pages

/-- The lines of an operand: elements, scale bytes, a TCW tensor's table and images (R260, R263). -/
def State.linesOf (s : State) (x : Ctx) (i : Inv) (o : Opnd) : NSet :=
  let t := o.tr
  let l := (allIdx t.dim).foldl (fun (l : NSet) i => l.insert (t.bitAt i / 512)) []
  let l := if t.scl then (blocksOf t.dim).foldl (fun (l : NSet) i => l.insert (t.scaleAt i / 64)) l else l
  if t.fmt = 0x40 then (s.imagesIn x i o).foldl (blocksIn 64) (blocksIn 64 l (t.base, t.base + t.tableLen)) else l

/-- The operands whose elements stage k reads or writes in memory: an intermediate output that is not to be written takes no access, nor does a read of
what an earlier stage gave, nor a write that a later stage overwrites (R281). -/
def stageOps (i : Inv) (k : Nat) (f : OpForm) : List Opnd :=
  let given (h : BitVec 8) : Bool := (i.stages.take k).any (fun g => g.writes h && !g.grp)
  let lost (h : BitVec 8) : Bool := (i.stages.drop (k + 1)).any (fun g => g.writes h)
  f.ts.filterMap (fun t => (i.opnds.find? (fun o => o.hnd == t.1)).bind (fun o =>
    let rd := t.2 != 1 && !given t.1
    let wr := t.2 != 0 && !lost t.1
    if i.inter.any (fun u => u.1 == t.1 && u.2 != 1) || !(rd || wr) then none
    else some { o with role := if rd && wr then 2 else if wr then 1 else 0 }))

/-- The outputs of ATTN at decode shapes with no key are the sequencer's to write; nothing is read (R396, R272). -/
def Inv.seqOnly (i : Inv) : Bool := match i.stages with
  | [f] => i.img.isNone && decodeRows f i.opnds == some 0
  | _ => false

/-- The operands that the stages of an invocation access in memory, with their stage. -/
def Inv.accOps (i : Inv) : List (OpForm × Opnd) :=
  if i.noWork then []
  else (i.stages.zipIdx).flatMap (fun f => ((stageOps i f.2 f.1).filter (fun o => !i.seqOnly || o.role != 0)).map (fun o => (f.1, o)))

/-- The bytes of the function table that a UNARY reads (R265). -/
def OpForm.table (f : OpForm) : Option (Nat × Nat) :=
  if f.op = 0x42 && f.b 3 0 == 15 then some ((f.arg 0).toNat, (f.arg 0).toNat + 1152) else none

/-- The pages that an invocation's built-in stages touch; none where it has no elements (R260). -/
def State.pageNeeds (s : State) (x : Ctx) (i : Inv) : List PNeed :=
  i.accOps.flatMap (fun a =>
    (s.pagesOf x i a.2).map (fun p => (p, a.2.role != 1, a.2.role != 0, i.opnds.findIdx (fun p => p.hnd == a.2.hnd), a.1))) ++
  (if i.noWork then [] else i.stages.flatMap (fun f => f.table.elim [] (fun r => (blocksIn 4096 [] r).map (fun p => (p, true, false, 1, f)))))

/-- The lines that an operator reads or writes, stage by stage: the line, the kind of access, the operand, the form of the stage. -/
def State.touched (s : State) (x : Ctx) (i : Inv) : List (Nat × BitVec 3 × Nat × OpForm) :=
  i.accOps.flatMap (fun a =>
    let j := i.opnds.findIdx (fun p => p.hnd == a.2.hnd)
    (s.linesOf x i a.2).flatMap (fun n =>
      (if a.2.role = 1 then [] else [(n, (0 : BitVec 3), j, a.1)]) ++ (if a.2.role = 0 then [] else [(n, (1 : BitVec 3), j, a.1)]))) ++
  (if i.noWork then [] else i.stages.flatMap (fun f => f.table.elim [] (fun r => (blocksIn 64 [] r).map (fun n => (n, (0 : BitVec 3), 1, f)))))

/-- An access to a line: its stamp, its page, virtual address, operand, form of the stage, and whether it keeps no stamp (R335, R349). -/
structure RAcc where
  st    : Stamp
  page  : Word
  va    : Nat
  opnd  : Nat
  form  : OpForm
  quiet : Bool

/-- Accesses for the race rules (R260), the n-th made by the core that `by_` names. -/
def raceAccs (s : State) (q : Fin 16) (i : Inv) (pm : List (Nat × Word)) (by_ : Nat → Nat) (l : List (Nat × BitVec 3 × Nat × OpForm)) : List RAcc :=
  (l.zipIdx).filterMap (fun (a : (Nat × BitVec 3 × Nat × OpForm) × Nat) =>
    let va := a.1.1 * 64
    match pm.find? (fun p => p.1 == va / 4096) with
    | none => none
    | some (_, w) =>
      let pa := lfPa w va
      some { st := { line := locKey (lfIlv w) (pa / 64 * 64), core := by_ a.2, kind := a.1.2.1, inv := i.uid, osq := q, ss := i.sstep, many := false, scope := 0 },
             page := w, va := va, opnd := a.1.2.2.1, form := a.1.2.2.2, quiet := s.unstamped (a.1.2.1 == 0 && lfSk w) pa })

/-- The stamps that an access of an operator races with. Tasks of one built-in invocation do not race with each other: they compute what R260 and R396 give,
heads that share a line of O among them (DEDUCED, log 133). -/
def State.rivalsOf (s : State) (a : Stamp) : List Stamp := (s.rivals a).filter (fun b => b.inv != a.inv || 320 ≤ b.core || 320 ≤ a.core)

/-- What an access of an operator does to the copies of its line: a core's goes through its cluster's L2, a sequencer's to the home; a read through a CV page
fixes what it returns (R323, R334, R335, R343). -/
def State.lineAcc (s : State) (x : Ctx) (a : RAcc) : State :=
  let pa := lfPa a.page a.va
  let ilv := lfIlv a.page
  let na := lfNa a.page
  if isWin pa then s
  else if a.st.kind = 0 then
    let s := s.noteCv pa 64
    if a.st.core < 320 then s.cacheLine (a.st.core / 8) x.slot.toNat (locKey ilv pa) (s.readKey ilv pa) false na true
    else s.homeLine x.slot.toNat (locKey ilv pa) (s.readKey ilv pa) na
  else if a.st.core < 320 then s.cacheLine (a.st.core / 8) x.slot.toNat (locKey ilv pa) (locKey ilv pa) true na true
  else (s.homeLine x.slot.toNat (locKey ilv pa) (locKey ilv pa) na).invalAt ilv pa 64

/-- Stamps the accesses of an operator, whose lines the caches and the home MSCs take (R323, R335), or the race that the first of them meets (R351). -/
def State.raceAll (s : State) (x : Ctx) (l : List RAcc) : Except (EFault × OpForm) State :=
  let s1 := { s with free := s.free + l.length }
  match l.findSome? (fun a => if a.quiet then none else (s.rivalsOf a.st).head?.map (fun b => ((s.raceTrap 0 a.st b a.va).info, a))) with
  | some (info, a) => .error (⟨.memrace, info.toNat, a.opnd, none⟩, a.form)
  | none => .ok (l.foldl (fun s a => if a.quiet then s.lineAcc x a else (s.lineAcc x a).stamp a.st) s1)

/-! ## The weight store's refresh (R325) -/

/-- The refresh groups of the weight-store pages among those that an operator touches. -/
def wsGroups (pm : List (Nat × Word)) : BitVec 16 :=
  pm.foldl (fun (b : BitVec 16) p => let pa := lfPa p.2 (p.1 * 4096)
                                     if isWs pa then b ||| BitVec.ofNat 16 (2 ^ (pa / 4096 % 16)) else b) 0

/-- An operator goes through the groups it touches as they are not refreshing (R325): those it has been through from now on, and whether one is left.
Its accesses are made at no fixed moment (R260), and are evaluated once it has been through all (DEDUCED, log 137). -/
def State.wsPass (s : State) (pm : List (Nat × Word)) (was : BitVec 16) : BitVec 16 × Bool :=
  let need := wsGroups pm
  let now := was ||| (need &&& ~~~ BitVec.ofNat 16 (2 ^ (s.tb.toNat / 2000 % 16)))
  (now, need &&& ~~~ now != 0)

/-! ## The stages of an invocation (R281) -/

/-- What an invocation leaves: writes per handle, in the order made, the next draw, and latch entries. -/
structure EDone where
  ws    : List (BitVec 8 × List (Nat × Nat × Nat))
  n     : Rand
  latch : List (Nat × Latch)

/-- Runs the stages one after another, each intermediate in its own format; a fault names its stage. -/
def runStages (v : View) (x : Ctx) (i : Inv) : List OpForm → EDone → Except (EFault × OpForm) EDone
  | [], d => .ok d
  | f :: l, d =>
    let r := f.ts.map (fun t => ((i.opnds.find? (fun o => o.hnd == t.1)).map (·.tr)).getD TRec.none)
    let latch := d.latch.foldl (fun (v : Vector Latch 16) e => v.set (Fin.ofNat 16 e.1) e.2) x.latch
    match evalForm v f r latch i.ft i.ftb d.n with
    | .error e => .error ({ e with opnd := i.opnds.findIdx (fun o => some o.hnd == (f.ts[e.opnd]?).map (·.1)) }, f)
    | .ok (a, la) =>
      let y := (f.ts.head?.map (·.1)).getD 0
      runStages { v with ov := a.1 ++ v.ov } x i l { ws := d.ws ++ [(y, a.1.reverse)], n := a.2, latch := d.latch ++ la.toList }

/-! ## Reports and completion -/

/-- A kernel fault of a built-in operator (R258, R260, R277): the tile is the form's own or one that nothing fixes, as is the core. -/
def State.opFault (s : State) (q : Fin 16) (x : Ctx) (i : Inv) (f : OpForm) (e : EFault) : State :=
  let team := (List.finRange 320).filter (fun c => x.team.getLsbD (c.val / 8))
  let c := ((team[(Config.freeWord s.free).toNat % max 1 team.length]?).map (·.val)).getD 0
  let tile := e.tile.getD ((Config.freeWord (s.free + 1)).toNat % 2 ^ 23)
  let hem := e.cause == .hemEscalated
  let r : Report :=
    { cause := e.cause, kind := true, num := i.num, uid := some i.uid, tb := s.tb, info := BitVec.ofNat 64 e.info, tile := BitVec.ofNat 64 tile,
      fvpc := if hem then i.fvpc else BitVec.ofNat 64 (f.vpc.toNat + f.op.toNat * 2 ^ 48 + f.opx.toNat * 2 ^ 56),
      hnd := (i.opnds[e.opnd]?).map (·.hnd), core := some (BitVec.ofNat 9 c) }
  ({ s with free := s.free + 2 }.abortInv q i.uid).holdReport q r

/-- Ends an invocation (R300): its outputs are published, its updates fold, its area returns to the heap, stamps that no later access can race with go. -/
def State.endInv (s : State) (q : Fin 16) (i : Inv) : State :=
  let s := s.foldParts q i.uid
  let s := s.modCtx q (fun x => { x with invs := x.invs.filter (fun y => y.uid != i.uid), recs := x.recs.filter (fun w => w.inv != i.uid),
                                         allocs := x.allocs.filter (fun a => !(i.area != 0 && a == (i.area, 8192))) })
  let live (a : Stamp) : Bool := a.osq != q || (s.ctx q).any (fun x => x.invs.any (fun y => y.uid == a.inv || y.conc.contains a.inv))
  { s with stamps := s.stamps.filter live }.armRecs q

/-- The writes of an evaluated invocation, the last of each handle: intermediate outputs that nothing has named yet are kept aside (R281). -/
def State.store (s : State) (q : Fin 16) (x : Ctx) (i : Inv) (d : EDone) (draws : Nat) : State :=
  let want (h : BitVec 8) : BitVec 2 := ((i.inter.find? (fun t => t.1 == h)).map (·.2)).getD 1
  let ws := ((d.ws.zipIdx).filter (fun w => !(d.ws.drop (w.2 + 1)).any (fun v => v.1 == w.1.1))).map (·.1)
  let s := ws.foldl (fun s w => if want w.1 = 1 then s.putEls q x i.uid w.2 else s) s
  let s := s.useDraws (if draws = 0 then .rne else .sr) draws
  s.modCtx q (fun x => { x with
    lazyw := x.lazyw ++ ws.filter (fun w => want w.1 == 0),
    latch := d.latch.foldl (fun (v : Vector Latch 16) e => v.set (Fin.ofNat 16 e.1) e.2) x.latch })

/-- The first access of a built-in that reads a line with an uncorrectable mark (R378). -/
def State.ueHit (s : State) (x : Ctx) (l : List (Nat × BitVec 3 × Nat × OpForm)) : Option (EFault × OpForm) :=
  if s.ueMarks.isEmpty then none
  else l.findSome? (fun (a : Nat × BitVec 3 × Nat × OpForm) =>
    let va := a.1 * 64
    if a.2.1 ≠ 0 then none
    else match s.walk x.root x.sysv va with
      | .leaf w _ => if s.ueAt (lfIlv w) (lfPa w va) then some (⟨.ueEscalated, va % 2 ^ 48 * 65536, a.2.2.1, none⟩, a.2.2.2) else none
      | _ => none)

/-- The team core that makes the n-th access of a built-in operator, which nothing fixes (R260; log 62). -/
def State.teamPick (s : State) (x : Ctx) (n : Nat) : Nat :=
  let team := (List.finRange 320).filter (fun c => x.team.getLsbD (c.val / 8))
  ((team[(Config.freeWord (s.free + n)).toNat % max 1 team.length]?).map (·.val)).getD 0

/-- The accesses of an operator once its pages are there: an uncorrectable error or a race among them faults it, otherwise they are stamped
(R351, R378), or it waits for a refresh (R325) or for room for the stamps (R336). The error is the state with the fault, or the one to stay in. -/
def State.accessInv (s : State) (q : Fin 16) (x : Ctx) (i : Inv) (pm : List (Nat × Word)) : Except State State :=
  let l := s.touched x i
  let w := s.wsPass pm i.wsDone
  if w.2 then .error (s.modCtx q (fun x => x.modInv i.uid (fun i => { i with wsDone := w.1 })))
  else match s.ueHit x l with
  | some (e, f) => .error ((s.countUe 0).opFault q x i f e)
  | none => match s.raceAll x (raceAccs s q i pm (if i.seqOnly then fun _ => 320 + q.val else s.teamPick x) l) with
    | .error (e, f) => .error (s.opFault q x i f e)
    | .ok t => match s.spillOver t with
      | some d => .error (s.askSpill d)
      | none => .ok t

/-- The granules that a fused group on the decode path of ATTN held keep what its tasks left there (R396): free bytes (log 119). -/
def State.leaveRegions (s : State) (x : Ctx) (i : Inv) : State :=
  if i.stages.length < 2 then s else (i.granules).foldl (fun (s : State) g =>
    let s := (List.finRange 320).foldl (fun (s : State) c =>
      if x.team.getLsbD (c.val / 8) then
        s.modCore c (fun k => { k with scr := Mem.lay k.scr (g.1 * 4096) (g.2 * 4096) (fun a => Config.leftByte (s.free + c.val * 786432 + a)) })
      else s) s
    { s with free := s.free + 320 * 786432 }) s

/-- The outputs of an evaluated invocation are stored and published, and it ends (R253, R300). -/
def State.finishInv (s : State) (q : Fin 16) (x : Ctx) (i : Inv) (d : EDone) (draws : Nat) : State :=
  (((s.store q x i d draws).leaveRegions x i).modCtx q (fun x => x.modInv i.uid Inv.publish)).endInv q i

/-- Evaluates the stages of an invocation on memory as it stands, and ends it or faults it. -/
def State.evalInv (s : State) (q : Fin 16) (x : Ctx) (i : Inv) (pm : List (Nat × Word)) (fs : List OpForm) : State :=
  match runStages { s := s, root := x.root, sysv := x.sysv, pm := pm, ov := [] } x i fs { ws := [], n := s.sr, latch := [] } with
  | .error (e, f) => s.opFault q x i f e
  | .ok d => s.finishInv q x i d (d.n.base - s.free)

/-- A built-in operator, a fused group of them, or WSLOAD, runs and completes; it stays where a page parks it. A ROUTE of no elements still latches. -/
def State.runBuiltIn (s : State) (q : Fin 16) (x : Ctx) (i : Inv) : State :=
  if i.noWork then s.evalInv q x i [] (i.stages.filter (fun f => f.op == 0x4A))
  else match s.prep q x (if i.opcode = 0x25 then .copy else if i.seqOnly then .seq else .kernel) (s.pageNeeds x i) [] with
  | .park => s
  | .fault e f s => s.opFault q x i f e
  | .ok pm s => match s.accessInv q x i pm with
    | .error s => s
    | .ok s => s.evalInv q x i pm i.stages

/-! ## The tasks of ATTN at decode shapes (R396) -/

/-- What a task's two regions hold on its core when it ends (R396): region 1 the K and V rows of each key position in FP32, the K row in the first half of
its 1 KiB; region 0, and what no row fills, free bytes (log 119). -/
def View.decodeScr (v : View) (k : Core) (i : Inv) (f : OpForm) (h b : Nat) : Core :=
  let kr := i.recAt f 2
  let vr := i.recAt f 3
  let hk := kvHead (i.recAt f 1) kr h
  let left (a : Nat) : Byte := Config.leftByte (v.s.free + a)
  let lay (k : Core) (r : Option (Nat × Nat)) (g : Nat → Byte) : Core := match r with
    | none => k
    | some (g0, n) => { k with scr := Mem.lay k.scr (g0 * 4096) (n * 4096) g, marks := k.marks.filter (fun w => w / 1024 < g0 || g0 + n ≤ w / 1024) }
  let base := match i.regions[(1 : Fin 16)] with
    | some (g0, _) => g0 * 4096
    | none => 0
  let row (a : Nat) : Byte :=
    let o := a - base
    let j := o / 1024
    let t := if o % 1024 < 512 then kr else vr
    let e := o % 512 / 4
    if j < kr.d 1 ∧ e < t.d 0 then BitVec.ofNat 8 ((v.f32 t [e, j, hk, b, 0, 0]).toNat / 256 ^ (o % 4)) else left a
  lay (lay k i.regions[(0 : Fin 16)] left) i.regions[(1 : Fin 16)] row

/-- A fault of a task of a built-in kernel. -/
def Inv.taskTrap (i : Inv) (e : EFault) : Trap :=
  { cause := e.cause, info := BitVec.ofNat 64 e.info, slot := none, ring := none, tensor := (i.opnds[e.opnd]?).map (·.hnd), async := false, note := [] }

/-- The turn of a core with a task of the built-in ATTN (R396): it computes its head by R272 in one phase, stores its row of O, and ends with `exit.e`. -/
def State.decodeTask (s : State) (c : Fin 320) : State :=
  match (s.core c).task with
  | none => s
  | some t => if t.parked || t.frozen then s
    else match s.ctx t.osq, s.taskInv c with
    | some x, some i => match i.stages with
      | [] => s
      | f :: _ =>
        let h := t.idx.getD 0 0
        let b := t.idx.getD 1 0
        let runs (w : Nat) (j : Nat) : NSet := let r := decRange i t.idx j
                                               if r.1 = 0 then [] else blocksIn w [] (r.2.1.toNat, r.2.1.toNat + r.2.2)
        let needs : List PNeed := (List.range 4).flatMap (fun j => (runs 4096 j).map (fun p => (p, j != 0, j == 0, j, f)))
        match s.prep t.osq x .kernel needs [] with
        | .park => s
        | .fault e _ s => s.kernelFault c (i.taskTrap e)
        | .ok pm s =>
          let g := s.wsPass pm t.ws
          if g.2 then s.modCore c (fun k => { k with task := some { t with ws := g.1 } }) else
          let l := (List.range 4).flatMap (fun j => (runs 64 j).map (fun n => (n, (if j = 0 then 1 else 0 : BitVec 3), j, f)))
          match s.ueHit x l with
          | some (e, _) => (s.countUe 0).kernelFault c (i.taskTrap e)
          | none => match s.raceAll x (raceAccs s t.osq i pm (fun _ => c.val) l) with
            | .error (e, _) => s.kernelFault c (i.taskTrap e)
            | .ok t' => match s.spillOver t' with
            | some d => s.askSpill d
            | none =>
              let s := t'
              let v : View := { s := s, root := x.root, sysv := x.sysv, pm := pm, ov := [] }
              let a := v.attnRow f ((List.range 4).map (i.recAt f)) (entryAt i.ft i.ftb (i.recAt f 0)) ([], s.sr) [0, h, b]
              let n := a.2.base - s.free
              let s := (s.modCore c (fun k => v.decodeScr k i f h b)).putEls t.osq x i.uid a.1.reverse
              ({ s.useDraws (if n = 0 then .rne else .sr) n with free := (s.useDraws (if n = 0 then .rne else .sr) n).free + 786432 }).exitEnd c
    | _, _ => s

/-! ## Collectives (R283 to R286) -/

/-- A member of an instance as this device sees it: a context of its own with its invocation, one not yet issued, one that is gone, or another device's. -/
inductive Member where
  | here (q : Fin 16) (x : Ctx) (i : Inv)
  | wait
  | gone
  | far

/-- The members of an instance in index order. -/
def State.instMembers (s : State) (mesh : Nat) (tag : BitVec 16) (k : Nat) : List Member :=
  (s.members mesh tag).map (fun m =>
    if m.1 ≠ bits s.plat.fabId 11 0 then (if (s.routeOf (BitVec.ofNat 12 m.1)).isNone then .gone else .far)
    else match (List.finRange 16).find? (fun q => (s.ctx q).any (fun x => x.tag.toNat == m.2)) with
      | none => if s.dorm.any (fun x => x.tag.toNat == m.2) then .wait else .gone
      | some q => match s.ctx q with
        | none => .gone
        | some x => match x.invs.find? (fun i => i.coll == some (BitVec.ofNat 16 mesh, k)) with
          | some i => if i.aborted then .gone else .here q x i
          | none => if k < x.instNo mesh then .gone else .wait)

/-- What members must agree on (R283): form, op, and of every operand FMT, RANK and every dimension but the sharded one: an operand's own shard axis, and
that of X in the outputs of a collective. -/
def instKey (i : Inv) : List Nat :=
  i.stages.flatMap (fun f =>
    let coll := 0x80 ≤ f.op.toNat
    [f.op.toNat, f.fld.toNat] ++ (List.range f.ts.length).flatMap (fun j =>
      let t := i.recAt f j
      let ax := i.recAt f 1
      let skip (d : Nat) : Bool := (t.shd && t.axis == d) || (coll && ax.axis == d)
      [t.fmt.toNat, t.rank] ++ (t.dim.zipIdx).map (fun d => if skip d.2 then 0 else d.1)))

/-- The lowest member index that differs from member 0, or from the first member of this device. -/
def firstDiffer (l : List Member) : Option Nat :=
  let keys := l.map (fun m => match m with
    | .here _ _ i => some (instKey i)
    | _ => none)
  match keys.findSome? id with
  | none => none
  | some k => let n := keys.findIdx (fun j => j.any (· != k))
              if n < keys.length then some n else none

/-- The free value that stands for an element of a member of another device (log 60): named by the member, the element's indices and what it is, so that it
is the same for all members of this device (R284). -/
def farWord (s : State) (j : Nat) (idx : List Nat) (what : Nat) : Word :=
  Config.freeWord (s.free + 2 ^ 64 * (what + 4 * (j + 4096 * (idx.foldr (fun i a => i + 2 ^ 32 * a) 0)) + 1))

/-- A tensor of the member of an instance: a member of this device reads its memory; another device's elements are free values (log 60). -/
def memberVal (s : State) (l : List Member) (j : Nat) (op : Nat) (like : TRec) (idx : List Nat) : Val × Nat :=
  match l[j]? with
  | some (.here _ x i) =>
    let t := ((i.opnds[op]?).map (·.tr)).getD TRec.none
    let v : View := { s := s, root := x.root, sysv := x.sysv, pm := [], ov := [] }
    (v.val t idx, v.code t idx)
  | _ =>
    let c := (farWord s j idx 0).toNat % 2 ^ codeWidth like.fmt
    (valOf like.fmt c, c)

/-- The scale byte of an element's block in a tensor of a member; another device's are free values (log 60). -/
def memberScale (s : State) (l : List Member) (j : Nat) (op : Nat) (idx : List Nat) : Nat :=
  match l[j]? with
  | some (.here _ x i) =>
    let t := ((i.opnds[op]?).map (·.tr)).getD TRec.none
    let v : View := { s := s, root := x.root, sysv := x.sysv, pm := [], ov := [] }
    v.get (8 * t.scaleAt idx) 8
  | _ => (farWord s j idx 1).toNat % 256

/-- The fold of R284 over the members' values of an element. -/
def foldMembers (op : Nat) (vs : List Val) : Lane :=
  match vs with
  | [] => 0
  | v :: l => l.foldl (fun a x =>
      let b := rneF32 x
      match op with
      | 0 => addF32 a b
      | 1 => rneF32 ((f32Val a).min (f32Val b))
      | _ => rneF32 ((f32Val a).max (f32Val b))) (rneF32 v)

/-- The partial product of a member in the lowered MATMUL (R286): R262 without the final cvt. -/
def memberPartial (s : State) (l : List Member) (j : Nat) (idx : List Nat) : ERes Lane :=
  match l[j]? with
  | some (.here _ x i) =>
    let v : View := { s := s, root := x.root, sysv := x.sysv, pm := [], ov := [] }
    let f := i.stages.headD { ins := .gend, vpc := 0, op := 0, opx := 0, ts := [], fld := 0, args := [], latchR := none, latchW := none }
    let r := (List.range f.ts.length).map (i.recAt f)
    (v.matmul f r none (entryAt i.ft i.ftb (rT r 0) idx) idx).map (fun z => z.getD 0)
  | _ => .ok ((farWord s j idx 2).setWidth 32)

/-- The fault that a member's own partial product meets (R286, R263): it is that member's. -/
def memberBad (s : State) (l : List Member) (j : Nat) (i : Inv) : Option EFault :=
  match i.stages with
  | [] => none
  | f :: _ => if f.op ≠ 0x40 then none else (allIdx (i.recAt f 0).dim).findSome? (fun idx => match memberPartial s l j idx with
      | .error e => some e
      | .ok _ => none)

/-- Where an element of ALLGATH or ALLTOALL comes from: the member, and the index in its X (R284). -/
def movedFrom (f : OpForm) (x : TRec) (idx : List Nat) : Nat × List Nat :=
  let ax := x.axis
  let c := if f.op = 0x83 then x.d ax / max 1 x.count else x.d ax
  let o := if f.op = 0x83 then x.index * c else 0
  (idx.getD ax 0 / max 1 c, idx.set ax (o + idx.getD ax 0 % max 1 c))

/-- The scale bytes of a collective's Y: those of X move with whole blocks, as COPY moves them (R266, R284); what a scaled Y holds otherwise is not
stated, so those bytes are free (DESIGN CHOICE, log 118). -/
def movedScales (s : State) (l : List Member) (f : OpForm) (y x : TRec) : List (Nat × Nat × Nat) :=
  let c := if f.op = 0x83 then x.d 0 / max 1 x.count else x.d 0
  let whole := (f.op == 0x81 || f.op == 0x83) && x.scl && y.fmt == x.fmt && (x.axis != 0 || c % 32 == 0)
  if !y.scl then []
  else (blocksOf y.dim).map (fun b => (8 * y.scaleAt b, 8,
    if whole then (let p := movedFrom f x b; memberScale s l p.1 1 p.2) else (farWord s 0 b 3).toNat % 256))

/-- Y of a member (R284, R286). Where X and Y are of one format and only one of them has scale bytes, ALLGATH and ALLTOALL convert each value under the entry
(DEDUCED, log 87). -/
def collOut (s : State) (l : List Member) (i : Inv) (f : OpForm) (n0 : Rand) : ERes EAcc :=
    let y := i.recAt f 0
    let x := i.recAt f 1
    let ent := entryAt i.ft i.ftb y
    let ms := List.range l.length
    let ax := x.axis
    let move : ERes EAcc := (evalEls y ent ([], n0) (fun _ idx =>
      let p := movedFrom f x idx
      let v := memberVal s l p.1 1 x p.2
      .ok (if y.fmt = x.fmt ∧ y.scl = x.scl then .raw v.2 else .val v.1))).map (fun a => (movedScales s l f y x ++ a.1, a.2))
    match f.op.toNat with
    | 0x40 => evalEls y ent ([], n0) (fun _ idx =>
        (ms.foldl (fun (acc : ERes (List Val)) j => acc.bind (fun vs => (memberPartial s l j idx).map (fun z => vs ++ [f32Val z]))) (.ok [])).map
          (fun vs => .val (f32Val (foldMembers 0 vs))))
    | 0x81 => move
    | 0x83 => move
    | o =>
      let src (idx : List Nat) : List Nat := if o = 0x82 then idx.set ax (idx.getD ax 0 + x.index * y.d ax) else idx
      let int (v : Val × Nat) : Int := match fmtOf x.fmt with
        | some (.uint _) => v.2
        | _ => sintOf (codeWidth x.fmt) v.2
      (evalEls y ent ([], n0) (fun _ idx =>
        let vs := ms.map (fun j => memberVal s l j 1 x (src idx))
        .ok (if f.b 1 0 = 0 && isIntFmt x.fmt && isIntFmt y.fmt then clampTo y.fmt ((vs.map int).foldl (· + ·) 0)
             else .val (f32Val (foldMembers (f.b 1 0) (vs.map (·.1))))))).map (fun a => (movedScales s l f y x ++ a.1, a.2))

/-- What a member's invocation leaves: Y of the collective, then the other stages of its group (R281, R284, R286). -/
def memberOut (s : State) (l : List Member) (x : Ctx) (i : Inv) (n0 : Rand) : Except (EFault × OpForm) EDone :=
  match i.stages with
  | [] => .ok { ws := [], n := n0, latch := [] }
  | f :: fs => match collOut s l i f n0 with
    | .error e => .error (e, f)
    | .ok a => runStages { s := s, root := x.root, sysv := x.sysv, pm := [], ov := a.1 } x i fs
        { ws := [((f.ts.head?.map (·.1)).getD 0, a.1.reverse)], n := a.2, latch := [] }

/-- A kernel fault of an invocation at its first stage. -/
def State.headFault (s : State) (q : Fin 16) (x : Ctx) (i : Inv) (e : EFault) : State :=
  match i.stages with
  | f :: _ => s.opFault q x i f e
  | [] => s

/-- Every member of this device takes the same kernel fault (R283). -/
def State.instFault (s : State) (l : List Member) (info : Nat) : State :=
  l.foldl (fun s m => match m with
    | .here q x i => s.headFault q x i ⟨.shape, info, 1, some 0⟩
    | _ => s) s

/-- The pages of an invocation are there; where not, the state to stay in: parked, or the invocation's kernel fault. -/
def State.prepInv (s : State) (q : Fin 16) (x : Ctx) (i : Inv) : Except State (State × List (Nat × Word)) :=
  match s.prep q x .kernel (s.pageNeeds x i) [] with
  | .ok pm s => .ok (s, pm)
  | .park => .error s
  | .fault e f s => .error (s.opFault q x i f e)

/-- The pages of every member of this device, in index order. -/
def State.instPrep (s : State) : List Member → List (Fin 16 × Ctx × Inv × List (Nat × Word)) →
    Except State (State × List (Fin 16 × Ctx × Inv × List (Nat × Word)))
  | [], l => .ok (s, l)
  | .here q x i :: ms, l => match s.prepInv q x i with
    | .ok (s, pm) => State.instPrep s ms (l ++ [(q, x, i, pm)])
    | .error s => .error s
  | _ :: ms, l => State.instPrep s ms l

/-- The accesses of every member of this device, once all pages are there (R351, R378). -/
def State.instAccess (s : State) : List (Fin 16 × Ctx × Inv × List (Nat × Word)) → Except State State
  | [] => .ok s
  | (q, x, i, pm) :: l => match s.accessInv q x i pm with
    | .ok s => State.instAccess s l
    | .error s => .error s

/-- The first member of this device whose own product faults. -/
def State.instBad (s : State) (l : List Member) : Option (Fin 16 × Ctx × Inv × EFault) :=
  (l.zipIdx).findSome? (fun (m : Member × Nat) => match m.1 with
    | .here q x i => (memberBad s l m.2 i).map (fun e => (q, x, i, e))
    | _ => none)

/-- Evaluates the members of this device in index order; the first that faults. Where Y is common, all make the same draws, and so end with the same bits
(R284); slices and chunks draw one member after the other. -/
def State.instEval (s : State) (l : List Member) : List Member → Rand → List (Fin 16 × Ctx × Inv × EDone × Nat) →
    Except (Fin 16 × Ctx × Inv × EFault × OpForm) (List (Fin 16 × Ctx × Inv × EDone × Nat))
  | [], _, o => .ok o
  | .here q x i :: ms, n, o => match memberOut s l x i n with
    | .ok d =>
      let common := (i.stages.head?).any (fun f => f.op == 0x40 || f.op == 0x80 || f.op == 0x81)
      State.instEval s l ms (if common then n else d.n) (o ++ [(q, x, i, d, if common && !o.isEmpty then 0 else d.n.base - n.base)])
    | .error (e, f) => .error (q, x, i, e, f)
  | _ :: ms, n, o => State.instEval s l ms n o

/-- Runs an instance once every member has issued and its operands are ready (R283, R284): the members of this device complete together. -/
def State.runInst (s : State) (x : Ctx) (mesh : BitVec 16) (k : Nat) : State :=
  let l := s.instMembers mesh.toNat x.tag k
  let isGone (m : Member) : Bool := match m with
    | .gone => true
    | _ => false
  let ready (m : Member) : Bool := match m with
    | .here _ x i => x.opsReady i
    | .far => true
    | _ => false
  if l.any isGone then s.instFault l (mesh.toNat + 2 ^ 32)
  else match (if l.any (fun m => match m with
      | .wait => true
      | _ => false) then none else firstDiffer l) with
  | some n => s.instFault l (mesh.toNat + n * 65536)
  | none =>
    if !l.all ready then s
    else match s.instPrep l [] with
      | .error s => s
      | .ok (s, ps) => match s.instAccess ps with
        | .error s => s
        | .ok s => match s.instBad l with
          | some (q, x, i, e) => s.headFault q x i e
          | none => match s.instEval l l s.sr [] with
            | .error (q, x, i, e, f) => s.opFault q x i f e
            | .ok outs => outs.foldl (fun s o => s.finishInv o.1 o.2.1 o.2.2.1 o.2.2.2.1 o.2.2.2.2) s

/-! ## SEND and RECV (R285) -/

/-- A SEND or RECV: the mesh, the member's own index, its peer, the tag. -/
def peerOf (i : Inv) : Nat × Nat × Nat × Nat :=
  let t := ((i.opnds.head?).map (·.tr)).getD TRec.none
  let f := i.stages.headD { ins := .gend, vpc := 0, op := 0, opx := 0, ts := [], fld := 0, args := [], latchR := none, latchW := none }
  (t.mesh, t.index, (f.arg 0).toNat, (f.arg 1).toNat)

/-- The first invocation of a context that sends to, or receives from, a peer under a tag. -/
def firstPeer (x : Ctx) (op : BitVec 8) (mesh own peer tag : Nat) : Option Inv :=
  x.invs.find? (fun i => i.opcode == op && !i.aborted && peerOf i == (mesh, own, peer, tag))

/-- Delivers a matched SEND into its RECV (R285). -/
def State.deliverPair (s : State) (qs : Fin 16) (xs : Ctx) (is : Inv) (qr : Fin 16) (xr : Ctx) (ir : Inv) : State :=
  let tx := ((is.opnds.head?).map (·.tr)).getD TRec.none
  let ty := ((ir.opnds.head?).map (·.tr)).getD TRec.none
  match s.instPrep [.here qs xs is, .here qr xr ir] [] with
  | .error s => s
  | .ok (s, ps) =>
    if tx.fmt ≠ ty.fmt ∨ tx.dim ≠ ty.dim then
      (s.headFault qr xr ir ⟨.shape, 0, 0, some 0⟩).endInv qs is
    else match s.instAccess ps with
      | .error s => s
      | .ok s =>
        let v : View := { s := s, root := xs.root, sysv := xs.sysv, pm := [], ov := [] }
        let ws := (allIdx ty.dim).map (fun i => elWrite ty i (v.code tx i)) ++ v.scales ty tx some
        let s := s.putEls qr xr ir.uid ws
        ((s.modCtx qr (fun x => x.modInv ir.uid Inv.publish)).endInv qr ir).endInv qs is

/-- The bits of a tensor's elements in linear order and after them its scale bytes in block order, as the lines that carry them to another device (R285;
log 60). -/
def View.sendLines (v : View) (t : TRec) : List Nat :=
  let w := codeWidth t.fmt
  let all := ((allIdx t.dim).zipIdx).foldl (fun a i => a + v.code t i.1 * 2 ^ (w * i.2)) 0
  let n := (t.numel * w + 7) / 8
  let sc := if t.scl then blocksOf t.dim else []
  let all := (sc.zipIdx).foldl (fun a b => a + v.get (8 * t.scaleAt b.1) 8 * 2 ^ (8 * (n + b.2))) all
  (List.range ((n + sc.length + 63) / 64)).map (fun k => all / 2 ^ (512 * k) % 2 ^ 512)

/-- The place of a SEND's data on its peer: an exposure there whose address the spec does not give (R437; log 60), named by the invocation. -/
def sendPlace (q : Fin 16) (i : Inv) (k : Nat) : Nat := 2 ^ 60 + q.val * 2 ^ 56 + i.uid % 2 ^ 24 * 2 ^ 32 + 64 * k

/-- A SEND to a member of another device (R285, R437): its lines leave as fabric writes with one atomic behind them; it ends when the atomic, and with it
the data, has been performed, and a refusal of either is its kernel fault. -/
def State.sendFar (s : State) (q : Fin 16) (x : Ctx) (i : Inv) (dev : BitVec 12) : State :=
  let t := ((i.opnds.head?).map (·.tr)).getD TRec.none
  let c : Fin 320 := (((List.finRange 320).filter (fun c => x.team.getLsbD (c.val / 8))).head?).getD 0
  let mk (addr : Nat) (kind : BitVec 4) (data : Nat) : FReq :=
    { unit := if kind = 2 then .seq q else .core c, dev := dev, addr := addr, kind := kind, op := if kind = 2 then 1 else 0, n := if kind = 2 then 8 else 64, tick := s.tb.toNat,
      uid := i.uid, osq := q, mask := BitVec.allOnes 64, data := BitVec.ofNat 512 data, blocked := false, st := 0, reason := 0 }
  match s.reqOf (.seq q) 2 (sendPlace q i 0) with
  | some r =>
    let s1 := s.dropReq (.seq q) 2 (sendPlace q i 0)
    if r.st = 1 then s1.endInv q i
    else if r.st = 2 then s1.headFault q x i ⟨.signalAccess, (sigInfo (peerAddrOf r.addr) r.dev r.reason.toNat).toNat, 0, none⟩
    else s
  | none =>
    if (s.routeOf dev).isNone then s.headFault q x i ⟨.signalAccess, (sigInfo 0 dev 0).toNat, 0, none⟩
    else match s.prepInv q x i with
    | .error s => s
    | .ok (s, pm) => match s.accessInv q x i pm with
      | .error s => s
      | .ok s =>
        let v : View := { s := s, root := x.root, sysv := x.sysv, pm := pm, ov := [] }
        let s := ((v.sendLines t).zipIdx).foldl (fun s d => s.sendReq (mk (sendPlace q i d.2) 1 d.1) true) s
        s.sendReq (mk (sendPlace q i 0) 2 1) true

/-- A RECV from a member of another device: Y's pages are checked as for any output, then the elements that arrived, which are that device's, land (log 60). -/
def State.recvFar (s : State) (q : Fin 16) (x : Ctx) (i : Inv) : State :=
  let ty := ((i.opnds.head?).map (·.tr)).getD TRec.none
  match s.prepInv q x i with
  | .error s => s
  | .ok (s, pm) => match s.accessInv q x i pm with
    | .error s => s
    | .ok s =>
      let ws := (allIdx ty.dim).map (fun k => elWrite ty k (Config.freeWord (s.free + ty.bitAt k)).toNat) ++
        (if ty.scl then (blocksOf ty.dim).map (fun b => (8 * ty.scaleAt b, 8, (Config.freeWord (s.free + 8 * ty.scaleAt b)).toNat % 256)) else [])
      ((s.putEls q x i.uid ws).modCtx q (fun x => x.modInv i.uid Inv.publish)).endInv q i

/-- A SEND or RECV that is the first of its kind meets its peer (R285); a peer on another device takes or gives free values. -/
def State.runPeer (s : State) (q : Fin 16) (x : Ctx) (i : Inv) : State :=
  let (mesh, own, peer, tag) := peerOf i
  let first := (firstPeer x i.opcode mesh own peer tag).any (fun j => j.uid == i.uid)
  if !first || !x.opsReady i then s
  else match (s.members mesh x.tag)[peer]? with
  | none => s
  | some m =>
    if m.1 ≠ bits s.plat.fabId 11 0 then
      if i.opcode = 0x84 then s.sendFar q x i (BitVec.ofNat 12 m.1) else s.recvFar q x i
    else match (List.finRange 16).find? (fun p => (s.ctx p).any (fun y => y.tag.toNat == m.2)) with
      | none => s
      | some p => match s.ctx p with
        | none => s
        | some y => match firstPeer y (if i.opcode = 0x84 then 0x85 else 0x84) mesh peer own tag with
          | none => s
          | some j =>
            if !y.opsReady j then s
            else if i.opcode = 0x84 then s.deliverPair q x i p y j else s.deliverPair p y j q x i

/-! ## INVOCATION_COMPLETE (R300) -/

/-- No task of an invocation runs, is saved or is to come. -/
def State.idleInv (s : State) (q : Fin 16) (x : Ctx) (i : Inv) : Bool :=
  (s.coresOf q i.uid).isEmpty && !x.recs.any (fun w => w.inv == i.uid) && !x.exp.any (fun e => e.uid == i.uid) &&
  !s.saves.any (fun v => x.saved.any (fun a => a.toNat == v.area) && v.k.task.any (fun t => t.inv == i.uid))

/-- INVOCATION_COMPLETE: the k-th invocation in flight completes once its tasks and phases are done; a built-in operator runs here (R260, R300). An
aborted invocation goes once TRAPRET has published its outputs (R253). -/
def execInvocationComplete (q : Fin 16) (k : Nat) (s : State) : Out :=
  .next (match s.ctx q with
  | none => s
  | some x => match x.invs[k]? with
    | none => s
    | some i =>
      if !s.idleInv q x i then s
      else if i.aborted then (if i.opnds.all (fun o => o.role == 0 || o.pub) then s.endInv q i else s)
      else if i.img.isSome || i.nrec != 0 then (if i.ended then (s.modCtx q (fun x => x.modInv i.uid Inv.publish)).endInv q i else s)
      else match i.coll with
        | some (m, n) => s.runInst x m n
        | none =>
          if i.opcode = 0x84 || i.opcode = 0x85 then s.runPeer q x i
          else if x.opsReady i then s.runBuiltIn q x i else s)

end Sys2Proof.Machine
end

