-- ==== Sys2Proof/Machine/VbcFetch.lean ====
section
/-! DEFINITION. Fetching: the bundle at a unit's program counter, and the bytecode at a context's VPC (R226 to R228). -/

namespace Sys2Proof.Machine

/-- The bundle at a core's or a routine's program counter; none without an image. -/
def State.fetchWord (s : State) (f : Front) : Option (BitVec 256) := (s.img f.img).map (fun g => g.word f.pc)

/-- What looking up one page of bytecode gives (R228). -/
inductive Page where
  | ok (w : Word) (s : State)
  | park
  | bad (mapped : Bool) (s : State)

/-- The page of bytecode at va: fetchable when its leaf has V and R set and W clear. -/
def State.codePage (s : State) (q : Fin 16) (x : Ctx) (va : Nat) : Page :=
  match s.translate q x va false with
  | (.absent, s1) => .bad false s1
  | (.notResident, _) => .park
  | (.leaf w _, s1) => if lfR w && !lfW w then .ok w s1 else .bad true s1

/-- n bytes of a page from va on; a window's bytes belong to another device and are free values (log 60). -/
def State.codeBytes (s : State) (w : Word) (va n : Nat) : List Byte :=
  (List.range n).map (fun i =>
    let pa := lfPa w (va + i)
    if isWin pa then (Config.freeWord (2 ^ 64 * (s.tb.toNat + 1) + pa)).setWidth 8 else if s.isDoor pa then 0 else s.readByte (lfIlv w) pa)

/-- The home MSCs of the lines of fetched bytecode are touched (R323, R334). -/
def State.codeLines (s : State) (x : Ctx) (w : Word) (va n : Nat) : State :=
  if n = 0 then s
  else (List.range ((va + n - 1) / 64 - va / 64 + 1)).foldl (fun s i =>
    let pa := lfPa w ((va / 64 + i) * 64)
    let lo := max va ((va / 64 + i) * 64)
    let hi := min (va + n) ((va / 64 + i) * 64 + 64)
    if isWin pa then s
    else (s.noteCv (lfPa w lo) (hi - lo)).homeLine x.slot.toNat (locKey (lfIlv w) (pa / 64 * 64)) (s.readKey (lfIlv w) (pa / 64 * 64)) (lfNa w)) s

/-- TRAP.INFO of VBC_FETCH (R228). -/
def fetchInfo (va : Nat) (mapped second : Bool) : Nat := va % 2 ^ 48 / 4096 * 4096 + 2 * b2n mapped + b2n second

/-- What fetching and decoding the instruction at VPC gives. -/
inductive Fetched where
  | instr (i : Instr) (len : Nat) (s : State)
  | illegal (op opx : Byte) (idx : Nat) (limit : Bool) (s : State)
  | unfetched (op opx : Byte) (info : Nat) (s : State)
  | park

/-- The OPX number among the bytes fetched: the byte after an opcode 0xFF (R229). -/
def opxOf (l : List Byte) : Byte := if l.headD 0 = 0xFF then l.getD 1 0 else 0

/-- Decodes the bytes of the pages fetched so far; `more` answers when they end before the instruction does. -/
noncomputable def decodeNow (l : List Byte) (s : State) (more : Fetched) : Fetched :=
  match decodeVanik l with
  | .ok (i, n) => .instr i n s
  | .error (.illegal k lim) => .illegal (l.headD 0) (opxOf l) k lim s
  | .error (.short _) => more

/-- Fetches the instruction at VPC: a second page is looked up only when the first one's bytes do not decide (R227, R228). -/
noncomputable def State.fetchVanik (s : State) (q : Fin 16) (x : Ctx) : Fetched :=
  let va := x.vpc.toNat
  match s.codePage q x va with
  | .park => .park
  | .bad m s1 => .unfetched 0 0 (fetchInfo va m false) s1
  | .ok w s1 =>
    let n := min 33 (4096 - va % 4096)
    let l := s1.codeBytes w va n
    let s1 := s1.codeLines x w va n
    decodeNow l s1 (
      if n = 33 then .illegal (l.headD 0) (opxOf l) 32 true s1
      else match s1.codePage q x (va + n) with
        | .park => .park
        | .bad m s2 => .unfetched (l.headD 0) (opxOf l) (fetchInfo (va + n) m true) s2
        | .ok w2 s2 =>
          let l2 := l ++ s2.codeBytes w2 (va + n) (33 - n)
          let s2 := s2.codeLines x w2 (va + n) (33 - n)
          decodeNow l2 s2 (.illegal (l.headD 0) (opxOf l2) 32 true s2))

end Sys2Proof.Machine
end

