-- ==== Sys2Proof/Machine/Dispatch.lean ====
section
/-! DEFINITION. The dispatcher: one arm per constructor of Instr, each one call of its meaning. -/

namespace Sys2Proof.Machine

def exec (i : Instr) (s : State) : Host.Outcome State Fault Refusal :=
  match i with
  | .bundle w => Sys2Proof.Machine.execBundle w s
  | .nop slot => Sys2Proof.Machine.execNop slot s
  | .add g f => Sys2Proof.Machine.execAdd g f s
  | .sub g f => Sys2Proof.Machine.execSub g f s
  | .mul g f => Sys2Proof.Machine.execMul g f s
  | .mulh g f => Sys2Proof.Machine.execMulh g f s
  | .mulhu g f => Sys2Proof.Machine.execMulhu g f s
  | .div g f => Sys2Proof.Machine.execDiv g f s
  | .divu g f => Sys2Proof.Machine.execDivu g f s
  | .rem g f => Sys2Proof.Machine.execRem g f s
  | .remu g f => Sys2Proof.Machine.execRemu g f s
  | .andR g f => Sys2Proof.Machine.execAndR g f s
  | .orR g f => Sys2Proof.Machine.execOrR g f s
  | .xorR g f => Sys2Proof.Machine.execXorR g f s
  | .andn g f => Sys2Proof.Machine.execAndn g f s
  | .shl g f => Sys2Proof.Machine.execShl g f s
  | .shr g f => Sys2Proof.Machine.execShr g f s
  | .sra g f => Sys2Proof.Machine.execSra g f s
  | .minR g f => Sys2Proof.Machine.execMinR g f s
  | .maxR g f => Sys2Proof.Machine.execMaxR g f s
  | .minu g f => Sys2Proof.Machine.execMinu g f s
  | .maxu g f => Sys2Proof.Machine.execMaxu g f s
  | .clz g f => Sys2Proof.Machine.execClz g f s
  | .ctz g f => Sys2Proof.Machine.execCtz g f s
  | .popc g f => Sys2Proof.Machine.execPopc g f s
  | .ext g f => Sys2Proof.Machine.execExt g f s
  | .sel g f => Sys2Proof.Machine.execSel g f s
  | .cmp g f => Sys2Proof.Machine.execCmp g f s
  | .plog g f => Sys2Proof.Machine.execPlog g f s
  | .maddr g f => Sys2Proof.Machine.execMaddr g f s
  | .addi g f => Sys2Proof.Machine.execAddi g f s
  | .andi g f => Sys2Proof.Machine.execAndi g f s
  | .ori g f => Sys2Proof.Machine.execOri g f s
  | .xori g f => Sys2Proof.Machine.execXori g f s
  | .shli g f => Sys2Proof.Machine.execShli g f s
  | .shri g f => Sys2Proof.Machine.execShri g f s
  | .srai g f => Sys2Proof.Machine.execSrai g f s
  | .cmpi g f => Sys2Proof.Machine.execCmpi g f s
  | .li g f => Sys2Proof.Machine.execLi g f s
  | .lih g f => Sys2Proof.Machine.execLih g f s
  | .movk g f => Sys2Proof.Machine.execMovk g f s
  | .br g f => Sys2Proof.Machine.execBr g f s
  | .jmp g f => Sys2Proof.Machine.execJmp g f s
  | .call g f => Sys2Proof.Machine.execCall g f s
  | .ret g f => Sys2Proof.Machine.execRet g f s
  | .mark g f => Sys2Proof.Machine.execMark g f s
  | .lset g f => Sys2Proof.Machine.execLset g f s
  | .lstr g f => Sys2Proof.Machine.execLstr g f s
  | .exitE g f => Sys2Proof.Machine.execExitE g f s
  | .exitS g f => Sys2Proof.Machine.execExitS g f s
  | .exitN g f => Sys2Proof.Machine.execExitN g f s
  | .trap g f => Sys2Proof.Machine.execTrap g f s
  | .brk g f => Sys2Proof.Machine.execBrk g f s
  | .hret g f => Sys2Proof.Machine.execHret g f s
  | .hretSkip g f => Sys2Proof.Machine.execHretSkip g f s
  | .phase g f => Sys2Proof.Machine.execPhase g f s
  | .preempt g f => Sys2Proof.Machine.execPreempt g f s
  | .gait g f => Sys2Proof.Machine.execGait g f s
  | .chk g f => Sys2Proof.Machine.execChk g f s
  | .cinch f => Sys2Proof.Machine.execCinch f s
  | .cinchZ g f => Sys2Proof.Machine.execCinchZ g f s
  | .ld g f => Sys2Proof.Machine.execLd g f s
  | .loadReturn u k => Sys2Proof.Machine.execLoadReturn u k s
  | .ldS g f => Sys2Proof.Machine.execLdS g f s
  | .st g f => Sys2Proof.Machine.execSt g f s
  | .ldsp g f => Sys2Proof.Machine.execLdsp g f s
  | .stsp g f => Sys2Proof.Machine.execStsp g f s
  | .advc g f => Sys2Proof.Machine.execAdvc g f s
  | .advp g f => Sys2Proof.Machine.execAdvp g f s
  | .waitc g f => Sys2Proof.Machine.execWaitc g f s
  | .waitp g f => Sys2Proof.Machine.execWaitp g f s
  | .hset g f => Sys2Proof.Machine.execHset g f s
  | .hget g f => Sys2Proof.Machine.execHget g f s
  | .amoSwap g f => Sys2Proof.Machine.execAmoSwap g f s
  | .amoAdd g f => Sys2Proof.Machine.execAmoAdd g f s
  | .amoAnd g f => Sys2Proof.Machine.execAmoAnd g f s
  | .amoOr g f => Sys2Proof.Machine.execAmoOr g f s
  | .amoXor g f => Sys2Proof.Machine.execAmoXor g f s
  | .amoMin g f => Sys2Proof.Machine.execAmoMin g f s
  | .amoMax g f => Sys2Proof.Machine.execAmoMax g f s
  | .amoMinu g f => Sys2Proof.Machine.execAmoMinu g f s
  | .amoMaxu g f => Sys2Proof.Machine.execAmoMaxu g f s
  | .amoFadd g f => Sys2Proof.Machine.execAmoFadd g f s
  | .cas g f => Sys2Proof.Machine.execCas g f s
  | .cupdAdd g f => Sys2Proof.Machine.execCupdAdd g f s
  | .cupdFadd g f => Sys2Proof.Machine.execCupdFadd g f s
  | .cupdMin g f => Sys2Proof.Machine.execCupdMin g f s
  | .cupdMax g f => Sys2Proof.Machine.execCupdMax g f s
  | .cupdOr g f => Sys2Proof.Machine.execCupdOr g f s
  | .fence g f => Sys2Proof.Machine.execFence g f s
  | .barcfg g f => Sys2Proof.Machine.execBarcfg g f s
  | .bararr g f => Sys2Proof.Machine.execBararr g f s
  | .barwait g f => Sys2Proof.Machine.execBarwait g f s
  | .sstep g f => Sys2Proof.Machine.execSstep g f s
  | .srd g f => Sys2Proof.Machine.execSrd g f s
  | .swr g f => Sys2Proof.Machine.execSwr g f s
  | .wlnr g f => Sys2Proof.Machine.execWlnr g f s
  | .rgalloc g f => Sys2Proof.Machine.execRgalloc g f s
  | .rgfree g f => Sys2Proof.Machine.execRgfree g f s
  | .sbwait g f => Sys2Proof.Machine.execSbwait g f s
  | .sbpub g f => Sys2Proof.Machine.execSbpub g f s
  | .trec g f => Sys2Proof.Machine.execTrec g f s
  | .hlatArm g f => Sys2Proof.Machine.execHlatArm g f s
  | .hlatCnt g f => Sys2Proof.Machine.execHlatCnt g f s
  | .hlatPre g f => Sys2Proof.Machine.execHlatPre g f s
  | .hlatOut g f => Sys2Proof.Machine.execHlatOut g f s
  | .hlatTot g f => Sys2Proof.Machine.execHlatTot g f s
  | .opendDone g f => Sys2Proof.Machine.execOpendDone g f s
  | .opendCancel g f => Sys2Proof.Machine.execOpendCancel g f s
  | .opendRepeat g f => Sys2Proof.Machine.execOpendRepeat g f s
  | .vadd g f => Sys2Proof.Machine.execVadd g f s
  | .vsub g f => Sys2Proof.Machine.execVsub g f s
  | .vmul g f => Sys2Proof.Machine.execVmul g f s
  | .vfma g f => Sys2Proof.Machine.execVfma g f s
  | .vfms g f => Sys2Proof.Machine.execVfms g f s
  | .vfnma g f => Sys2Proof.Machine.execVfnma g f s
  | .vmin g f => Sys2Proof.Machine.execVmin g f s
  | .vmax g f => Sys2Proof.Machine.execVmax g f s
  | .vabs g f => Sys2Proof.Machine.execVabs g f s
  | .vneg g f => Sys2Proof.Machine.execVneg g f s
  | .vdiv g f => Sys2Proof.Machine.execVdiv g f s
  | .vsqrt g f => Sys2Proof.Machine.execVsqrt g f s
  | .vrsq g f => Sys2Proof.Machine.execVrsq g f s
  | .vexp2 g f => Sys2Proof.Machine.execVexp2 g f s
  | .vlog2 g f => Sys2Proof.Machine.execVlog2 g f s
  | .vcvt g f => Sys2Proof.Machine.execVcvt g f s
  | .vpack g f => Sys2Proof.Machine.execVpack g f s
  | .vunpk g f => Sys2Proof.Machine.execVunpk g f s
  | .vand g f => Sys2Proof.Machine.execVand g f s
  | .vor g f => Sys2Proof.Machine.execVor g f s
  | .vxor g f => Sys2Proof.Machine.execVxor g f s
  | .vshl g f => Sys2Proof.Machine.execVshl g f s
  | .vshr g f => Sys2Proof.Machine.execVshr g f s
  | .vsra g f => Sys2Proof.Machine.execVsra g f s
  | .vcmp g f => Sys2Proof.Machine.execVcmp g f s
  | .vsel g f => Sys2Proof.Machine.execVsel g f s
  | .vred g f => Sys2Proof.Machine.execVred g f s
  | .vscan g f => Sys2Proof.Machine.execVscan g f s
  | .vclass g f => Sys2Proof.Machine.execVclass g f s
  | .vterm g f => Sys2Proof.Machine.execVterm g f s
  | .vqsc g f => Sys2Proof.Machine.execVqsc g f s
  | .vqscEnc g f => Sys2Proof.Machine.execVqscEnc g f s
  | .vbcst g f => Sys2Proof.Machine.execVbcst g f s
  | .vbcstLane g f => Sys2Proof.Machine.execVbcstLane g f s
  | .vmovs g f => Sys2Proof.Machine.execVmovs g f s
  | .vins g f => Sys2Proof.Machine.execVins g f s
  | .viota g f => Sys2Proof.Machine.execViota g f s
  | .vshuf g f => Sys2Proof.Machine.execVshuf g f s
  | .vrot g f => Sys2Proof.Machine.execVrot g f s
  | .vmskLog g f => Sys2Proof.Machine.execVmskLog g f s
  | .vmskSet g f => Sys2Proof.Machine.execVmskSet g f s
  | .vmskFirst g f => Sys2Proof.Machine.execVmskFirst g f s
  | .vmskGet g f => Sys2Proof.Machine.execVmskGet g f s
  | .vchk g f => Sys2Proof.Machine.execVchk g f s
  | .vldh g f => Sys2Proof.Machine.execVldh g f s
  | .vsth g f => Sys2Proof.Machine.execVsth g f s
  | .vlds g f => Sys2Proof.Machine.execVlds g f s
  | .vsts g f => Sys2Proof.Machine.execVsts g f s
  | .mldw g f => Sys2Proof.Machine.execMldw g f s
  | .mldwExecute c => Sys2Proof.Machine.execMldwExecute c s
  | .mswap g f => Sys2Proof.Machine.execMswap g f s
  | .mpush g f => Sys2Proof.Machine.execMpush g f s
  | .beat c => Sys2Proof.Machine.execBeat c s
  | .mdrain g f => Sys2Proof.Machine.execMdrain g f s
  | .mdrainExecute c => Sys2Proof.Machine.execMdrainExecute c s
  | .mzero g f => Sys2Proof.Machine.execMzero g f s
  | .mhem g f => Sys2Proof.Machine.execMhem g f s
  | .mtclr g f => Sys2Proof.Machine.execMtclr g f s
  | .mlu g f => Sys2Proof.Machine.execMlu g f s
  | .mchol g f => Sys2Proof.Machine.execMchol g f s
  | .mqr g f => Sys2Proof.Machine.execMqr g f s
  | .mtrsm g f => Sys2Proof.Machine.execMtrsm g f s
  | .factorisationStep c => Sys2Proof.Machine.execFactorisationStep c s
  | .mperm g f => Sys2Proof.Machine.execMperm g f s
  | .mres g f => Sys2Proof.Machine.execMres g f s
  | .mfwait g f => Sys2Proof.Machine.execMfwait g f s
  | .asyncTrapDelivery c => Sys2Proof.Machine.execAsyncTrapDelivery c s
  | .xcopy g f => Sys2Proof.Machine.execXcopy g f s
  | .xcopys g f => Sys2Proof.Machine.execXcopys g f s
  | .xstore g f => Sys2Proof.Machine.execXstore g f s
  | .xpub g f => Sys2Proof.Machine.execXpub g f s
  | .xpubNow g f => Sys2Proof.Machine.execXpubNow g f s
  | .xdrop g f => Sys2Proof.Machine.execXdrop g f s
  | .xwld g f => Sys2Proof.Machine.execXwld g f s
  | .xgath g f => Sys2Proof.Machine.execXgath g f s
  | .xpermTr g f => Sys2Proof.Machine.execXpermTr g f s
  | .xpermIdx g f => Sys2Proof.Machine.execXpermIdx g f s
  | .xftl g f => Sys2Proof.Machine.execXftl g f s
  | .xfte g f => Sys2Proof.Machine.execXfte g f s
  | .xqnt g f => Sys2Proof.Machine.execXqnt g f s
  | .xqntFix g f => Sys2Proof.Machine.execXqntFix g f s
  | .xhist g f => Sys2Proof.Machine.execXhist g f s
  | .xhlat g f => Sys2Proof.Machine.execXhlat g f s
  | .latchContribution q k => Sys2Proof.Machine.execLatchContribution q k s
  | .xdfnc g f => Sys2Proof.Machine.execXdfnc g f s
  | .xwait g f => Sys2Proof.Machine.execXwait g f s
  | .xfill g f => Sys2Proof.Machine.execXfill g f s
  | .engineDispatch c => Sys2Proof.Machine.execEngineDispatch c s
  | .engineUnit c cls second => Sys2Proof.Machine.execEngineUnit c cls second s
  | .engineWatchReport c => Sys2Proof.Machine.execEngineWatchReport c s
  | .engineCommandComplete c cls => Sys2Proof.Machine.execEngineCommandComplete c cls s
  | .gend => Sys2Proof.Machine.execGend s
  | .gjmp off => Sys2Proof.Machine.execGjmp off s
  | .gbr g inv off => Sys2Proof.Machine.execGbr g inv off s
  | .gcall off => Sys2Proof.Machine.execGcall off s
  | .gret => Sys2Proof.Machine.execGret s
  | .gloop c count exit => Sys2Proof.Machine.execGloop c count exit s
  | .gendl => Sys2Proof.Machine.execGendl s
  | .traph off => Sys2Proof.Machine.execTraph off s
  | .trapretRvpc => Sys2Proof.Machine.execTrapretRvpc s
  | .trapretReexec => Sys2Proof.Machine.execTrapretReexec s
  | .trapretTarget target => Sys2Proof.Machine.execTrapretTarget target s
  | .fmtset i2 v => Sys2Proof.Machine.execFmtset i2 v s
  | .fmtloop lvl en base => Sys2Proof.Machine.execFmtloop lvl en base s
  | .nli d imm => Sys2Proof.Machine.execNli d imm s
  | .naluAdd d a b => Sys2Proof.Machine.execNaluAdd d a b s
  | .naluSub d a b => Sys2Proof.Machine.execNaluSub d a b s
  | .naluMul d a b => Sys2Proof.Machine.execNaluMul d a b s
  | .naluFloordiv d a b => Sys2Proof.Machine.execNaluFloordiv d a b s
  | .naluCeildiv d a b => Sys2Proof.Machine.execNaluCeildiv d a b s
  | .naluMin d a b => Sys2Proof.Machine.execNaluMin d a b s
  | .naluMax d a b => Sys2Proof.Machine.execNaluMax d a b s
  | .naluAnd d a b => Sys2Proof.Machine.execNaluAnd d a b s
  | .naluOr d a b => Sys2Proof.Machine.execNaluOr d a b s
  | .naluShl d a b => Sys2Proof.Machine.execNaluShl d a b s
  | .naluShr d a b => Sys2Proof.Machine.execNaluShr d a b s
  | .ncmp cc g a b => Sys2Proof.Machine.execNcmp cc g a b s
  | .nld d sx sz hw addr => Sys2Proof.Machine.execNld d sx sz hw addr s
  | .nst sz addr v => Sys2Proof.Machine.execNst sz addr v s
  | .ndim d dim sel t => Sys2Proof.Machine.execNdim d dim sel t s
  | .ndimCsw d => Sys2Proof.Machine.execNdimCsw d s
  | .nmb i2 v => Sys2Proof.Machine.execNmb i2 v s
  | .tdecl t rel addr => Sys2Proof.Machine.execTdecl t rel addr s
  | .tview v v2 d start len => Sys2Proof.Machine.execTview v v2 d start len s
  | .talloc t => Sys2Proof.Machine.execTalloc t s
  | .tfree t => Sys2Proof.Machine.execTfree t s
  | .rfence t => Sys2Proof.Machine.execRfence t s
  | .rfenceAll => Sys2Proof.Machine.execRfenceAll s
  | .wsload d v2 => Sys2Proof.Machine.execWsload d v2 s
  | .kload d addr => Sys2Proof.Machine.execKload d addr s
  | .kbind key sig img => Sys2Proof.Machine.execKbind key sig img s
  | .fuse keep => Sys2Proof.Machine.execFuse keep s
  | .fusend => Sys2Proof.Machine.execFusend s
  | .matmul y x w acc e => Sys2Proof.Machine.execMatmul y x w acc e s
  | .matmulGrp y x w acc e => Sys2Proof.Machine.execMatmulGrp y x w acc e s
  | .ewise y a c op => Sys2Proof.Machine.execEwise y a c op s
  | .unary y x fn table => Sys2Proof.Machine.execUnary y x fn table s
  | .norm y x g rms bt eps => Sys2Proof.Machine.execNorm y x g rms bt eps s
  | .softmax y x log => Sys2Proof.Machine.execSoftmax y x log s
  | .reduce y x op axis => Sys2Proof.Machine.execReduce y x op axis s
  | .attn o q k v causal scale => Sys2Proof.Machine.execAttn o q k v causal scale s
  | .gather y x i2 axis zfill => Sys2Proof.Machine.execGather y x i2 axis zfill s
  | .scatter y x i2 axis mode skip => Sys2Proof.Machine.execScatter y x i2 axis mode skip s
  | .topk v i2 x k => Sys2Proof.Machine.execTopk v i2 x k s
  | .route p x e => Sys2Proof.Machine.execRoute p x e s
  | .castT y x => Sys2Proof.Machine.execCastT y x s
  | .quant y x => Sys2Proof.Machine.execQuant y x s
  | .quantFix y x scale => Sys2Proof.Machine.execQuantFix y x scale s
  | .dequant y x => Sys2Proof.Machine.execDequant y x s
  | .transp y x perm => Sys2Proof.Machine.execTransp y x perm s
  | .concat y a c axis => Sys2Proof.Machine.execConcat y a c axis s
  | .copyT y x => Sys2Proof.Machine.execCopyT y x s
  | .fillT y v => Sys2Proof.Machine.execFillT y v s
  | .luf a p g rep => Sys2Proof.Machine.execLuf a p g rep s
  | .cholf a g rep => Sys2Proof.Machine.execCholf a g rep s
  | .qrf a tau g => Sys2Proof.Machine.execQrf a tau g s
  | .trsm x l low unit trn => Sys2Proof.Machine.execTrsm x l low unit trn s
  | .allred y x op => Sys2Proof.Machine.execAllred y x op s
  | .allgath y x => Sys2Proof.Machine.execAllgath y x s
  | .redscat y x op => Sys2Proof.Machine.execRedscat y x op s
  | .alltoall y x => Sys2Proof.Machine.execAlltoall y x s
  | .sendT x peer tag => Sys2Proof.Machine.execSendT x peer tag s
  | .recv y peer tag => Sys2Proof.Machine.execRecv y peer tag s
  | .signalSet addr v => Sys2Proof.Machine.execSignalSet addr v s
  | .signalAdd addr v => Sys2Proof.Machine.execSignalAdd addr v s
  | .waitsig cc d addr v => Sys2Proof.Machine.execWaitsig cc d addr v s
  | .waitsigWake q => Sys2Proof.Machine.execWaitsigWake q s
  | .opfence scope => Sys2Proof.Machine.execOpfence scope s
  | .opx x no ts ns => Sys2Proof.Machine.execOpx x no ts ns s
  | .chunkDispatch q => Sys2Proof.Machine.execChunkDispatch q s
  | .energyWindow => Sys2Proof.Machine.execEnergyWindow s
  | .invocationComplete q k => Sys2Proof.Machine.execInvocationComplete q k s
  | .kernelFaultDelivery q => Sys2Proof.Machine.execKernelFaultDelivery q s
  | .watchdog c => Sys2Proof.Machine.execWatchdog c s
  | .wsRefresh => Sys2Proof.Machine.execWsRefresh s
  | .shootdown slot va len => Sys2Proof.Machine.execShootdown slot va len s
  | .uncorrectableError e => Sys2Proof.Machine.execUncorrectableError e s
  | .correctableError code => Sys2Proof.Machine.execCorrectableError code s
  | .preemptionRequest q => Sys2Proof.Machine.execPreemptionRequest q s
  | .hardPreemption c => Sys2Proof.Machine.execHardPreemption c s
  | .taskResume q area => Sys2Proof.Machine.execTaskResume q area s
  | .servingContextWake q => Sys2Proof.Machine.execServingContextWake q s
  | .flitReceive p flit => Sys2Proof.Machine.execFlitReceive p flit s
  | .linkReplay p seq => Sys2Proof.Machine.execLinkReplay p seq s
  | .linkRetrain p => Sys2Proof.Machine.execLinkRetrain p s
  | .fabricTimeout k => Sys2Proof.Machine.execFabricTimeout k s
  | .peerRead r => Sys2Proof.Machine.execPeerRead r s
  | .peerWrite r => Sys2Proof.Machine.execPeerWrite r s
  | .remoteAtomic r => Sys2Proof.Machine.execRemoteAtomic r s
  | .enqueue r => Sys2Proof.Machine.execEnqueue r s
  | .response k data => Sys2Proof.Machine.execResponse k data s
  | .refusal k reason => Sys2Proof.Machine.execRefusal k reason s
  | .hostRead r => Sys2Proof.Machine.execHostRead r s
  | .hostWrite r => Sys2Proof.Machine.execHostWrite r s
  | .ethernetFrame port frame enq => Sys2Proof.Machine.execEthernetFrame port frame enq s
  | .getVersion req => Sys2Proof.Machine.execGetVersion req s
  | .getCapabilities req => Sys2Proof.Machine.execGetCapabilities req s
  | .negotiateAlgorithms req => Sys2Proof.Machine.execNegotiateAlgorithms req s
  | .getDigests req => Sys2Proof.Machine.execGetDigests req s
  | .getCertificate req => Sys2Proof.Machine.execGetCertificate req s
  | .challenge req => Sys2Proof.Machine.execChallenge req s
  | .getMeasurements req => Sys2Proof.Machine.execGetMeasurements req s
  | .dbgStop c => Sys2Proof.Machine.execDbgStop c s
  | .dbgResume c => Sys2Proof.Machine.execDbgResume c s
  | .dbgStep c => Sys2Proof.Machine.execDbgStep c s
  | .stopWindowWrite c off v => Sys2Proof.Machine.execStopWindowWrite c off v s
  | .sample c => Sys2Proof.Machine.execSample c s
  | .fire => Sys2Proof.Machine.execFire s
  | .haltNEdge => Sys2Proof.Machine.execHaltNEdge s
  | .halterRearm => Sys2Proof.Machine.execHalterRearm s
  | .halterLatch => Sys2Proof.Machine.execHalterLatch s
  | .replayArrival source payload => Sys2Proof.Machine.execReplayArrival source payload s
  | .powerOnReset cfg => Sys2Proof.Machine.execPowerOnReset cfg s
  | .upd image => Sys2Proof.Machine.execUpd image s
  | .reinHb k => Sys2Proof.Machine.execReinHb k s
  | .updateRollback => Sys2Proof.Machine.execUpdateRollback s
  | .reinRestart k => Sys2Proof.Machine.execReinRestart k s
  | .queueBlockApply q block => Sys2Proof.Machine.execQueueBlockApply q block s
  | .platClkWrite v => Sys2Proof.Machine.execPlatClkWrite v s
  | .thermalTrip d => Sys2Proof.Machine.execThermalTrip d s
  | .rasClear ue code v => Sys2Proof.Machine.execRasClear ue code v s
  | .spillWrite d size v => Sys2Proof.Machine.execSpillWrite d size v s
  | .cloakEntryWrite d i2 high v => Sys2Proof.Machine.execCloakEntryWrite d i2 high v s
  | .exposureWrite e high v => Sys2Proof.Machine.execExposureWrite e high v s
  | .peerSlotWrite slot v => Sys2Proof.Machine.execPeerSlotWrite slot v s
  | .fabIdWrite v => Sys2Proof.Machine.execFabIdWrite v s
  | .fabPortenWrite v => Sys2Proof.Machine.execFabPortenWrite v s
  | .routeWrite dev v => Sys2Proof.Machine.execRouteWrite dev v s
  | .queueW0Write q v => Sys2Proof.Machine.execQueueW0Write q v s
  | .registerWrite addr v => Sys2Proof.Machine.execRegisterWrite addr v s
  | .mSlotEntryExecute c => Sys2Proof.Machine.execMSlotEntryExecute c s
  | .pageResolved u => Sys2Proof.Machine.execPageResolved u s
  | .contextCreate cfg => Sys2Proof.Machine.execContextCreate cfg s
  | .contextActivate q tag => Sys2Proof.Machine.execContextActivate q tag s
  | .teamChange q map => Sys2Proof.Machine.execTeamChange q map s
  | .preemptionWithdraw q => Sys2Proof.Machine.execPreemptionWithdraw q s
  | .haltNRelease => Sys2Proof.Machine.execHaltNRelease s
  | .linkTrainingDone p up => Sys2Proof.Machine.execLinkTrainingDone p up s
  | .unassignedOpcode b => Sys2Proof.Machine.execUnassignedOpcode b s
  | .vbcFetch info => Sys2Proof.Machine.execVbcFetch info s

end Sys2Proof.Machine
end

