-- ==== Sys2Proof/Machine/Regs.lean ====
section
/-! DEFINITION. The register and snapshot space as a system context reaches it (R10, R327, R401, R417): a load reads the register or the snapshot that lies
at the address, a store writes it. An access is a request that is answered within the step (log 125). -/

namespace Sys2Proof.Machine

/-! ## Reads -/

/-- The stop window of core c while it is stopped (R401): what was written through it, or the core's state at its place in the save area (R387). -/
def State.windowRead (s : State) (c : Fin 320) (o : Nat) : Word :=
  let k := s.core c
  if !k.stopped then 0
  else match k.dbg.win.lookup o, s.taskInv c with
    | some v, _ => v
    | none, some i => BitVec.ofNat 64 (leNat ((((savePages k i false 0).lookup (o / 4096)).getD []).drop (o % 4096) |>.take 8))
    | none, none => 0

/-- A word of core c's debug block (R401, R402, R407, R408, R417). -/
def State.debugRead (s : State) (c : Fin 320) (off : Nat) : Word :=
  let k := s.core c
  if off < 0x480 then ({ s with cur := .core c }.readSys c (off / 8)).getD 0
  else if off = 0x1000 then k.dbg.ctl
  else if off = 0x1008 then s.dbgStat c
  else if off = 0x1018 then k.gclk
  else if 0x1020 ≤ off ∧ off < 0x10C0 then k.shadow off
  else if 0x2000 ≤ off ∧ off < 0x3000 then k.snap.get (off - 0x2000)
  else if 0x81000 ≤ off ∧ off < 0xD9000 then s.windowRead c (off - 0x80000)
  else 0

/-- A word of sequencer q's block: snapshot and trace ring (R417). -/
def Osq.regRead (o : Osq) (off : Nat) : Word :=
  if off < 0x100 then o.snap.get off else if off = 0x100 then o.trace.1 else if off = 0x108 then o.trace.2 else 0

/-- A word of the halter, the governors' and the ports' snapshots, the recorder status (R415, R417, R420). -/
def State.haltRead (s : State) (off : Nat) : Word :=
  if off = 0 then s.plat.hsrc
  else if off = 8 then s.plat.hstat
  else if 0x10000 ≤ off ∧ off < 0x10400 then (s.dies[Fin.ofNat 4 ((off - 0x10000) / 256)]).snap.get (off % 256)
  else if 0x20000 ≤ off ∧ off < 0x21000 then (s.plat.ports[Fin.ofNat 16 ((off - 0x20000) / 256)]).snap.get (off % 256)
  else if off = 0x30000 then s.plat.rstat
  else 0

/-- A word of the fabric tables (R421, R422, R427 to R430, R432, R437). -/
def State.fabRead (s : State) (off : Nat) : Word :=
  let p := s.plat
  let i := off / 8
  if off < 0x800 then p.slots.get i
  else if off = 0x800 then p.fabId
  else if off = 0x808 then p.noexp
  else if off = 0x810 then BitVec.ofNat 64 p.fabTo
  else if off = 0x818 then p.porten.zeroExtend 64
  else if 0x10000 ≤ off ∧ off < 0x11000 then p.expo.get (i - 0x2000)
  else if 0x20000 ≤ off ∧ off < 0x22000 then p.acl.get (i - 0x4000)
  else if 0x30000 ≤ off ∧ off < 0x30800 then p.queues.get (i - 0x6000)
  else if 0x40000 ≤ off ∧ off < 0x40800 then p.mesh.get (i - 0x8000)
  else if 0x50000 ≤ off ∧ off < 0x50000 + 8 * 4094 then p.routes.get (i - 0xA000)
  else 0

/-- A word of the platform block (R336, R448, R450, R455 to R459). -/
def State.platRead (s : State) (off : Nat) : Word :=
  let p := s.plat
  if off = 0x008 then p.fwctl
  else if off = 0x010 then s.fwStat
  else if off = 0x018 then p.hb
  else if off = 0x020 then p.pwr
  else if off = 0x028 then BitVec.ofNat 64 (p.lpt.toNat * 65536 + b2n p.clkErr)
  else if off = 0x030 then p.govCls
  else if 0x040 ≤ off ∧ off < 0x060 then p.govBud[Fin.ofNat 4 ((off - 0x40) / 8)]
  else if 0x060 ≤ off ∧ off < 0x088 then p.therm[Fin.ofNat 5 ((off - 0x60) / 8)]
  else if 0x100 ≤ off ∧ off < 0x160 then p.ce[Fin.ofNat 12 ((off - 0x100) / 8)]
  else if 0x180 ≤ off ∧ off < 0x1E0 then p.ue[Fin.ofNat 12 ((off - 0x180) / 8)]
  else if off = 0x200 then BitVec.ofNat 64 p.wdog
  else if 0x300 ≤ off ∧ off < 0x340 then
    let d : Fin 4 := Fin.ofNat 4 ((off - 0x300) / 16)
    if off % 16 = 0 then p.spill.get (2 * d.val) else s.spillSize d
  else 0

/-- The word at an aligned address of the register space; the cloak table answers the Bridle core and the debugger alone (R341). -/
def State.regRead (s : State) (a : Nat) : Word :=
  let o := a - 0xFF0000000000
  if 0x1800000000 ≤ o ∧ o < 0x1800400000 then
    (if o % 0x100000 < 0x2000 then s.plat.surfW.get (1024 * ((o - 0x1800000000) / 0x100000) + o % 0x100000 / 8) else 0)
  else if 0x2000000000 ≤ o ∧ o < 0x2014000000 then s.debugRead (Fin.ofNat 320 ((o - 0x2000000000) / 0x100000)) (o % 0x100000)
  else if 0x3000000000 ≤ o ∧ o < 0x3000100000 then (s.osqs[Fin.ofNat 16 ((o - 0x3000000000) / 0x10000)]).regRead (o % 0x10000)
  else if 0x4000000000 ≤ o ∧ o < 0x4000100000 then s.haltRead (o - 0x4000000000)
  else if 0x5000000000 ≤ o ∧ o < 0x5000100000 then s.fabRead (o - 0x5000000000)
  else if 0x6000000000 ≤ o ∧ o < 0x6000001000 then s.platRead (o - 0x6000000000)
  else 0

/-! ## Writes -/

/-- The state that a meaning leaves. -/
def outOr (s : State) : Out → State
  | .next t => t
  | _ => s

/-- DBG.CMD (R402): 1 stop, 2 resume, 3 step. -/
def State.cmdWrite (s : State) (c : Fin 320) (v : Word) : State :=
  match bits v 1 0 with
  | 1 => outOr s (execDbgStop c s)
  | 2 => outOr s (execDbgResume c s)
  | 3 => outOr s (execDbgStep c s)
  | _ => s

/-- FW.CTL (R448): BOOT, and UPD, which starts a live update from the inactive slot of boot flash. -/
def State.fwWrite (s : State) (v : Word) : State :=
  let t := s.platWrite 0x008 v
  if bit v 2 then outOr t (execUpd (flashAt t.plat.flash 6 (!bit t.plat.fwctl 1)) t) else t

/-- A write of the word at an aligned address of the register space: a register with a row of its own as that row says, any other as REGISTER_WRITE. -/
def State.regWrite (s : State) (a : Nat) (v : Word) : State :=
  let o := a - 0xFF0000000000
  let other := outOr s (execRegisterWrite (BitVec.ofNat 52 a) v s)
  if 0x1000000000 ≤ o ∧ o < 0x1000400000 then s
  else if 0x2000000000 ≤ o ∧ o < 0x2014000000 then
    let c : Fin 320 := Fin.ofNat 320 ((o - 0x2000000000) / 0x100000)
    let off := o % 0x100000
    if off = 0x1010 then s.cmdWrite c v
    else if 0x81000 ≤ off then outOr s (execStopWindowWrite c (BitVec.ofNat 20 off) v s)
    else other
  else if o = 0x4000000008 then (if bit v 63 then outOr s (execHalterRearm s) else s)
  else if o = 0x4000000010 then (if bit v 0 then outOr s (execFire s) else s)
  else if 0x5000000000 ≤ o ∧ o < 0x5000100000 then
    let off := o - 0x5000000000
    if off < 0x800 then outOr s (execPeerSlotWrite (Fin.ofNat 256 (off / 8)) v s)
    else if off = 0x800 then outOr s (execFabIdWrite v s)
    else if off = 0x818 then outOr s (execFabPortenWrite v s)
    else if 0x10000 ≤ off ∧ off < 0x11000 then outOr s (execExposureWrite (Fin.ofNat 256 ((off - 0x10000) / 16)) (off % 16 = 8) v s)
    else if 0x30000 ≤ off ∧ off < 0x30800 ∧ off % 32 = 0 then outOr s (execQueueW0Write (Fin.ofNat 64 ((off - 0x30000) / 32)) v s)
    else if 0x50000 ≤ off ∧ off < 0x50000 + 8 * 4094 then outOr s (execRouteWrite (Fin.ofNat 4094 ((off - 0x50000) / 8)) v s)
    else other
  else if 0x6000000000 ≤ o ∧ o < 0x6000001000 then
    let off := o - 0x6000000000
    if off = 0x008 then s.fwWrite v
    else if off = 0x018 then outOr s (execReinHb 5 s)
    else if off = 0x028 then outOr s (execPlatClkWrite v s)
    else if 0x100 ≤ off ∧ off < 0x160 then outOr s (execRasClear false (Fin.ofNat 12 ((off - 0x100) / 8)) v s)
    else if 0x180 ≤ off ∧ off < 0x1E0 then outOr s (execRasClear true (Fin.ofNat 12 ((off - 0x180) / 8)) v s)
    else if 0x300 ≤ off ∧ off < 0x340 then outOr s (execSpillWrite (Fin.ofNat 4 ((off - 0x300) / 16)) (off % 16 = 8) v s)
    else other
  else other

/-! ## Requests -/

/-- A line of the register space. -/
def State.regLine (s : State) (a : Nat) : Nat := (List.range 8).foldl (fun x j => x + (s.regRead (a + 8 * j)).toNat * 2 ^ (64 * j)) 0

/-- The word of a masked write: bytes outside the mask keep what the register reads as (log 125). -/
def State.regMerge (s : State) (a : Nat) (mask : Nat) (v : Nat) : Word :=
  BitVec.ofNat 64 ((List.range 8).foldl (fun x b => if mask.testBit b then imgSet x b 1 (v / 2 ^ (8 * b)) else x) (s.regRead a).toNat)

/-- One request to the register space is performed. -/
def State.regServe1 (s : State) (r : FReq) : State :=
  let put (s : State) (x : FReq) : State := { s with plat := { s.plat with reqs := s.plat.reqs.map (fun y => if y = r then x else y) } }
  let a := r.addr / 64 * 64
  if r.kind = 1 then
    let s := if r.posted then { s with plat := { s.plat with reqs := s.plat.reqs.erase r } } else put s { r with st := 1 }
    (List.range 8).foldl (fun s j =>
      let m := r.mask.toNat / 2 ^ (8 * j) % 256
      if m = 0 then s else s.regWrite (a + 8 * j) (s.regMerge (a + 8 * j) m (r.data.toNat / 2 ^ (64 * j) % 2 ^ 64))) s
  else if r.kind = 2 then
    let w := r.addr / 8 * 8
    let sh := 8 * (r.addr % 8)
    let old := (s.regRead w).toNat / 2 ^ sh % 2 ^ (8 * r.n)
    let new := atomNew r.op r.n old (r.data.toNat % 2 ^ 64) (r.data.toNat / 2 ^ 64 % 2 ^ 64)
    (put s { r with st := 1, data := BitVec.ofNat 512 old }).regWrite w (BitVec.ofNat 64 (imgSet (s.regRead w).toNat (r.addr % 8) r.n new))
  else put s { r with st := 1, data := BitVec.ofNat 512 (s.regLine a) }

/-- The requests to the register space that wait are performed in order. -/
def State.regServe (s : State) : State := (s.plat.reqs.filter (fun r => r.dev == 0xFFE && r.st == 0)).foldl State.regServe1 s

/-! ## Accesses of the control cores (R444, log 140) -/

/-- What a Rein core reaches by an access of n bytes: the queue firmware the queue registers and the control blocks that it knows, the packet firmware
doorbell lines to enqueue at, the monitor firmware the platform block. -/
def State.reinMay (s : State) (k : Fin 6) (a n : Nat) : Bool :=
  if k.val < 4 then
    (0xFF5000030000 ≤ a && a + n ≤ 0xFF5000030800) || (isHbm a && s.plat.blocks.any (fun b => b.2.toNat ≤ a && a + n ≤ b.2.toNat + 192))
  else if k.val = 4 then n == 64 && s.isDoor a
  else 0xFF6000000000 ≤ a && a + n ≤ 0xFF6000001000

/-- The word that a control core loads: a register's, zero at a doorbell line (R433), else memory's, with the access at its home. -/
def State.ctlLoad (s : State) (k : Fin 7) (a : Nat) : State :=
  let put (s : State) (v : Word) : State := { s with plat := { s.plat with ctlW := s.plat.ctlW.set k v } }
  if isSysSpace a then put s (s.regRead a)
  else if !s.isMem a then s
  else if s.isDoor a then put s 0
  else s.spillOr (put ((s.inLine a).noteCv a 8) (BitVec.ofNat 64 (s.readP a 8)))

/-- An access of a control core, Bridle or Rein core k, performed at its home (R444, R347); beyond what the core reaches it does nothing. -/
def State.ctlAccess (s : State) (rein : Option (Fin 6)) (op : CtlOp) : State :=
  let may (a n : Nat) : Bool := a % n == 0 && rein.all (fun k => s.reinMay k a n)
  let who : Fin 7 := match rein with
    | some k => Fin.ofNat 7 k.val
    | none => 6
  if s.plat.off then s else
  match op, rein with
  | .load a, _ => if may a 8 then s.ctlLoad who a else s
  | .store a v, _ => if !may a 8 then s else if isSysSpace a then s.regWrite a v else if s.isMem a then s.bridleStore a 8 v.toNat else s
  | .line a v, none => if may a 64 && s.isMem a then s.bridleStore a 64 v.toNat else s
  | .line a v, some k => if !may a 64 then s else if k.val = 4 then
      (s.writeIn { src := 0xFFE, ctx := 0, addr := BitVec.ofNat 52 a, len := 64, mask := BitVec.allOnes 64, data := v, op := 0, wide := false }).2
      else if s.isMem a then s.bridleStore a 64 v.toNat else s
  | .sramLoad a, some k => if a % 8 = 0 ∧ a < 262144 then
      { s with plat := { s.plat with ctlW := s.plat.ctlW.set who (BitVec.ofNat 64 (Mem.read s.plat.srams[k] a 8)) } } else s
  | .sramStore a v, some k => if a % 8 = 0 ∧ a < 262144 then
      { s with plat := { s.plat with srams := s.plat.srams.set k (Mem.write s.plat.srams[k] a v.toNat 8) } } else s
  | _, none => s

end Sys2Proof.Machine
end

