-- ==== Sys2Proof/Machine/Step.lean ====
section
/-! DEFINITION. The step: the next item of the schedule runs (log 1). A unit's turn fetches and runs one instruction; an event runs as its row of the
opcode table says; a process that the resident kernel judges broken ends (R377); the fuses' security version rises (R446); a control core makes an access
(R444); SPDM is pointed at a peer (R447); the replay log ends (R419). An empty schedule lets one tick pass. -/

namespace Sys2Proof.Machine

/-- The state in which sequencer q runs an instruction of n bytes: decoding goes on after it, or after a repeated one where R253 says. -/
def State.atInstr (s : State) (q : Fin 16) (n : Nat) : State :=
  s.modCtx q (fun x => { x with nvpc := x.reexec.headD (x.vpc + BitVec.ofNat 48 n), avpc := x.vpc + BitVec.ofNat 48 n })

/-- The sequencer neither waits nor stands still (R228, R12, R288, R384, R435). -/
def Ctx.decodes (x : Ctx) : Bool :=
  !(x.parked || x.pageWait || x.done || x.awaits || x.preReq.isSome || x.sigWait.isSome)

/-- A sequencer's turn: a bundle of the expansion routine that runs, or a turn of the built-in one (R396), else the instruction at VPC. -/
noncomputable def stepSeq (q : Fin 16) (s : State) : Out :=
  match s.ctx q with
  | none => .next s
  | some x =>
    match x.exp with
    | some e =>
      if (x.inv e.uid).any (fun i => i.img.isNone) then .next (s.decodeExp q)
      else match s.fetchWord e.fr with
      | some w => exec (.bundle w) s
      | none => .next s
    | none =>
      if !x.decodes then .next s
      else match s.fetchVanik q x with
        | .instr i n s => exec i (s.atInstr q n)
        | .illegal op opx k lim s => s.vIllegal q op opx .vbcIllegal (k + 256 * b2n lim)
        | .unfetched op opx info s => s.vIllegal q op opx .vbcFetch info
        | .park => .next (s.modCtx q (fun x => { x with pageWait := true }))

/-- A core's turn: the bundle at its program counter, or its whole task of the built-in ATTN (R396); nothing without a task. -/
noncomputable def stepCore (c : Fin 320) (s : State) : Out :=
  if (s.taskInv c).any (fun i => i.img.isNone && i.nrec != 0) then .next (s.decodeTask c)
  else match (s.core c).task, s.fetchWord (s.core c).fr with
  | some _, some w => exec (.bundle w) s
  | _, _ => .next s

/-- The turn of a unit. -/
noncomputable def stepUnit (u : UnitId) (s : State) : Out :=
  match u with
  | .core c => stepCore c { s with cur := u }
  | .seq q => stepSeq q { s with cur := u }

/-- What the ticks that pass up to now bring: the watch records of the tick that ends enter their rings (R414), the recorder writes what it holds of ticks gone
by (R419), the halter's latch ticks fall due (R416), and a logged cancellation may have been missed (R420). -/
def State.ticked (s : State) (now : Word) : State := (({ s.flushWatch with tb := now }.flushLog now.toNat).latchDue now.toNat).missedError

/-- dt ticks pass, and the rest of the schedule stands. -/
def State.pass (s : State) (dt : Nat) (l : List Turn) : State :=
  if dt = 0 then { s with agenda := l } else { s with agenda := l }.ticked (s.tb + BitVec.ofNat 64 dt)

/-- What follows each instruction and event within its step: the register space answers (log 125), clusters acknowledge shootdowns (R340), and the homes
of the signal words that contexts wait for have seen what was written (R288). -/
def afterStep : Out → Out
  | .next s => .next s.regServe.ackAll.sigEvalAll
  | .fault f => .fault f
  | .refused r => .refused r

/-- One step of the machine. -/
noncomputable def step (s : State) : Host.Outcome State Fault Refusal :=
  match s.agenda with
  | [] => .next (s.pass 1 [])
  | .unit dt u :: l => afterStep (stepUnit u (s.pass dt l))
  | .event dt i :: l => afterStep (exec i (s.pass dt l))
  | .judge dt p :: l => afterStep (.next ((s.pass dt l).endProcess p))
  | .fuse dt v :: l => afterStep (.next ((s.pass dt l).raiseFuse v))
  | .ctl dt k op :: l => afterStep (.next ((s.pass dt l).ctlAccess k op))
  | .spdm dt p :: l => let t := s.pass dt l
                       afterStep (.next { t with plat := { t.plat with spdmPeer := p } })
  | .logEnd dt :: l => afterStep (.next (s.pass dt l).logEnd)

/-! ## An instruction placed where the next step fetches it -/

/-- The context that withFetchWord sets up on sequencer 0: page-table root in frame 16. -/
def fetchCfg : CtxCfg :=
  { tag := 1, slot := 0, root := 0x10, process := 0, entry := 0x20000, sys := false, debug := false, team := 1, quota := 192, heap := 0, heapSize := 0, area := 0, dumps := false }

/-- A page table at frames 16 .. 19 that maps the page 0x20000 to itself with R, and the bytes there. -/
def fetchMem (m : List Host.Cell) (l : List Byte) : List Host.Cell :=
  let at_ (pa : Nat) : Nat := locKey 0 pa
  let put (m : List Host.Cell) (pa v : Nat) : List Host.Cell :=
    (List.range 8).foldl (fun m i => Mem.set m (at_ (pa + i)) (BitVec.ofNat 8 (v / 256 ^ i))) m
  let m := put m 0x10000 0x110001
  let m := put m 0x11000 0x120001
  let m := put m 0x12000 0x130001
  let m := put m (0x13000 + 8 * 0x20) 0x200007
  (l.zipIdx).foldl (fun m b => Mem.set m (at_ (0x20000 + b.2)) b.1) m

/-- The state s with an instruction of the opcode table stored where the next step fetches it: Vanik bytes at the VPC of a context on sequencer 0
whose turn comes next; a bundle, and a NOP bundle after it, in an image that core 0 runs (log 40). -/
def State.withFetchWord (s : State) (nbits w : Nat) : State :=
  if nbits = 256 then
    let g : Img := { num := 0, code := (leBytes 32 w).zipIdx.foldl (fun (m : Mem) b => m.set (64 + b.2) b.1)
                       ((leBytes 4 128).zipIdx.foldl (fun (m : Mem) b => m.set (20 + b.2) b.1) []),
                     size := 128, dies := 1, ofs := 0, sysv := false }
    let t : Task := { osq := 0, inv := 0, wrec := 0, ord := 0, left := 0, idx := [0, 0, 0, 0, 0, 0], entry := 64, parked := false, frozen := false,
                      stopping := none, exiting := false, arrived := none }
    { (s.modCore 0 (fun k => { k with task := some t, fr := { Front.reset with img := 0, pc := 64, rtn := 64 } })) with
      imgs := [g], agenda := [.unit 0 (.core 0)] }
  else
    { (s.setCtx 0 (Ctx.create fetchCfg)) with mem := fetchMem s.mem (tabwordBytes nbits w), agenda := [.unit 0 (.seq 0)] }

end Sys2Proof.Machine
end

