-- ==== Sys2Proof/Safety.lean ====
section
/-! DEFINITION. The terms in which the statements speak: a well-formed memory, a slot that issues, what reading a register gives, a state with one
thing changed, what a step leaves alone, and the tables of results that the manual writes out (R88, R91), in the manual's own terms. -/

namespace Sys2Proof.Safety

open Sys2Proof.Machine

/-! ## Outcomes and memory -/

/-- Device memory is in its one canonical form. -/
def MemOk (s : State) : Prop := Mem.wf s.mem = true

/-- An outcome is a next state with a property. -/
def NextWith (o : Host.Outcome State Fault Refusal) (p : State → Prop) : Prop := ∃ t, o = .next t ∧ p t

/-- One byte of device memory as a read at its home returns it under the scheme its frame is mapped with. -/
def byteAt (s : State) (a : Nat) : Byte := s.readByte (s.frameIlv a) a

/-! ## Slots -/

/-- The slot with guard g is being issued: its bundle is in hand, no earlier slot stopped it, and it is enabled (R66). -/
structure Issues (g : Guard) (s : State) : Prop where
  bundle  : s.iss.bundle = true
  noTrap  : s.iss.trap = none
  noStall : s.iss.stall = none
  enabled : s.enabled g = true

/-- The slot with guard g is issued as a bundle of its own, with three NOP slots beside it, and it is enabled. -/
structure Alone (g : Guard) (s : State) : Prop where
  idle    : s.iss = Issue.idle
  enabled : s.enabled g = true

/-- What a scalar register holds, as the code in hand reads it: s0 reads 0 (R16). -/
def val (s : State) (r : BitVec 6) : Word := if r = 0 then 0 else s.front.s[r.toFin]

/-- The poison of a scalar register: s0 is never poisoned (R16). -/
def psn (s : State) (r : BitVec 6) : Bool := if r = 0 then false else s.front.sp.getLsbD r.toNat

/-- What a predicate holds: p0 reads true (R16). -/
def pval (s : State) (r : BitVec 4) : Bool := if r = 0 then true else s.front.p.getLsbD r.toNat

/-- No load or atomic that is outstanding aims at the register (R83). -/
def Clear (s : State) (r : BitVec 6) : Prop := s.waits r = false

/-- The register may be used by a form that consumes its poison: it waits for nothing and is clean (R83, R112). -/
def Clean (s : State) (r : BitVec 6) : Prop := Clear s r ∧ psn s r = false

/-- s with another core c, everything else as it was. -/
def withCore (s : State) (c : Fin 320) (k : Core) : State := { s with cores := s.cores.set c k }

/-- s with one more result in flight in the scalar front of the unit in hand, everything else as it was. -/
def withFlight (s : State) (lat : Nat) (d : Dest) : State :=
  match s.cur with
  | .core c => withCore s c { s.core c with fr := { (s.core c).fr with fl := (s.core c).fr.fl ++ [{ pos := lat, dst := d, at_ := (s.core c).fr.nb }] } }
  | .seq q => match (s.osqs[q]).ctx with
    | none => s
    | some x => match x.exp with
      | none => s
      | some e => { s with osqs := s.osqs.set q { (s.osqs[q]) with
          ctx := some { x with exp := some { e with fr := { e.fr with fl := e.fr.fl ++ [{ pos := lat, dst := d, at_ := e.fr.nb }] } } } } }

/-- s with the trap that a slot reports, everything else as it was. -/
def withTrap (s : State) (t : Trap) : State := { s with iss := { s.iss with trap := some t } }

/-- s with the stall that a slot reports, everything else as it was. -/
def withStall (s : State) (reason detail : BitVec 8) : State := { s with iss := { s.iss with stall := some (reason, detail) } }

/-- s with what its bundle does once all its slots have issued, everything else as it was. -/
def withPost (s : State) (p : Post) : State := { s with iss := { s.iss with post := p } }

/-- s with the place its bundle transfers to, everything else as it was. -/
def withNext (s : State) (pc : Nat) : State := { s with iss := { s.iss with next := some pc } }

/-- n bundles later, as far as results in flight go: each lands those due (R81). -/
def landings : Nat → State → State
  | 0, s => s
  | n + 1, s => landings n s.landDue

/-- Everything a scalar instruction of core c may not touch: memory, every other core, the sequencers, the platform, the caches and
the storage of the dies. -/
def SameOutside (c : Fin 320) (s t : State) : Prop :=
  t.mem = s.mem ∧ t.tb = s.tb ∧ t.agenda = s.agenda ∧ t.cur = s.cur ∧ (∀ d : Fin 320, d ≠ c → t.core d = s.core d) ∧ t.osqs = s.osqs ∧
  t.dorm = s.dorm ∧ t.dies = s.dies ∧ t.clus = s.clus ∧ t.frames = s.frames ∧ t.cwrit = s.cwrit ∧ t.stamps = s.stamps ∧ t.barrs = s.barrs ∧
  t.parts = s.parts ∧ t.imgs = s.imgs ∧ t.saves = s.saves ∧ t.plat = s.plat ∧ t.rec_ = s.rec_ ∧ t.phases = s.phases ∧ t.ueMarks = s.ueMarks

/-! ## Results of the scalar forms, in the manual's terms -/

/-- A scalar form that writes one register from at most three: guard, destination, sources (s0 where the form has none), latency, result. -/
structure Alu where
  g   : Guard
  d   : BitVec 6
  a   : BitVec 6
  b   : BitVec 6
  c   : BitVec 6
  lat : Nat
  f   : Word → Word → Word → Word

/-- A form of format SA on two registers, of latency 1. -/
def rr (g : Guard) (f : SA) (op : Word → Word → Word) : Option Alu := some ⟨g, f.d, f.a, f.b, 0, 1, fun a b _ => op a b⟩

/-- A form of format SI on one register and the sign-extended immediate. -/
def ri (g : Guard) (f : SI) (op : Word → Word → Word) : Option Alu := some ⟨g, f.d, f.a, 0, 0, 1, fun a _ _ => op a (f.imm.signExtend 64)⟩

/-- Bit i of the 64-bit word is p i. -/
def ofBits (p : Nat → Bool) : Word := (BitVec.ofBoolListLE ((List.range 64).map p)).setWidth 64

/-- The tables of R88 and R91, row by row: the forms that write a scalar register and raise nothing. -/
def aluSays : Instr → Option Alu
  | .add g f => rr g f (fun a b => BitVec.ofInt 64 (a.toInt + b.toInt))
  | .sub g f => rr g f (fun a b => BitVec.ofInt 64 (a.toInt - b.toInt))
  | .mul g f => some ⟨g, f.d, f.a, f.b, 0, 3, fun a b _ => BitVec.ofNat 64 (a.toNat * b.toNat)⟩
  | .mulh g f => some ⟨g, f.d, f.a, f.b, 0, 3, fun a b _ => (a.signExtend 128 * b.signExtend 128).extractLsb' 64 64⟩
  | .mulhu g f => some ⟨g, f.d, f.a, f.b, 0, 3, fun a b _ => (a.zeroExtend 128 * b.zeroExtend 128).extractLsb' 64 64⟩
  | .andR g f => rr g f (fun a b => ofBits (fun i => a.getLsbD i && b.getLsbD i))
  | .orR g f => rr g f (fun a b => ofBits (fun i => a.getLsbD i || b.getLsbD i))
  | .xorR g f => rr g f (fun a b => ofBits (fun i => a.getLsbD i ^^ b.getLsbD i))
  | .andn g f => rr g f (fun a b => ofBits (fun i => a.getLsbD i && !b.getLsbD i))
  | .shl g f => rr g f (fun a b => BitVec.ofNat 64 (a.toNat * 2 ^ (b.extractLsb' 0 6).toNat))
  | .shr g f => rr g f (fun a b => BitVec.ofNat 64 (a.toNat / 2 ^ (b.extractLsb' 0 6).toNat))
  | .sra g f => rr g f (fun a b => BitVec.ofInt 64 (a.toInt / 2 ^ (b.extractLsb' 0 6).toNat))
  | .minR g f => rr g f (fun a b => BitVec.ofInt 64 (min a.toInt b.toInt))
  | .maxR g f => rr g f (fun a b => BitVec.ofInt 64 (max a.toInt b.toInt))
  | .minu g f => rr g f (fun a b => BitVec.ofNat 64 (min a.toNat b.toNat))
  | .maxu g f => rr g f (fun a b => BitVec.ofNat 64 (max a.toNat b.toNat))
  | .clz g f => some ⟨g, f.d, f.a, 0, 0, 1, fun a _ _ => BitVec.ofNat 64 ((List.range 64).takeWhile (fun i => !a.getLsbD (63 - i))).length⟩
  | .ctz g f => some ⟨g, f.d, f.a, 0, 0, 1, fun a _ _ => BitVec.ofNat 64 ((List.range 64).takeWhile (fun i => !a.getLsbD i)).length⟩
  | .popc g f => some ⟨g, f.d, f.a, 0, 0, 1, fun a _ _ => BitVec.ofNat 64 ((List.range 64).filter (fun i => a.getLsbD i)).length⟩
  | .ext g f => rr g f (fun a b =>
      let w := f.fn.toNat % 64 + 1
      let pos := (b.extractLsb' 0 6).toNat
      ofBits (fun i => if i < w then a.getLsbD (pos + i) else f.fn.getLsbD 6 && a.getLsbD (pos + w - 1)))
  | .maddr g f => some ⟨g, f.d, f.a, f.b, f.c, 3, fun a b c => BitVec.ofNat 64 (a.toNat * b.toNat + c.toNat)⟩
  | .addi g f => ri g f (fun a x => BitVec.ofInt 64 (a.toInt + x.toInt))
  | .andi g f => ri g f (fun a x => ofBits (fun i => a.getLsbD i && x.getLsbD i))
  | .ori g f => ri g f (fun a x => ofBits (fun i => a.getLsbD i || x.getLsbD i))
  | .xori g f => ri g f (fun a x => ofBits (fun i => a.getLsbD i ^^ x.getLsbD i))
  | .shli g f => ri g f (fun a _ => BitVec.ofNat 64 (a.toNat * 2 ^ (f.imm.extractLsb' 0 6).toNat))
  | .shri g f => ri g f (fun a _ => BitVec.ofNat 64 (a.toNat / 2 ^ (f.imm.extractLsb' 0 6).toNat))
  | .srai g f => ri g f (fun a _ => BitVec.ofInt 64 (a.toInt / 2 ^ (f.imm.extractLsb' 0 6).toNat))
  | .li g f => some ⟨g, f.d, 0, 0, 0, 1, fun _ _ _ => BitVec.ofInt 64 f.imm.toInt⟩
  | .lih g f => some ⟨g, f.d, f.a, 0, 0, 1, fun a _ _ => f.imm ++ a.extractLsb' 0 32⟩
  | .movk g f => some ⟨g, f.d, f.a, 0, 0, 1, fun a _ _ =>
      let k := f.fn.toNat % 4
      ofBits (fun i => if 16 * k ≤ i ∧ i < 16 * k + 16 then f.imm.getLsbD (i - 16 * k) else a.getLsbD i)⟩
  | _ => none

/-- The division forms of R90 on a divisor that is not zero. -/
def divSays : Instr → Option Alu
  | .div g f => some ⟨g, f.d, f.a, f.b, 0, 12, fun a b _ => BitVec.ofInt 64 (Int.tdiv a.toInt b.toInt)⟩
  | .divu g f => some ⟨g, f.d, f.a, f.b, 0, 12, fun a b _ => BitVec.ofNat 64 (a.toNat / b.toNat)⟩
  | .rem g f => some ⟨g, f.d, f.a, f.b, 0, 12, fun a b _ => BitVec.ofInt 64 (Int.tmod a.toInt b.toInt)⟩
  | .remu g f => some ⟨g, f.d, f.a, f.b, 0, 12, fun a b _ => BitVec.ofNat 64 (a.toNat % b.toNat)⟩
  | _ => none

/-- The condition that FN of CMP and CMPI names (R92). -/
def condSays (fn : Nat) (a x : Word) : Bool :=
  match fn with
  | 0 => decide (a = x)
  | 1 => decide (a ≠ x)
  | 2 => decide (a.toInt < x.toInt)
  | 3 => decide (x.toInt ≤ a.toInt)
  | 4 => decide (a.toNat < x.toNat)
  | _ => decide (x.toNat ≤ a.toNat)

/-! ## Ends of bundles -/

/-- Core c after a bundle of its own that transfers nothing and stands outside a loop: the bundle counted, the next one at pc. -/
def issued (s : State) (c : Fin 320) (pc : Nat) : State :=
  withCore s c { s.core c with fr := { (s.core c).fr with scyc := (s.core c).fr.scyc + 1, pc := pc } }

/-- A form that commits issues alone on core c: its waits are over, and the commit, with the next bundle at pc, meets no race and no refused line and
leaves v (R107). -/
structure Commits (g : Guard) (s : State) (c : Fin 320) (pc : Nat) (v : State) : Prop where
  alone  : Alone g s
  cur    : s.cur = .core c
  task   : (s.core c).hs = none
  body   : (s.core c).loops.run = none
  ready  : (s.core c).phaseReady = true
  clean  : ∃ w, s.phaseCommit c (s.core c).fr.pc = .ok w ∧ s.spillOver w.1 = none
  done   : (issued s c pc).phaseCommit c pc = .ok (v, none)
  kept   : (v.core c).revoked = false

/-! ## A core's accesses to memory -/

/-- An access of core c to n bytes at virtual address va passes its checks and reaches local memory at physical address pa through extent e (R24, R114). -/
structure Reaches (s : State) (c : Fin 320) (va n : Nat) (need : Need) (e : BitVec 128) (pa : Nat) : Prop where
  aligned : va % n = 0
  checked : s.exCheck c va n need = none
  place   : s.exOf c va = (e, pa)
  inLine  : pa % n = 0
  local_  : isWin pa = false

/-- No cloak or surface entry and no error mark is in force, so that a byte of memory stands at its own location. -/
structure Plain (s : State) : Prop where
  cloaks : s.cloaks = []
  surfs  : ∀ d : Fin 4, (s.dies[d]).surf = []
  marks  : s.ueMarks = []

/-- Core c holds nothing of its own of a line: no buffered store, no partial, no private copy. -/
structure NothingOwn (s : State) (c : Fin 320) (line : Nat) : Prop where
  stores : ∀ e ∈ (s.core c).ph.sb, e.line ≠ line
  upds   : ∀ u ∈ (s.core c).ph.upds, u.word / 64 ≠ line
  parts  : ∀ p ∈ s.parts, p.word / 64 ≠ line
  sk     : spGet none (s.core c).sk line = none

/-- No watchpoint of core c is set (R412). -/
def Unwatched (s : State) (c : Fin 320) : Prop := ∀ (pa n v : Nat), s.watchCore c 0 pa n v = (s, none)

/-- No core has a watchpoint set (R412). -/
def NoWatch (s : State) : Prop := ∀ (c : Fin 320) (i : Nat), i < 4 → bit ((s.core c).sys.get (0x48 + i)) 0 = false

/-- The access of a kind races with none that others have made (R349). -/
def RaceFree (s : State) (c : Fin 320) (kind : BitVec 3) (ilv pa : Nat) (scope : BitVec 4) : Prop :=
  ∀ a, s.accOf c kind ilv pa scope = some a → s.rivals a = []

/-- The value that an atomic leaves (R125, R126) where the old value is old, by constructor: guard, fields, operation on n-byte words. -/
def amoSays : Instr → Option (Guard × SY × (Nat → Nat → Nat → Nat))
  | .amoSwap g f => some (g, f, fun _ _ b => b)
  | .amoAdd g f => some (g, f, fun n old b => (old + b) % 2 ^ (8 * n))
  | .amoAnd g f => some (g, f, fun _ old b => Nat.land old b)
  | .amoOr g f => some (g, f, fun _ old b => Nat.lor old b)
  | .amoXor g f => some (g, f, fun _ old b => Nat.xor old b)
  | .amoMin g f => some (g, f, fun n old b => if (BitVec.ofNat (8 * n) b).toInt < (BitVec.ofNat (8 * n) old).toInt then b else old)
  | .amoMax g f => some (g, f, fun n old b => if (BitVec.ofNat (8 * n) old).toInt < (BitVec.ofNat (8 * n) b).toInt then b else old)
  | .amoMinu g f => some (g, f, fun _ old b => min old b)
  | .amoMaxu g f => some (g, f, fun _ old b => max old b)
  | .amoFadd g f => some (g, f, fun _ old b => (addF32 (BitVec.ofNat 32 old) (BitVec.ofNat 32 b)).toNat)
  | _ => none

/-- The operation code of an AMO form (R125), by constructor. -/
def amoCode : Instr → Option (Guard × SY × BitVec 4)
  | .amoSwap g f => some (g, f, 0)
  | .amoAdd g f => some (g, f, 1)
  | .amoAnd g f => some (g, f, 2)
  | .amoOr g f => some (g, f, 3)
  | .amoXor g f => some (g, f, 4)
  | .amoMin g f => some (g, f, 5)
  | .amoMax g f => some (g, f, 6)
  | .amoMinu g f => some (g, f, 7)
  | .amoMaxu g f => some (g, f, 8)
  | .amoFadd g f => some (g, f, 9)
  | _ => none

/-- The fold of a commutative update (R129), by constructor. -/
def cupdSays : Instr → Option (Guard × SY × BitVec 4)
  | .cupdAdd g f => some (g, f, 0)
  | .cupdFadd g f => some (g, f, 1)
  | .cupdMin g f => some (g, f, 2)
  | .cupdMax g f => some (g, f, 3)
  | .cupdOr g f => some (g, f, 4)
  | _ => none

/-! ## Queues of a core -/

/-- s with one more entry at the end of core c's beat queue (R164), begun where its slot is ready for good. -/
def queued (s : State) (c : Fin 320) (op : MOp) (run : Bool := false) : State :=
  let k := s.core c
  withCore s c { k with
    issued := k.issued + 1,
    arr := { k.arr with queue := k.arr.queue ++ [{ op := op, run := run, phase := k.ph.num, fail := false, seq := k.issued }] } }

/-- t is s with one more command at the end of core c's engine queue, its tag counted once more (R192, R196): operation, fields, and operands as read; the
scalar registers, the scratchpad, the rings and everything outside the core stand. -/
def Commands (s t : State) (c : Fin 320) (f : XF) (op : Nat) (fn : BitVec 4) (a b x : Word) : Prop :=
  let k := s.core c
  let k' := t.core c
  (∃ m : Cmd, k'.eng.queue = k.eng.queue ++ [m] ∧ m.op.toNat = op ∧ m.fn = fn ∧ m.h = f.h ∧ m.imm = f.imm.toNat ∧ m.fmt = f.fmt ∧ m.tag = f.tag ∧
    m.a = a ∧ m.b = b ∧ m.c = x ∧ m.run = false ∧ m.fin = false ∧ m.phase = k.ph.num) ∧
  k'.eng.cls = k.eng.cls ∧ (∀ i : Fin 16, k'.eng.ntag[i] = k.eng.ntag[i] + (if i = f.tag.toFin then 1 else 0)) ∧
  k'.fr = k.fr ∧ k'.scr = k.scr ∧ k'.rings = k.rings ∧ k'.arr = k.arr ∧ SameOutside c s t

/-! ## Sequencers -/

/-- Sequencer q runs the expansion routine e of invocation i of context x. -/
structure OnRoutine (s : State) (q : Fin 16) (x : Ctx) (e : Exp) (i : Inv) : Prop where
  cur : s.cur = .seq q
  ctx : s.ctx q = some x
  exp : x.exp = some e
  inv : x.inv e.uid = some i

/-- s with the invocation uid of the context on sequencer q changed by f, everything else as it was. -/
def withInvOf (s : State) (q : Fin 16) (x : Ctx) (uid : Nat) (f : Inv → Inv) : State := s.setCtx q (x.modInv uid f)

/-! ## Graphs -/

/-- Sequencer q decodes for context x, outside a fused group. -/
structure Decodes (s : State) (q : Fin 16) (x : Ctx) : Prop where
  cur  : s.cur = .seq q
  ctx  : s.ctx q = some x
  fuse : x.fuse = none

/-- A NALU form: its number in the operation field, destination, sources, and the exact result on signed values, none where R247 gives none. -/
structure Nalu where
  code : Nat
  d    : BitVec 6
  a    : SOp
  b    : SOp
  f    : Int → Int → Option Int

/-- The table of R247, row by row. -/
def naluSays : Instr → Option Nalu
  | .naluAdd d a b => some ⟨0, d, a, b, fun x y => some (x + y)⟩
  | .naluSub d a b => some ⟨1, d, a, b, fun x y => some (x - y)⟩
  | .naluMul d a b => some ⟨2, d, a, b, fun x y => some (x * y)⟩
  | .naluFloordiv d a b => some ⟨3, d, a, b, fun x y => if y = 0 then none else some (Int.fdiv x y)⟩
  | .naluCeildiv d a b => some ⟨4, d, a, b, fun x y => if y = 0 then none else some (-(Int.fdiv (-x) y))⟩
  | .naluMin d a b => some ⟨5, d, a, b, fun x y => some (min x y)⟩
  | .naluMax d a b => some ⟨6, d, a, b, fun x y => some (max x y)⟩
  | .naluAnd d a b => some ⟨7, d, a, b, fun x y => some (BitVec.ofInt 64 x &&& BitVec.ofInt 64 y).toInt⟩
  | .naluOr d a b => some ⟨8, d, a, b, fun x y => some (BitVec.ofInt 64 x ||| BitVec.ofInt 64 y).toInt⟩
  | .naluShl d a b => some ⟨9, d, a, b, fun x y => if 0 ≤ y ∧ y ≤ 63 then some (x * 2 ^ y.toNat) else none⟩
  | .naluShr d a b => some ⟨10, d, a, b, fun x y => if 0 ≤ y ∧ y ≤ 63 then some (Int.fdiv x (2 ^ y.toNat)) else none⟩
  | _ => none

/-! ## The V slot -/

/-- t is s with one more vector result in flight to d at a latency: of lane l, sub-element j of width w is written exactly where `on` says, with `x`'s value; a lane whose
poison `ps` gives takes it (R72, R139, R140). -/
def VecWrites (s t : State) (d : BitVec 6) (lat w : Nat) (on : Nat → Nat → Bool) (x : Nat → Nat → Nat) (ps : Nat → Option Bool) : Prop :=
  ∃ (v m : Lanes) (p : BitVec 64), t = withFlight s lat (.v d v m p) ∧ ∀ l : Fin 64,
    (∀ j, j < 32 / w → (on l.val j = false → subOf (m[l]).toNat j w = 0) ∧
      (on l.val j = true → subOf (m[l]).toNat j w = 2 ^ w - 1 ∧ subOf (v[l]).toNat j w = x l.val j % 2 ^ w)) ∧
    (∀ b, ps l.val = some b → p.getLsbD l.val = b)

/-- The sub-elements that PART and the mask of a form let take part (R72, R139). -/
def takesPart (k : Core) (msk : BitVec 3) (part : BitVec 4) (l j : Nat) : Bool :=
  (k.getM msk).getLsbD l && (part == 0 || j + 1 == part.toNat)

/-- Sub-element j of lane l of a vector register, of width w. -/
def subV (k : Core) (r : BitVec 6) (w l j : Nat) : Nat := subOf (laneOf (k.vec r) l) j w

/-- What an element-wise form of n vector sources leaves (R72, R140): op on the elements' contents, B swizzled where SWZ says, poison where a source lane has it. -/
def Elementwise (s t : State) (c : Fin 320) (f : VA) (lat n : Nat) (op : Nat → Nat → Nat → Nat) : Prop :=
  let k := s.core c
  let w := tyW f.ty
  VecWrites s t f.d lat w (takesPart k f.msk f.part)
    (fun l j => op (subV k f.a w l j) (if n < 2 then 0 else subV k f.b w l (if f.swz then 32 / w - 1 - j else j)) (if n < 3 then 0 else subV k f.c w l j))
    (fun l => if (k.getM f.msk).getLsbD l then some (k.vpsn f.a l || (decide (2 ≤ n) && k.vpsn f.b l) || (decide (3 ≤ n) && k.vpsn f.c l)) else none)

/-- A w-bit field read as a signed number. -/
def sgn (w x : Nat) : Int := (BitVec.ofNat w x).toInt

/-- A number modulo 2^w, or clamped to the signed range of w bits. -/
def fit (w : Nat) (sat : Bool) (x : Int) : Nat :=
  if sat then (BitVec.ofInt w (max (-(2 ^ (w - 1) : Int)) (min (2 ^ (w - 1) - 1 : Int) x))).toNat else (BitVec.ofInt w x).toNat

/-- The integer meaning of the element-wise forms (R145, R146) and the bitwise ones (R148): fields, latency, sources, operation on contents of width w. -/
def vecSays : Instr → Option (Guard × VA × Nat × Nat × (Nat → Nat → Nat → Nat → Nat))
  | .vadd g f => some (g, f, 2, 2, fun w a b _ => fit w (f.fn == 1) (sgn w a + sgn w b))
  | .vsub g f => some (g, f, 2, 2, fun w a b _ => fit w (f.fn == 1) (sgn w a - sgn w b))
  | .vmul g f => some (g, f, 4, 2, fun w a b _ => fit w false (sgn w a * sgn w b))
  | .vfma g f => some (g, f, 4, 3, fun w a b c => fit w false (sgn w a * sgn w b + sgn w c))
  | .vfms g f => some (g, f, 4, 3, fun w a b c => fit w false (sgn w a * sgn w b - sgn w c))
  | .vfnma g f => some (g, f, 4, 3, fun w a b c => fit w false (sgn w c - sgn w a * sgn w b))
  | .vmin g f => some (g, f, 2, 2, fun w a b _ => if f.fn = 1 then min a b else fit w false (min (sgn w a) (sgn w b)))
  | .vmax g f => some (g, f, 2, 2, fun w a b _ => if f.fn = 1 then max a b else fit w false (max (sgn w a) (sgn w b)))
  | .vabs g f => some (g, f, 2, 1, fun w a _ _ => fit w (f.fn == 1) (sgn w a).natAbs)
  | .vneg g f => some (g, f, 2, 1, fun w a _ _ => fit w (f.fn == 1) (-sgn w a))
  | .vand g f => some (g, f, 2, 2, fun _ a b _ => Nat.land a b)
  | .vor g f => some (g, f, 2, 2, fun _ a b _ => Nat.lor a b)
  | .vxor g f => some (g, f, 2, 2, fun _ a b _ => Nat.xor a b)
  | .vshl g f => some (g, f, 2, 2, fun w a b _ => a * 2 ^ (b % w) % 2 ^ w)
  | .vshr g f => some (g, f, 2, 2, fun w a b _ => a / 2 ^ (b % w))
  | .vsra g f => some (g, f, 2, 2, fun w a b _ => fit w false (sgn w a / 2 ^ (b % w)))
  | _ => none

/-- The floating meaning of the element-wise forms (R145 to R147): the exact operation, rounded once to the type. -/
def vecFloatSays : Instr → Option (Guard × VA × Nat × Nat × (Val → Val → Val → Val))
  | .vadd g f => some (g, f, 2, 2, fun a b _ => a.add b)
  | .vsub g f => some (g, f, 2, 2, fun a b _ => a.sub b)
  | .vmul g f => some (g, f, 4, 2, fun a b _ => a.mul b)
  | .vfma g f => some (g, f, 4, 3, fun a b c => (a.mul b).add c)
  | .vfms g f => some (g, f, 4, 3, fun a b c => (a.mul b).sub c)
  | .vfnma g f => some (g, f, 4, 3, fun a b c => c.sub (a.mul b))
  | .vmin g f => some (g, f, 2, 2, fun a b _ => a.min b)
  | .vmax g f => some (g, f, 2, 2, fun a b _ => a.max b)
  | .vabs g f => some (g, f, 2, 1, fun a _ _ => a.abs)
  | .vneg g f => some (g, f, 2, 1, fun a _ _ => a.neg)
  | .vdiv g f => some (g, f, 8, 2, fun a b _ => a.div b)
  | .vsqrt g f => some (g, f, 8, 1, fun a _ _ => a.sqrt)
  | .vrsq g f => some (g, f, 8, 1, fun a _ _ => a.rsqrt)
  | .vexp2 g f => some (g, f, 8, 1, fun a _ _ => a.exp2)
  | .vlog2 g f => some (g, f, 8, 1, fun a _ _ => a.log2)
  | _ => none

/-- The format table entry in force on core c is sound, and names a quantised format where one is needed (R56, R141). -/
def EntryOk (s : State) (c : Fin 320) (q : Bool) : Prop := ftBad (s.core c).ftNow = none ∧ (q = true → ftQ (s.core c).ftNow ≠ 0)

/-- A form whose type is `.q` has a sound entry with a quantised format; any other type needs none. -/
def TypeOk (s : State) (c : Fin 320) (ty : BitVec 3) : Prop := ty = 7 → EntryOk s c true

/-- The entry that a form of type ty reads: that in force for `.q`, none else. -/
def entryFor (s : State) (c : Fin 320) (ty : BitVec 3) : Word := if ty = 7 then (s.core c).ftNow else 0

/-! ## Bundles of a core -/

/-- Core c has a task that may issue its next bundle: it stands still for nothing (R83, R108, R340, R384, R403, R407). -/
structure MayIssue (s : State) (c : Fin 320) : Prop where
  cur     : s.cur = .core c
  task    : ∃ t, (s.core c).task = some t ∧ t.parked = false ∧ t.frozen = false ∧ t.exiting = false ∧ t.stopping = none
  running : (s.core c).stopped = false
  held    : (s.core c).hs = none → (s.core c).held = []
  brk     : s.stopNow c = none
  whole   : (s.core c).ph.redo = []

/-- What the four slots of core c's bundle are issued in: results due have landed, and nothing has been reported yet (R81, R82). -/
def issuing (s : State) (c : Fin 320) : State :=
  let k := s.core c
  { s.landDue with iss :=
    { Issue.idle with bundle := true, rings0 := some k.rings, outs0 := some k.fr.outs, phase0 := some k.ph.num, seq0 := some k.issued } }

/-- A slot of a bundle holds NOP of that slot, or a well-formed instruction with an encoding there; its level is that of the bundle, or 0 without a qualifier (R64, R67). -/
def SlotHolds (nop : BitVec 2) (word : Nat) (l : BitVec 3) (i : Instr) : Prop :=
  i = .nop nop ∨ (word ≠ 0 ∧ i.wf = true ∧ i.lvl = if i.qual = 0 then 0 else l)

/-- A bundle that the encoding can hold: each slot its instruction, one level for every qualifier, 0 where there is none (R64 to R67). -/
def BundleOk (b : Bundle) (l : BitVec 3) : Prop :=
  SlotHolds 0 (encS b.s).toNat l b.s ∧ SlotHolds 1 (encV b.v).toNat l b.v ∧ SlotHolds 2 (encM b.m).toNat l b.m ∧ SlotHolds 3 (encX b.x).toNat l b.x ∧
  (l ≠ 0 → b.s.qual ≠ 0 ∨ b.v.qual ≠ 0 ∨ b.m.qual ≠ 0 ∨ b.x.qual ≠ 0)

/-- Every sparse store that software sees is in its one canonical form: device memory, the tables of the fabric and the platform, the cloak tables,
hub SRAM. -/
structure Canonical (s : State) : Prop where
  mem    : MemOk s
  queues : Regs.wf s.plat.queues = true
  slots  : Regs.wf s.plat.slots = true
  expo   : Regs.wf s.plat.expo = true
  routes : Regs.wf s.plat.routes = true
  spill  : Regs.wf s.plat.spill = true
  cloak  : ∀ d : Fin 4, spWf 0 (s.dies[d]).cloak = true
  hub    : Mem.wf s.plat.hub = true
  srams  : ∀ k : Fin 6, Mem.wf s.plat.srams[k] = true

end Sys2Proof.Safety
end

