-- ==== Sys2Proof/Certificates/Slice0/Obligations.lean ====
section
/-! DEFINITION. The statements about the machine that are to be proved: one definition each. OBLIGATIONS.json gives each its tier, its sentence and
the rules of the manual that it formalises. -/

section

open Sys2Proof Sys2Proof.Machine Sys2Proof.Safety

/-! ## Scalar forms -/

/-- R88, R91, R111, R81: each scalar form of the two tables puts the table's result in flight to its destination, at the form's latency, poisoned exactly when
a register it reads is; nothing else changes. R83: a scalar form of the tables of R88 and R91 that reads a register an outstanding load aims at stalls with
reason 1, and does nothing. -/
def Obligations.ScalarFormsPutTheirResultInFlight : Prop :=
  (∀ (i : Instr) (u : Alu) (s : State), aluSays i = some u → Issues u.g s → Clear s u.a → Clear s u.b → Clear s u.c →
     exec i s = .next (withFlight s u.lat (.s u.d (u.f (val s u.a) (val s u.b) (val s u.c)) (psn s u.a || psn s u.b || psn s u.c)))) ∧
  (∀ (i : Instr) (u : Alu) (s : State), aluSays i = some u → Issues u.g s → (s.waits u.a || s.waits u.b || s.waits u.c) = true →
     exec i s = .next (withStall s 1 0))

/-- R90, R111: a division form gives its quotient or remainder; a zero divisor raises DIV_ZERO, and the form does nothing; a poisoned operand gives a
poisoned result instead, whose value is free (log 2). -/
def Obligations.DivisionForms : Prop :=
  ∀ (i : Instr) (u : Alu) (s : State), divSays i = some u → Issues u.g s → Clear s u.a → Clear s u.b →
    (val s u.b ≠ 0 → exec i s = .next (withFlight s 12 (.s u.d (u.f (val s u.a) (val s u.b) 0) (psn s u.a || psn s u.b)))) ∧
    (val s u.b = 0 → psn s u.a = false → psn s u.b = false →
      ∃ t, exec i s = .next (withTrap s t) ∧ t.cause = .divZero ∧ t.slot = some 0) ∧
    (val s u.b = 0 → (psn s u.a || psn s u.b) = true →
      ∃ v, exec i s = .next (withFlight { s with free := s.free + 1 } 12 (.s u.d v true)))

/-- R92, R112: CMP and CMPI on clean operands put the condition's truth in flight to their predicate; a poisoned operand raises POISON and the form does
nothing. R93, R94, R112: PLOG takes entry 2 pA + pB of its table; SEL takes one arm with that arm's poison; CHK of a clean register has no effect and of a
poisoned one raises POISON. -/
def Obligations.PredicatesSelectsAndChecks : Prop :=
  ((∀ (g : Guard) (f : SA) (s : State), Issues g s → Clean s f.a → Clean s f.b → f.fn.toNat < 6 →
     exec (.cmp g f) s = .next (withFlight s 1 (.p (f.d.truncate 4) (condSays f.fn.toNat (val s f.a) (val s f.b))))) ∧
   (∀ (g : Guard) (f : SI) (s : State), Issues g s → Clean s f.a → f.fn.toNat < 6 →
     exec (.cmpi g f) s = .next (withFlight s 1 (.p (f.d.truncate 4) (condSays f.fn.toNat (val s f.a) (f.imm.signExtend 64))))) ∧
   (∀ (g : Guard) (f : SA) (s : State), Issues g s → Clear s f.a → psn s f.a = true →
     ∃ t, exec (.cmp g f) s = .next (withTrap s t) ∧ t.cause = .poison) ∧
   (∀ (g : Guard) (f : SA) (s : State), Issues g s → Clean s f.a → Clear s f.b → psn s f.b = true →
     ∃ t, exec (.cmp g f) s = .next (withTrap s t) ∧ t.cause = .poison) ∧
   (∀ (g : Guard) (f : SI) (s : State), Issues g s → Clear s f.a → psn s f.a = true →
     ∃ t, exec (.cmpi g f) s = .next (withTrap s t) ∧ t.cause = .poison)) ∧
  ((∀ (g : Guard) (f : SA) (s : State), Issues g s →
     exec (.plog g f) s = .next (withFlight s 1 (.p (f.d.truncate 4)
       (Nat.testBit f.fn.toNat ((if pval s (f.a.truncate 4) then 2 else 0) + (if pval s (f.b.truncate 4) then 1 else 0)))))) ∧
   (∀ (g : Guard) (f : SA) (s : State), Issues g s → Clear s f.a → Clear s f.b →
     exec (.sel g f) s = .next (withFlight s 1 (if pval s (f.c.truncate 4) then .s f.d (val s f.a) (psn s f.a) else .s f.d (val s f.b) (psn s f.b)))) ∧
   (∀ (g : Guard) (f : SC) (s : State), Issues g s → Clean s f.a → exec (.chk g f) s = .next s) ∧
   (∀ (g : Guard) (f : SC) (s : State), Issues g s → Clear s f.a → psn s f.a = true →
     exec (.chk g f) s = .next (withTrap s (poisonTrap 0 f.a))))

/-- R81, R16: a scalar result of latency n is read by the n-th bundle after its own and by none before; aimed at s0 it vanishes. -/
def Obligations.ResultsLandAtTheirLatency : Prop :=
  ∀ (s : State) (c : Fin 320) (n m : Nat) (r : BitVec 6) (v : Word) (p : Bool), s.cur = .core c → (s.core c).fr.fl = [] → 1 ≤ n →
    let t := landings m (withFlight s n (.s r v p))
    (m < n → val t r = val s r ∧ psn t r = psn s r) ∧
    (n ≤ m → r ≠ 0 → val t r = v ∧ psn t r = p) ∧
    (∀ q, q ≠ r → val t q = val s q ∧ psn t q = psn s q) ∧ val t 0 = 0 ∧ psn t 0 = false

/-- R66: a slot that its predicate or its qualifier disables does nothing, whatever the form. -/
def Obligations.DisabledSlotsDoNothing : Prop :=
  ∀ (i : Instr) (g : Guard) (s : State), i.guard? = some g → s.enabled g = false → exec i s = .next s

/-! ## Control -/

/-- R95, R96, R97: a transfer to a bundle of the image that opens no routine takes its target; CALL pushes the offset of the next bundle, RET takes the
last one pushed; any other target of BR, CALL, RET or an aligned JMP raises ILLEGAL_BUNDLE with TRAP.INFO[3]; a JMP target that is not a multiple of 32 raises
MISALIGN; a full or an empty return stack raises STACK. -/
def Obligations.TransfersTakeTheirTarget : Prop :=
  ∀ (g : Guard) (f : SC) (s : State) (img : Img), Issues g s → s.curImg = some img →
    let inside (t : Int) : Prop := 0 ≤ t ∧ img.isBundle t.toNat = true ∧ img.rs t.toNat = false
    let rel : Int := (s.front.pc : Int) + 32 * f.imm.toInt
    (inside rel → exec (.br g f) s = .next (withNext s rel.toNat)) ∧
    (¬ inside rel → exec (.br g f) s = .next (withTrap s (mkTrap .illegalBundle 8 0))) ∧
    (inside rel → s.front.ret.length < 8 →
      exec (.call g f) s = .next (withNext (s.setFront { s.front with ret := (s.front.pc + 32) :: s.front.ret }) rel.toNat)) ∧
    (¬ inside rel → s.front.ret.length < 8 → exec (.call g f) s = .next (withTrap s (mkTrap .illegalBundle 8 0))) ∧
    (8 ≤ s.front.ret.length → exec (.call g f) s = .next (withTrap s (mkTrap .stack 0 0))) ∧
    (∀ t l, s.front.ret = t :: l → inside (t : Int) → exec (.ret g f) s = .next (withNext (s.setFront { s.front with ret := l }) t)) ∧
    (∀ t l, s.front.ret = t :: l → ¬ inside (t : Int) → exec (.ret g f) s = .next (withTrap s (mkTrap .illegalBundle 8 0))) ∧
    (s.front.ret = [] → exec (.ret g f) s = .next (withTrap s (mkTrap .stack 0 0))) ∧
    (Clean s f.a →
      let t : Int := (val s f.a + 32 * f.imm.signExtend 64).toInt
      (t % 32 = 0 → inside t → exec (.jmp g f) s = .next (withNext s t.toNat)) ∧
      (t % 32 = 0 → ¬ inside t → exec (.jmp g f) s = .next (withTrap s (mkTrap .illegalBundle 8 0))) ∧
      (t % 32 ≠ 0 → ∃ x, exec (.jmp g f) s = .next (withTrap s x) ∧ x.cause = .misalign))

/-- R84, R95, R104: a BR that is taken makes its target the next bundle of the core; a running loop ends at once with lc0 .. lc5 at 0; memory and every
other unit stand. -/
def Obligations.TakenBranchEndsTheLoop : Prop :=
  ∀ (g : Guard) (f : SC) (s : State) (c : Fin 320) (img : Img), Alone g s → s.cur = .core c → (s.core c).hs = none → s.curImg = some img →
    0 ≤ (s.front.pc : Int) + 32 * f.imm.toInt → img.isBundle ((s.front.pc : Int) + 32 * f.imm.toInt).toNat = true →
    img.rs ((s.front.pc : Int) + 32 * f.imm.toInt).toNat = false → (s.core c).loops.run ≠ none →
    NextWith (exec (.br g f) s) (fun t =>
      ((t.core c).fr.pc : Int) = (s.front.pc : Int) + 32 * f.imm.toInt ∧ (t.core c).fr.s = (s.core c).fr.s ∧ (t.core c).loops.run = none ∧
      (∀ i : Fin 6, (t.core c).loops.lc[i] = 0) ∧ (∀ i : Fin 16, ((t.core c).rings[i]).lofs = 0) ∧ SameOutside c s t)

/-- R100, R101: LSET arms its level's trip count with the sum of source and immediate, or raises SHAPE naming the level when it is above 2^32 − 1; LSTR arms a
binding for its level and target, replaces the one armed, or raises STACK at the thirteenth; nothing else changes. R103: MARK with every armed trip count
above zero starts the loop at the bundle after it, with the counters of its levels 0 and the armed state consumed; with a trip count of zero the body never
issues, the bundle after the body is next and the counters stand. -/
def Obligations.LoopArmingAndMark : Prop :=
  (∀ (g : Guard) (f : SC) (s : State) (c : Fin 320), Issues g s → s.cur = .core c → (s.core c).hs = none →
     let k := s.core c
     let src : Word := if f.b = 0 then val s f.a else k.mbox[Fin.ofNat 8 (f.b.toNat - 1)]
     let bnd : Binding := if f.a = 0 then ⟨f.fn.toNat, true, f.imm.toNat % 16, val s f.b⟩ else ⟨f.fn.toNat, false, f.a.toNat, val s f.b + f.imm.signExtend 64⟩
     let same (x : Binding) : Bool := x.lvl == bnd.lvl && x.ring == bnd.ring && x.tgt == bnd.tgt
     (Clean s f.a → src.toNat + f.imm.toNat < 2 ^ 32 →
       exec (.lset g f) s = .next (withCore s c { k with loops := { k.loops with trips := k.loops.trips.set f.fn.toNat (src.toNat + f.imm.toNat) } })) ∧
     (Clean s f.a → 2 ^ 32 ≤ src.toNat + f.imm.toNat → exec (.lset g f) s = .next (withTrap s (mkTrap .shape (BitVec.ofNat 64 f.fn.toNat) 0))) ∧
     (Clean s f.b → k.loops.binds.any same = true →
       exec (.lstr g f) s = .next (withCore s c { k with loops := { k.loops with binds := k.loops.binds.map (fun x => if same x then bnd else x) } })) ∧
     (Clean s f.b → k.loops.binds.any same = false → k.loops.binds.length < 12 →
       exec (.lstr g f) s = .next (withCore s c { k with loops := { k.loops with binds := k.loops.binds ++ [bnd] } })) ∧
     (Clean s f.b → k.loops.binds.any same = false → 12 ≤ k.loops.binds.length → exec (.lstr g f) s = .next (withTrap s (mkTrap .stack 0 0)))) ∧
  (∀ (g : Guard) (f : SC) (s : State) (c : Fin 320) (img : Img), Alone g s → s.cur = .core c → (s.core c).hs = none → (s.core c).loops.run = none →
     s.curImg = some img → 1 ≤ f.fn.toNat → f.fn.toNat ≤ 6 → 1 ≤ f.imm.toNat → f.imm.toNat ≤ 64 →
     (∀ i, 1 ≤ i → i ≤ f.imm.toNat + 1 → img.isBundle ((s.core c).fr.pc + 32 * i) = true ∧ img.rs ((s.core c).fr.pc + 32 * i) = false) →
     let k := s.core c
     let trips := k.loops.trips.take f.fn.toNat
     NextWith (exec (.mark g f) s) (fun t =>
       (t.core c).loops.trips = [1, 1, 1, 1, 1, 1] ∧ (t.core c).loops.binds = [] ∧ (t.core c).fr.s = k.fr.s ∧ SameOutside c s t ∧
       (0 ∉ trips → (t.core c).fr.pc = k.fr.pc + 32 ∧ (∀ i : Fin 6, (t.core c).loops.lc[i] = if i.val < f.fn.toNat then 0 else k.loops.lc[i]) ∧
         ∃ n, (t.core c).loops.run = some n ∧ n.start = k.fr.pc + 32 ∧ n.n = f.imm.toNat ∧ n.m = f.fn.toNat ∧ n.trip = trips ∧
           n.binds.map (·.1) = k.loops.binds.filter (fun b => b.lvl < f.fn.toNat)) ∧
       (0 ∈ trips → (t.core c).fr.pc = k.fr.pc + 32 * (f.imm.toNat + 1) ∧ (t.core c).loops.run = none ∧ (t.core c).loops.lc = k.loops.lc)))

/-- R98: TRAP reports BREAK with its code in TRAP.INFO[31:0] and bit 63 set, BRK the same with bit 63 clear; the bundle's other effects do not happen. R99,
R374: HRET in handler mode with the stack depth of entry goes back to the trapping bundle with the task's bank of s56 .. s63, the other registers as the
handler left them and the saved results in flight; HRET.skip goes to the bundle after it, and nobody waits any more for what the trapping bundle asked for; outside handler mode both raise PRIV. The model's
choices: the dropped requests of a skipped bundle (log 128) and a skip past the last bundle of a routine (log 111). -/
def Obligations.TrapFormsAndReturn : Prop :=
  (∀ (g : Guard) (f : SC) (s : State), Issues g s →
     exec (.trap g f) s = .next (withTrap s (mkTrap .break_ (BitVec.ofNat 64 (2 ^ 63 + f.imm.toNat)) 0)) ∧
     exec (.brk g f) s = .next (withTrap s (mkTrap .break_ (BitVec.ofNat 64 f.imm.toNat) 0))) ∧
  (∀ (g : Guard) (f : SC) (s : State) (c : Fin 320), Alone g s → s.cur = .core c →
     (∀ h, (s.core c).hs = some h → (s.core c).fr.ret.length = h.depth → (s.core c).fr.fl = [] →
       NextWith (exec (.hret g f) s) (fun t =>
         (t.core c).hs = none ∧ (t.core c).fr.pc = h.pc ∧ (t.core c).fr.rtn = h.rtn ∧ (t.core c).fr.fl = h.fl ∧
         (∀ r : Fin 64, r.val < 56 → (t.core c).fr.s[r] = (s.core c).fr.s[r]) ∧
         (∀ i : Fin 8, (t.core c).fr.s[Fin.ofNat 64 (56 + i.val)] = h.bank[i]) ∧ (t.core c).fr.scyc = (s.core c).fr.scyc ∧ SameOutside c s t) ∧
       (h.fl = [] → (s.core c).loops.run = none → NextWith (exec (.hretSkip g f) s) (fun t =>
         (t.core c).hs = none ∧ (t.core c).fr.pc = h.pc + 32 ∧ (t.core c).fr.rtn = h.rtn ∧ (t.core c).fr.fl = [] ∧
         (∀ r : Fin 64, r.val < 56 → (t.core c).fr.s[r] = (s.core c).fr.s[r]) ∧
         (∀ i : Fin 8, (t.core c).fr.s[Fin.ofNat 64 (56 + i.val)] = h.bank[i]) ∧ (t.core c).fr.scyc = (s.core c).fr.scyc ∧ SameOutside c (s.orphan (fun r => r.unit == .core c && (r.kind == 0 || r.kind == 2))) t))) ∧
     ((s.core c).hs = none → exec (.hret g f) s = .next (s.raise (mkTrap .priv 0 0)) ∧ exec (.hretSkip g f) s = .next (s.raise (mkTrap .priv 0 0))))

/-- R109, R410: GAIT arms the interlock trace exactly when the drift of the core's A-clocks from its expectation exceeds GAIT.THR in size; in handler mode it
does nothing; the scalar state stands. R110: a CINCH whose count and CRC agree with the segment opens a new segment at the next bundle, as CINCH.Z does
without a check; one that does not agree reports the mismatch. -/
def Obligations.DriftAndSegmentChecks : Prop :=
  (∀ (g : Guard) (f : SC) (s : State) (c : Fin 320), Issues g s → s.cur = .core c →
     ((s.core c).hs ≠ none → exec (.gait g f) s = .next s) ∧
     ((s.core c).hs = none → NextWith (exec (.gait g f) s) (fun t =>
       (t.core c).dbg.trace = decide (((s.core c).sys.get 0x01A).toNat % 2 ^ 32 < ((s.core c).gclk - f.imm.zeroExtend 64).toInt.natAbs) ∧
       (t.core c).fr = (s.core c).fr ∧ (t.core c).gclk = (s.core c).gclk ∧ t.cur = s.cur))) ∧
  (∀ (f : SK) (g : Guard) (z : SC) (s : State) (c : Fin 320), s.cur = .core c → (s.core c).hs = none → (s.core c).loops.run = none →
     (Alone ⟨0, false, f.q, f.lvl⟩ s → (s.core c).cinchN % 2 ^ 20 = f.count.toNat → ~~~ (s.core c).cinchC = f.crc →
       NextWith (exec (.cinch f) s) (fun t => (t.core c).cinchN = 0 ∧ (t.core c).cinchC = 0xFFFFFFFF ∧ (t.core c).fr.pc = (s.core c).fr.pc + 32 ∧
         (t.core c).fr.s = (s.core c).fr.s ∧ SameOutside c s t)) ∧
     (Issues ⟨0, false, f.q, f.lvl⟩ s → ((s.core c).cinchN % 2 ^ 20 ≠ f.count.toNat ∨ ~~~ (s.core c).cinchC ≠ f.crc) →
       ∃ x, exec (.cinch f) s = .next (withTrap s x) ∧ x.cause = .cinchEscalated) ∧
     (Alone g s → NextWith (exec (.cinchZ g z) s) (fun t => (t.core c).cinchN = 0 ∧ (t.core c).cinchC = 0xFFFFFFFF ∧
       (t.core c).fr.pc = (s.core c).fr.pc + 32 ∧ (t.core c).fr.s = (s.core c).fr.s ∧ SameOutside c s t)))

/-! ## Commits and the end of a task -/

/-- R107: PHASE commits the core's phase: nothing buffered, enrolled or pending is left of it, the checkpoint stands at the next bundle with the scalar
registers and the rings, the next phase begins at its first attempt; the scalar registers stand and the bundle counts. -/
def Obligations.PhaseCommits : Prop :=
  ∀ (g : Guard) (f : SC) (s : State) (c : Fin 320) (v : State), Commits g s c ((s.core c).fr.pc + 32) v →
    exec (.phase g f) s = .next v ∧
    (v.core c).ph.sb = [] ∧ (v.core c).ph.upds = [] ∧ (v.core c).ph.enrol = [] ∧ (v.core c).ph.landed = [] ∧ (v.core c).ph.att = 0 ∧
    (v.core c).ph.irrev = false ∧ (v.core c).ph.ckpt.pc = (s.core c).fr.pc + 32 ∧ (v.core c).ph.ckpt.s = (s.core c).fr.s ∧
    (v.core c).ph.ckpt.rings = (v.core c).rings ∧ (v.core c).fr.pc = (s.core c).fr.pc + 32 ∧ (v.core c).fr.s = (s.core c).fr.s ∧
    (v.core c).fr.scyc = (s.core c).fr.scyc + 1

/-- R105, R106, R108: EXIT.E with every queue empty commits and ends the iteration, and with the chunk's last iteration the core is free; EXIT.S starts its
target on the same iteration with scalars afresh and rings in place; EXIT.N goes on with the next iteration; PREEMPT without a request has no effect, and with
one commits and stops the task with the named state live. R108: PREEMPT without a pending request has no effect beyond its issue. That the target of EXIT.S and EXIT.N
counts from the bundle, as BR's does, is the model's reading (log 49). -/
def Obligations.ExitAndPreemptForms : Prop :=
  (∀ (g : Guard) (f : SC) (s : State) (c : Fin 320) (v : State) (t : Task) (img : Img), Commits g s c (s.core c).fr.pc v → (v.core c).task = some t →
     s.curImg = some img →
     let target : Int := (s.front.pc : Int) + 32 * f.imm.toInt
     ((v.core c).quiet = true → exec (.exitE g f) s = .next (v.exitEnd c) ∧ (t.left = 0 → ((v.exitEnd c).core c).task = none)) ∧
     (0 ≤ target → img.isTask target.toNat = true →
       NextWith (exec (.exitS g f) s) (fun u => (u.core c).fr.pc = target.toNat ∧ (u.core c).fr.scyc = 0 ∧ (∀ r : Fin 64, (u.core c).fr.s[r] = 0) ∧
         (u.core c).k = (v.core c).k ∧ (u.core c).e = (v.core c).e ∧ (u.core c).arr = (v.core c).arr ∧ (u.core c).scr = (v.core c).scr ∧
         (u.core c).task = some t ∧ u.mem = v.mem) ∧
       (t.left ≠ 0 → (v.ctx t.osq).any (fun x => x.preReq.isSome) = false → exec (.exitN g f) s = .next (v.loadIter c t (t.ord + 1) (t.left - 1) target.toNat false)) ∧
       (t.left = 0 → (v.core c).quiet = true → exec (.exitN g f) s = .next (v.exitEnd c)))) ∧
  ((∀ (g : Guard) (f : SC) (s : State) (c : Fin 320), Issues g s → s.cur = .core c → (s.core c).hs = none →
     (s.ctx s.curSeq).any (fun x => x.preReq.isSome) = false → exec (.preempt g f) s = .next s) ∧
   (∀ (g : Guard) (f : SC) (s : State) (c : Fin 320) (v : State) (t : Task), Commits g s c ((s.core c).fr.pc + 32) v →
     (s.ctx s.curSeq).any (fun x => x.preReq.isSome) = true → (v.core c).task = some t →
     NextWith (exec (.preempt g f) s) (fun u => (u.core c).task = some { t with stopping := some (f.imm.truncate 16) } ∧ (u.core c).fr = (v.core c).fr ∧
       u.mem = v.mem)))

/-! ## Memory -/

/-- R36: a byte memory in canonical form reads what was written at the address, little-endian, and what it held elsewhere; equal contents are equal data. -/
def Obligations.MemoryLaws : Prop :=
  ∀ (m : Mem), Mem.wf m = true →
    (∀ a b a', Mem.get (Mem.set m a b) a' = if a' = a then b else Mem.get m a') ∧
    (∀ a x n, Mem.read (Mem.write m a x n) a n = x % 2 ^ (8 * n) ∧
      ∀ a', (a' < a ∨ a + n ≤ a') → Mem.get (Mem.write m a x n) a' = Mem.get m a') ∧
    (∀ m', Mem.wf m' = true → (∀ a, Mem.get m a = Mem.get m' a) → m = m')

/-- R332: each interleave scheme is a one-to-one map of the bytes of HBM. -/
def Obligations.PlacementIsOneToOne : Prop :=
  ∀ (ilv pa pa' : Nat), ilv < 8 → isHbm pa = true → isHbm pa' = true → hbmLoc ilv pa = hbmLoc ilv pa' → pa = pa'

/-- R114, R115, R83: LD and LD.S of n aligned bytes that pass their checks leave one outstanding load of the destination with the bytes of memory, or zeros of a
doorbell line (R433), extended as SX selects; memory and registers stand. LD.S that fails a check (R24: alignment, extent, right) poisons its destination, LD raises
the check's trap. R83, R81: the data of the first outstanding load to a register of a task arrives: the register holds it, with its poison, and no other
changes. The model's choices: the bytes are taken as the load issues (log 17), and data that arrives overwrites a later result (log 123). -/
def Obligations.LoadsTakeTheBytesOfMemory : Prop :=
  (∀ (g : Guard) (f : SM) (s : State) (c : Fin 320), Issues g s → s.cur = .core c → Clean s f.a →
     let va := (val s f.a + f.imm.signExtend 64).toNat
     let n := 2 ^ f.sz.toNat
     (∀ e pa, Reaches s c va n .read e pa → Plain s → NothingOwn s c (pa / 64) → RaceFree s c 0 (exIlv e) pa 0 → s.wsBusy pa = false →
       (∀ r, s.coreRead c 0 va n true = .ok r → s.spillOver r.2 = none) →
       ∀ i, i = Instr.ld g f ∨ i = Instr.ldS g f → NextWith (exec i s) (fun t =>
         (t.core c).fr.outs = (s.core c).fr.outs ++ [{ d := f.d, val := extLoad f.sx n (if s.isDoor pa then 0 else s.readPA (exIlv e) pa n), psn := false,
                                                        hnd := s.inHandler, at_ := (s.core c).fr.nb }] ∧
         (t.core c).fr.s = (s.core c).fr.s ∧ (t.core c).fr.fl = (s.core c).fr.fl ∧ t.mem = s.mem ∧ t.osqs = s.osqs)) ∧
     (∀ cause : Cause, (va % n ≠ 0 ∧ cause = .misalign) ∨ (va % n = 0 ∧ ∃ fl a, s.exCheck c va n .read = some (cause, fl, a)) →
       (∃ x, exec (.ld g f) s = .next (withTrap s x) ∧ x.cause = cause) ∧
       NextWith (exec (.ldS g f) s) (fun t => (t.core c).fr.outs = (s.core c).fr.outs ++
         [{ d := f.d, val := 0, psn := true, hnd := s.inHandler, at_ := (s.core c).fr.nb }] ∧ SameOutside c s t))) ∧
  (∀ (s : State) (c : Fin 320) (o : Outst) (l : List Outst), (s.core c).fr.outs = o :: l → (s.core c).hs = none →
     NextWith (exec (.loadReturn (.core c) 0) s) (fun t =>
       (t.core c).fr.outs = l ∧ (t.core c).fr.getS o.d = (if o.d = 0 then (0, false) else (o.val, o.psn)) ∧
       (∀ q, q ≠ o.d → (t.core c).fr.getS q = (s.core c).fr.getS q) ∧ t.mem = s.mem ∧ (∀ d, d ≠ c → t.core d = s.core d)))

/-- R117, R118: ST puts its bytes in the core's phase store buffer, at the line and place its address gives; memory and every register stand. -/
def Obligations.StoresEnterTheBuffer : Prop :=
  ∀ (g : Guard) (f : SM) (s : State) (c : Fin 320) (e : BitVec 128) (pa : Nat), Issues g s → s.cur = .core c → Clean s f.a → Clean s f.d →
    let n := 2 ^ f.sz.toNat
    Reaches s c (val s f.a + f.imm.signExtend 64).toNat n .write e pa → Unwatched s c → NothingOwn s c (pa / 64) → (s.core c).sbUsed < 256 →
    NextWith (exec (.st g f) s) (fun t =>
      (∃ x, (t.core c).ph.sb = (s.core c).ph.sb ++ [x] ∧ x.line = pa / 64 ∧ x.ilv = exIlv e ∧
        (∀ i < 64, x.mask.getLsbD i = decide (pa % 64 ≤ i ∧ i < pa % 64 + n)) ∧
        (∀ i < n, x.data.toNat / 2 ^ (8 * (pa % 64 + i)) % 256 = (val s f.d).toNat / 2 ^ (8 * i) % 256)) ∧
      (t.core c).fr = (s.core c).fr ∧ SameOutside c s t)

/-- R107 step 2, R118: the commit of a phase with one buffered line of ordinary memory puts the buffered bytes at the line's locations; every other byte
of memory is unchanged. -/
def Obligations.CommitStoresTheBufferedBytes : Prop :=
  ∀ (s : State) (c : Fin 320) (pc : Nat) (x : SbEnt) (v : State), MemOk s → (s.core c).ph.sb = [x] → (s.core c).ph.enrol = [] → Plain s → x.ilv < 8 →
    isHbm (x.line * 64) = true → s.isDoor (x.line * 64) = false → s.phaseCommit c pc = .ok (v, none) →
    ∀ k, Mem.get v.mem k = (match (List.range 64).find? (fun i => x.mask.getLsbD i && locKey x.ilv (x.line * 64 + i) == k) with
      | some i => BitVec.ofNat 8 (x.data.toNat / 2 ^ (8 * i))
      | none => Mem.get s.mem k)

/-- R119, R144: STSP writes n bytes of the scratchpad at its address and clears the marks of the words written, no other byte changes; LDSP puts the
bytes in flight, extended as SX selects, poisoned when a word of them is marked. -/
def Obligations.ScratchpadAccesses : Prop :=
  ∀ (g : Guard) (f : SM) (s : State) (c : Fin 320), Issues g s → s.cur = .core c → Clean s f.a →
    let va := (val s f.a + f.imm.signExtend 64).toNat
    let n := 2 ^ f.sz.toNat
    va % n = 0 → s.grantedRange c va n = true →
    (Mem.wf (s.core c).scr = true → Clean s f.d → NextWith (exec (.stsp g f) s) (fun t =>
      Mem.read (t.core c).scr va n = (val s f.d).toNat % 2 ^ (8 * n) ∧ (∀ a, (a < va ∨ va + n ≤ a) → Mem.get (t.core c).scr a = Mem.get (s.core c).scr a) ∧
      (∀ w, w ∈ (t.core c).marks ↔ w ∈ (s.core c).marks ∧ ¬ (va / 4 ≤ w ∧ w ≤ (va + n - 1) / 4)) ∧ (t.core c).fr = (s.core c).fr ∧ SameOutside c s t)) ∧
    exec (.ldsp g f) s = .next (withFlight s 4 (.s f.d (extLoad f.sx n (Mem.read (s.core c).scr va n))
      ((s.core c).marks.any (fun w => decide (va / 4 ≤ w ∧ w ≤ (va + n - 1) / 4)))))

/-- R125, R126, R127, R83: an atomic on a word of ordinary memory of which the core holds nothing leaves op(old, B) there, or for CAS the new value where
the old one is the expected one, and no other byte of memory changes; the old value is the destination's outstanding data; the phase is irrevocable. The
model's choices: the word is read and written as the atomic issues (log 17), and at a doorbell line it raises SIGNAL_ACCESS (log 134). -/
def Obligations.AtomicsAtTheHome : Prop :=
  ∀ (s : State) (c : Fin 320) (e : BitVec 128) (pa : Nat) (acc : Stamp), s.cur = .core c → Plain s → Unwatched s c → NothingOwn s c (pa / 64) →
    (∀ i g f op code, amoSays i = some (g, f, op) → amoCode i = some (g, f, code) → Issues g s → Clean s f.a → Clean s f.b →
      let n := 2 ^ f.sz.toNat
      Reaches s c (val s f.a).toNat n .atomic e pa → 1 ≤ f.scope.toNat → f.scope.toNat ≤ 5 → s.accOf c 3 (exIlv e) pa f.scope = some acc → s.rivals acc = [] →
      (s.isDoor pa = true → ∃ x, exec i s = .next (withTrap s x) ∧ x.cause = .signalAccess) ∧
      (s.isDoor pa = false → s.spillOver (s.atomAt c code e pa n (val s f.b).toNat 0 acc).2 = none → NextWith (exec i s) (fun t =>
        t.mem = (s.writePA (exIlv e) pa (op n (s.readPA (exIlv e) pa n) ((val s f.b).toNat % 2 ^ (8 * n))) n).mem ∧
        (t.core c).fr.outs = (s.core c).fr.outs ++ [{ d := f.d, val := BitVec.ofNat 64 (s.readPA (exIlv e) pa n), psn := false, hnd := s.inHandler,
                                                      at_ := (s.core c).fr.nb }] ∧
        (t.core c).ph.irrev = true ∧ (t.core c).fr.s = (s.core c).fr.s))) ∧
    (∀ g f, Issues g s → Clean s f.a → Clean s f.b → Clean s f.c →
      let n := 2 ^ f.sz.toNat
      Reaches s c (val s f.a).toNat n .atomic e pa → 1 ≤ f.scope.toNat → f.scope.toNat ≤ 5 → s.accOf c 3 (exIlv e) pa f.scope = some acc → s.rivals acc = [] →
      let old := s.readPA (exIlv e) pa n
      (s.isDoor pa = true → ∃ x, exec (.cas g f) s = .next (withTrap s x) ∧ x.cause = .signalAccess) ∧
      (s.isDoor pa = false → s.spillOver (s.atomAt c 15 e pa n (val s f.b).toNat (val s f.c).toNat acc).2 = none → NextWith (exec (.cas g f) s) (fun t =>
        t.mem = (s.writePA (exIlv e) pa (if old = (val s f.b).toNat % 2 ^ (8 * n) then (val s f.c).toNat % 2 ^ (8 * n) else old) n).mem ∧
        (t.core c).fr.outs = (s.core c).fr.outs ++ [{ d := f.d, val := BitVec.ofNat 64 old, psn := false, hnd := s.inHandler, at_ := (s.core c).fr.nb }] ∧
        (t.core c).ph.irrev = true ∧ (t.core c).fr.s = (s.core c).fr.s)))

/-- R129, R130: a commutative update of a word of which the core's phase holds no partial makes one with its value; where it holds one of the same size
and operation it is folded; memory and registers stand. At a doorbell line it raises SIGNAL_ACCESS (the model's choice, log 134). -/
def Obligations.UpdatesMakePartials : Prop :=
  ∀ (i : Instr) (g : Guard) (f : SY) (op : BitVec 4) (s : State) (c : Fin 320) (e : BitVec 128) (pa : Nat), cupdSays i = some (g, f, op) → Issues g s →
    s.cur = .core c → (s.core c).hs = none → Clean s f.a → Clean s f.b → Unwatched s c →
    let n := 2 ^ f.sz.toNat
    Reaches s c (val s f.a).toNat n .update e pa →
    (s.isDoor pa = true → ∃ x, exec i s = .next (withTrap s x) ∧ x.cause = .signalAccess) ∧
    (s.isDoor pa = false → NextWith (exec i s) (fun t => t.mem = s.mem ∧ (t.core c).fr = (s.core c).fr ∧
      ((∀ u ∈ (s.core c).ph.upds, u.word ≠ pa) →
        ∃ u ∈ (t.core c).ph.upds, u.word = pa ∧ u.n = n ∧ u.op = op ∧ u.val = (val s f.b).toNat % 2 ^ (8 * n)) ∧
      (∀ u, (s.core c).ph.upds = [u] → u.word = pa → u.n = n → u.op = op →
        ∃ u' ∈ (t.core c).ph.upds, u'.word = pa ∧ u'.n = n ∧ u'.val = foldUpd op n u.val ((val s f.b).toNat % 2 ^ (8 * n)))))

/-! ## Rings, fences, barriers, supersteps -/

/-- R20, R121, R122, R123: the ring forms on a handle that is enabled: ADVC and ADVP move their index and FILL and count the slots in a phased ring, or raise HANDLE and
do nothing when the slots are not there; WAITC and WAITP pass when FILL, or the room, suffices, stall when it does not, and raise HANDLE for more slots than the
ring has; HSET and HGET write and read the handle whole, and HSET of a ring that work in progress names, or of an enabled handle that is not well formed, raises HANDLE. -/
def Obligations.RingForms : Prop :=
  ∀ (g : Guard) (f : SM) (s : State) (c : Fin 320), Issues g s → s.cur = .core c → s.ringAt f.h = (s.core c).rings[f.h.toFin] → (s.core c).hs = none →
    let r := (s.core c).rings[f.h.toFin]
    let n := f.imm.toNat
    (hEn r.h = true →
      (n ≤ hFill r.h → NextWith (exec (.advc g f) s) (fun t =>
        ((t.core c).rings[f.h.toFin]).h = hAdvC r.h n ∧ ((t.core c).rings[f.h.toFin]).pendC = (if hPh r.h then r.pendC + n else r.pendC) ∧
        (∀ i : Fin 16, i ≠ f.h.toFin → (t.core c).rings[i] = (s.core c).rings[i]) ∧ (t.core c).fr = (s.core c).fr ∧ (t.core c).scr = (s.core c).scr ∧ SameOutside c s t)) ∧
      (hFill r.h < n → exec (.advc g f) s = .next (withTrap s (handleTrap 0 f.h))) ∧
      (hFill r.h + n ≤ hSlots r.h → NextWith (exec (.advp g f) s) (fun t =>
        ((t.core c).rings[f.h.toFin]).h = hAdvP r.h n ∧ ((t.core c).rings[f.h.toFin]).pendP = (if hPh r.h then r.pendP + n else r.pendP) ∧
        (∀ i : Fin 16, i ≠ f.h.toFin → (t.core c).rings[i] = (s.core c).rings[i]) ∧ (t.core c).fr = (s.core c).fr ∧ (t.core c).scr = (s.core c).scr ∧ SameOutside c s t)) ∧
      (hSlots r.h < hFill r.h + n → exec (.advp g f) s = .next (withTrap s (handleTrap 0 f.h))) ∧
      (n ≤ hSlots r.h → n ≤ hFill r.h → exec (.waitc g f) s = .next s) ∧
      (n ≤ hSlots r.h → hFill r.h < n → exec (.waitc g f) s = .next (withStall s 2 (f.h.zeroExtend 8))) ∧
      (hFill r.h + n ≤ hSlots r.h → exec (.waitp g f) s = .next s) ∧
      (n ≤ hSlots r.h → hSlots r.h < hFill r.h + n → exec (.waitp g f) s = .next (withStall s 3 (f.h.zeroExtend 8))) ∧
      (hSlots r.h < n → exec (.waitc g f) s = .next (withTrap s (handleTrap 0 f.h)) ∧ exec (.waitp g f) s = .next (withTrap s (handleTrap 0 f.h)))) ∧
    (hEn r.h = false → ∀ i, (i = Instr.advc g f ∨ i = Instr.advp g f ∨ i = Instr.waitc g f ∨ i = Instr.waitp g f) →
      exec i s = .next (withTrap s (handleTrap 0 f.h))) ∧
    exec (.hget g f) s = .next (withFlight s 1 (.s f.d r.h false)) ∧
    (Clean s f.a → (s.core c).ringBusy f.h = false → (hEn (val s f.a) = true → s.ringOk c (val s f.a) = true) → NextWith (exec (.hset g f) s) (fun t =>
      ((t.core c).rings[f.h.toFin]).h = val s f.a ∧ ((t.core c).rings[f.h.toFin]).pendC = 0 ∧ ((t.core c).rings[f.h.toFin]).pendP = 0 ∧
      (∀ i : Fin 16, i ≠ f.h.toFin → (t.core c).rings[i] = (s.core c).rings[i]) ∧ (t.core c).fr = (s.core c).fr ∧ SameOutside c s t)) ∧
    (Clean s f.a → ((s.core c).ringBusy f.h = true ∨ (hEn (val s f.a) = true ∧ s.ringOk c (val s f.a) = false)) →
      exec (.hset g f) s = .next (withTrap s (handleTrap 0 f.h)))

/-- R19, R20, R122: advancing the consume side of a well-formed handle by no more than FILL, or the produce side by no more than the room, leaves a handle
whose indices lie below its slot count, whose FILL is within it and whose PROD is CONS + FILL. -/
def Obligations.AdvancesKeepTheHandleSound : Prop :=
  ∀ (h : Word) (n : Nat), hProd h < hSlots h → hCons h < hSlots h → hFill h ≤ hSlots h → hProd h = (hCons h + hFill h) % hSlots h →
    let sound (x : Word) : Prop := hSlots x = hSlots h ∧ hSize x = hSize h ∧ hBase x = hBase h ∧ hEn x = hEn h ∧ hPh x = hPh h ∧ hFmt x = hFmt h ∧
      hProd x < hSlots x ∧ hCons x < hSlots x ∧ hFill x ≤ hSlots x ∧ hProd x = (hCons x + hFill x) % hSlots x
    (n ≤ hFill h → sound (hAdvC h n) ∧ hFill (hAdvC h n) = hFill h - n ∧ hProd (hAdvC h n) = hProd h) ∧
    (hFill h + n ≤ hSlots h → sound (hAdvP h n) ∧ hFill (hAdvP h n) = hFill h + n ∧ hCons (hAdvP h n) = hCons h)

/-- R133, R134, R135: FENCE with nothing outstanding completes; BARCFG makes the barrier count to its number; BARARR arrives at it, the last arrival opening its
next generation, or raises HANDLE where none is configured; BARWAIT passes once the generation arrived at is over and stalls before. -/
def Obligations.FencesAndBarriers : Prop :=
  ∀ (g : Guard) (f : SY) (s : State) (c : Fin 320), Issues g s → s.cur = .core c → (s.core c).hs = none →
    let b := f.c.toNat % 32
    let own := if f.scope = 4 then 40 + s.curSeq.val else c.val / 8
    ((s.core c).fr.outs = [] → s.plat.reqs = [] → exec (.fence g f) s = .next s) ∧
    (4 ≤ b →
      (NextWith (exec (.barcfg g f) s) (fun t => (∃ x ∈ t.barrs, x.slot = b ∧ x.own = own ∧ x.pkg = (f.scope == 4) ∧ x.conf = f.sys.toNat) ∧
        t.mem = s.mem ∧ t.cores = s.cores)) ∧
      (s.barrOf c b = none → ∃ x, exec (.bararr g f) s = .next (withTrap s x) ∧ x.cause = .handle) ∧
      (∀ x, s.barrs = [x] → s.barrOf c b = some x → 1 ≤ x.conf → NextWith (exec (.bararr g f) s) (fun t =>
        (∃ y, t.barrs = [y] ∧ y.slot = x.slot ∧ y.own = x.own ∧
          (x.arr = 0 → x.conf = 1 → y.arr = 0 ∧ y.gen = x.gen + 1) ∧ (x.arr = 0 → 1 < x.conf → y.arr = 1 ∧ y.gen = x.gen ∧ y.n = x.conf) ∧
          (0 < x.arr → x.n ≤ x.arr + 1 → y.arr = 0 ∧ y.gen = x.gen + 1) ∧ (0 < x.arr → x.arr + 1 < x.n → y.arr = x.arr + 1 ∧ y.gen = x.gen)) ∧
        (t.core c).gens.find? (fun e => e.1 == b) = some (b, x.own, x.gen) ∧ (t.core c).fr = (s.core c).fr ∧ t.mem = s.mem)) ∧
      (∀ x o n, (s.core c).gens.find? (fun e => e.1 == b) = some (b, o, n) → s.barrs.find? (fun x => x.slot == b && x.own == o) = some x →
        (n < x.gen → exec (.barwait g f) s = .next s) ∧ (x.gen ≤ n → exec (.barwait g f) s = .next (withStall s 10 (BitVec.ofNat 8 b)))))

/-- R137: SSTEP whose task has not arrived commits its phase, with the checkpoint at the SSTEP, and arrives; while the core is not ready to commit it stalls. SSTEP
whose task has arrived in a superstep that is over ends its wait: the next bundle is next, the checkpoint stands there, the task has arrived
nowhere. The first to find that every core of the invocation has arrived and every write of it is in place ends the superstep: the number advances; until then
it stalls. -/
def Obligations.SstepCompletes : Prop :=
  (∀ (g : Guard) (f : SY) (s : State) (c : Fin 320) (t : Task) (i : Inv), Alone g s → s.cur = .core c → (s.core c).hs = none →
    (s.core c).task = some t → s.taskInv c = some i → t.arrived = none →
    ((s.core c).phaseReady = false → exec (.sstep g f) s = .next s) ∧
    (∀ v, (s.core c).phaseReady = true → s.phaseCommit c (s.core c).fr.pc = .ok (v, none) → s.spillOver v = none → (v.core c).revoked = false →
      NextWith (exec (.sstep g f) s) (fun u => (u.core c).task = (v.core c).task.map (fun t => { t with arrived := some i.sstep }) ∧
        (u.core c).ph = (v.core c).ph ∧ (u.core c).fr = (v.core c).fr ∧ (u.core c).ph.sb = [] ∧ (u.core c).ph.upds = [] ∧ (u.core c).ph.enrol = [] ∧
        (u.core c).ph.ckpt.pc = (s.core c).fr.pc ∧ (u.core c).ph.ckpt.s = (s.core c).fr.s ∧ (u.core c).fr.pc = (s.core c).fr.pc ∧ u.mem = v.mem))) ∧
  (∀ (g : Guard) (f : SY) (s : State) (c : Fin 320) (t : Task) (i : Inv) (n : Nat), Alone g s → s.cur = .core c → (s.core c).hs = none → (s.core c).loops.run = none →
    (s.core c).task = some t → s.taskInv c = some i → t.arrived = some n →
    (i.sstep ≤ n → s.stepOver t.osq t.inv n = false → exec (.sstep g f) s = .next s) ∧
    (n < i.sstep → NextWith (exec (.sstep g f) s) (fun u => (u.core c).task = some { t with arrived := none } ∧ (u.core c).fr.pc = (s.core c).fr.pc + 32 ∧
      (u.core c).ph.ckpt.pc = (s.core c).fr.pc + 32 ∧ (u.core c).fr.s = (s.core c).fr.s ∧ SameOutside c s u)) ∧
    (i.sstep ≤ n → s.stepOver t.osq t.inv n = true → s.parts = [] → NextWith (exec (.sstep g f) s) (fun u =>
      (u.core c).task = some { t with arrived := none } ∧ (u.core c).fr.pc = (s.core c).fr.pc + 32 ∧ (u.core c).ph.ckpt.pc = (s.core c).fr.pc + 32 ∧
      (u.core c).fr.s = (s.core c).fr.s ∧ u.mem = s.mem ∧ ∃ j, u.taskInv c = some j ∧ j.sstep = i.sstep + 1)))

/-! ## System registers -/

/-- R28, R138, R370, R35: SRD of a listed register that its view may read puts the register in flight, never poisoned; of an unlisted number it raises
ILLEGAL_BUNDLE; SWR that its view and the value allow writes the register after the bundle, of an unlisted number it raises ILLEGAL_BUNDLE, and of a register
the view may not write PRIV. R30, R33, R34: what a SWR of a user-writable register leaves: HEM.TOL the absolute value of an FP32 number, GAIT.THR bits [31:0],
FMT.LVL and FMT.BASE bits [3:0]. -/
def Obligations.SystemRegisterForms : Prop :=
  (∀ (g : Guard) (f : SY) (s : State) (c : Fin 320), s.cur = .core c →
     (∀ v, Issues g s → s.readSys c f.sys.toNat = some v → (sysHidden f.sys.toNat = false ∨ s.sysView = true) →
       exec (.srd g f) s = .next (withFlight s 1 (.s f.d v false))) ∧
     (Issues g s → s.readSys c f.sys.toNat = none → sysHidden f.sys.toNat = false → exec (.srd g f) s = .next (withTrap s (mkTrap .illegalBundle 0 0))) ∧
     (Issues g s → Clean s f.a → s.readSys c f.sys.toNat = none → exec (.swr g f) s = .next (withTrap s (mkTrap .illegalBundle 0 0))) ∧
     (Issues g s → Clean s f.a → s.readSys c f.sys.toNat ≠ none → sysWritable f.sys.toNat s.sysView = false →
       ∃ x, exec (.swr g f) s = .next (withTrap s x) ∧ x.cause = .priv) ∧
     (Alone g s → Clean s f.a → (s.core c).hs = none → (s.core c).loops.run = none → s.sysView = true → (f.sys.toNat = 0x077 ∨ (0x080 ≤ f.sys.toNat ∧ f.sys.toNat ≤ 0x08F)) →
       NextWith (exec (.swr g f) s) (fun t => t.readSys c f.sys.toNat = some (val s f.a) ∧ (t.core c).fr.pc = (s.core c).fr.pc + 32 ∧
         (t.core c).fr.s = (s.core c).fr.s ∧ SameOutside c s t))) ∧
  (∀ (k : Core) (v : Word) (sysv : Bool), Regs.wf k.sys = true →
     ((k.writeSys 0x01A v sysv).sys.get 0x01A).toNat = v.toNat % 2 ^ 32 ∧ ((k.writeSys 0x01B v sysv).sys.get 0x01B).toNat = v.toNat % 16 ∧
     ((k.writeSys 0x01C v sysv).sys.get 0x01C).toNat = v.toNat % 16 ∧
     (v.toNat % 2 ^ 31 ≤ 0x7F800000 → ((k.writeSys 0x018 v sysv).sys.get 0x018).toNat = v.toNat % 2 ^ 31) ∧
     (0x7F800000 < v.toNat % 2 ^ 31 → (k.writeSys 0x018 v sysv).sys.get 0x018 = 0))

/-! ## Expansion routines -/

/-- R296, R116, R138: on a sequencer, LD and LD.S of a word that its access gives leave it outstanding; ST ends with the access; an atomic leaves its old value outstanding;
SRD puts a listed register in flight; SWR of an open mailbox writes it. -/
def Obligations.RoutineMemoryAndRegisters : Prop :=
  ∀ (g : Guard) (s : State) (q : Fin 16) (x : Ctx) (e : Exp) (i : Inv), OnRoutine s q x e i →
    (∀ (f : SM) (v : Nat) (u : State), Issues g s → Clean s f.a →
      let va := (val s f.a + f.imm.signExtend 64).toNat
      let n := 2 ^ f.sz.toNat
      s.seqRead q x (some (i.uid, s.declRoots x i va n)) (s.declFree x i va n) va n = .val v u →
      exec (.ld g f) s = .next (u.await f.d (extLoad f.sx (2 ^ f.sz.toNat) v) false) ∧
      exec (.ldS g f) s = .next (u.await f.d (extLoad f.sx (2 ^ f.sz.toNat) v) false)) ∧
    (∀ (f : SM) (v : Nat) (u : State), Issues g s → Clean s f.a → Clean s f.d →
      let va := (val s f.a + f.imm.signExtend 64).toNat
      (i.opened = true → va < i.area + 4096 ∨ i.area + 8192 ≤ va) → (va < i.area ∨ i.area + 1024 ≤ va) →
      s.seqWrite q x (i.inArea va (2 ^ f.sz.toNat)) va (2 ^ f.sz.toNat) (val s f.d).toNat = .val v u → exec (.st g f) s = .next u) ∧
    (∀ (j : Instr) (f : SY) (code : BitVec 4) (v : Nat) (u : State), Issues g s → amoCode j = some (g, f, code) → Clean s f.a → Clean s f.b →
      s.seqAtom q x f.scope code (val s f.a).toNat (2 ^ f.sz.toNat) (val s f.b).toNat 0 = .val v u →
      exec j s = .next (u.await f.d (BitVec.ofNat 64 v) false)) ∧
    (∀ (f : SY) (v : Nat) (u : State), Issues g s → Clean s f.a → Clean s f.b → Clean s f.c →
      s.seqAtom q x f.scope 15 (val s f.a).toNat (2 ^ f.sz.toNat) (val s f.b).toNat (val s f.c).toNat = .val v u →
      exec (.cas g f) s = .next (u.await f.d (BitVec.ofNat 64 v) false)) ∧
    (∀ (f : SY) (v : Word), Issues g s → s.readSeq q x i f.sys.toNat = some v → exec (.srd g f) s = .next (withFlight s 1 (.s f.d v false))) ∧
    (∀ (f : SY), Alone g s → Clean s f.a → 0x130 ≤ f.sys.toNat → f.sys.toNat ≤ 0x137 → i.sealed = false →
      NextWith (exec (.swr g f) s) (fun t => ∃ x' i', t.ctx q = some x' ∧ x'.inv e.uid = some i' ∧ i'.mbox[Fin.ofNat 8 (f.sys.toNat - 0x130)] = val s f.a ∧
        (∀ j : Fin 8, j.val ≠ f.sys.toNat - 0x130 → i'.mbox[j] = i.mbox[j]) ∧ t.mem = s.mem ∧ t.cores = s.cores))

/-- R219, R220, R301: RGALLOC that finds room grants its region to the invocation and gives the region's first byte; RGFREE of a granted region with no task
running frees it; of a region not granted it raises REGION_ALLOC; that a poisoned request is granted and passes its poison on is the model's reading (log 45). R221, R222: SBWAIT of an operand with nothing unpublished has no effect; SBPUB of an output
with no task running publishes it; TREC appends a trace record with the tick, the invocation and its argument, and no register changes. -/
def Obligations.RegionAndScoreboardForms : Prop :=
  (∀ (g : Guard) (f : SA) (s : State) (q : Fin 16) (x : Ctx) (e : Exp) (i : Inv), OnRoutine s q x e i → Issues g s →
     let r := f.fn.toNat % 16
     (∀ gr, Clear s f.a → s.roomFor x i r (val s f.a).toNat = .found gr →
       exec (.rgalloc g f) s = .next (withFlight (s.grantRegion q x i.uid r gr (val s f.a).toNat) 1 (.s f.d (BitVec.ofNat 64 (gr * 4096)) (psn s f.a)))) ∧
     (i.regions[Fin.ofNat 16 r] ≠ none → x.live i.uid = false →
       exec (.rgfree g f) s = .next (withInvOf s q x i.uid (fun j => { j with regions := j.regions.set (Fin.ofNat 16 r) none }))) ∧
     (i.regions[Fin.ofNat 16 r] = none → ∃ t, exec (.rgfree g f) s = .next (withTrap s t) ∧ t.cause = .regionAlloc)) ∧
  (∀ (g : Guard) (f : SA) (s : State) (q : Fin 16) (x : Ctx) (e : Exp) (i : Inv), OnRoutine s q x e i → Issues g s →
     (∀ o, i.opnds.find? (fun o => o.hnd == f.fn) = some o → x.unpublished i.uid o.root = false → exec (.sbwait g f) s = .next s) ∧
     (∀ o, i.opnds.find? (fun o => o.hnd == f.fn) = some o → x.unpublished i.uid o.root = true → exec (.sbwait g f) s = .next (withStall s 0 0)) ∧
     (∀ o, i.opnds.find? (fun o => o.hnd == f.fn && o.role != 0) = some o → x.live i.uid = false →
       exec (.sbpub g f) s = .next ((withInvOf s q x i.uid (fun j => { j with opnds := j.opnds.map (fun p => if p.root == o.root && p.role != 0 then { p with pub := true } else p) })).armRecs q)) ∧
     (Clear s f.a → exec (.trec g f) s = .next (s.ctxTrace q
       (leBytes 8 s.tb.toNat ++ leBytes 8 i.opVpc.toNat ++ leBytes 8 (f.fn.toNat + 256 * i.num.toNat) ++ leBytes 8 (val s f.a).toNat))))

/-- R219, R301: the room that a request for n granules finds is a run of n granules below 192 none of which is taken on a core of the team, and no run of n free
granules starts lower. -/
def Obligations.RegionsAreTheLowestFreeRun : Prop :=
  ∀ (s : State) (x : Ctx) (i : Inv) (r n gr : Nat), s.roomFor x i r n = .found gr →
    1 ≤ n ∧ gr + n ≤ 192 ∧ (∀ j, gr ≤ j → j < gr + n → inRuns (s.takenGranules x.team) j = false) ∧
    (∀ lo, lo < gr → ∃ j, lo ≤ j ∧ j < lo + n ∧ inRuns (s.takenGranules x.team) j = true) ∧
    sumRuns (x.invs.flatMap Inv.granules) + n ≤ x.quota.toNat

/-- R214, R223: HLAT_ARM arms an entry for a number of contributions; of a latched entry HLAT_CNT and HLAT_PRE give a bin's count and prefix, HLAT_OUT the count outside the bins,
HLAT_TOT the saturated sum of the counts; of an idle entry they raise HANDLE, and of an armed one they stall. That a poisoned bin number poisons the result of
HLAT_CNT and HLAT_PRE is the model's reading (log 45). -/
def Obligations.LatchForms : Prop :=
  ∀ (g : Guard) (f : SA) (s : State) (q : Fin 16) (x : Ctx) (e : Exp) (i : Inv), OnRoutine s q x e i → Issues g s →
    let l := x.latch[Fin.ofNat 16 f.fn.toNat]
    (Clear s f.a → 1 ≤ (val s f.a).toNat → (val s f.a).toNat ≤ 320 → l.st ≠ 1 → NextWith (exec (.hlatArm g f) s) (fun t => ∃ x', t.ctx q = some x' ∧
      (x'.latch[Fin.ofNat 16 f.fn.toNat]).st = 1 ∧ (x'.latch[Fin.ofNat 16 f.fn.toNat]).n = (val s f.a).toNat ∧ (x'.latch[Fin.ofNat 16 f.fn.toNat]).got = 0 ∧
      (∀ j : Fin 16, j ≠ Fin.ofNat 16 f.fn.toNat → x'.latch[j] = x.latch[j]) ∧ x'.invs = x.invs ∧ t.cores = s.cores ∧ t.mem = s.mem)) ∧
    (l.st ≠ 0 → l.st ≠ 1 →
      (Clear s f.b → (val s f.b).toNat ≤ 255 →
        exec (.hlatCnt g f) s = .next (withFlight s 1 (.s f.d ((l.cnt[Fin.ofNat 256 (val s f.b).toNat]).zeroExtend 64) (psn s f.b))) ∧
        exec (.hlatPre g f) s = .next (withFlight s 1 (.s f.d ((l.pre[Fin.ofNat 256 (val s f.b).toNat]).zeroExtend 64) (psn s f.b)))) ∧
      exec (.hlatOut g f) s = .next (withFlight s 1 (.s f.d (l.out.zeroExtend 64) false)) ∧
      exec (.hlatTot g f) s = .next (withFlight s 1 (.s f.d (BitVec.ofNat 64 (min (2 ^ 32 - 1) ((l.cnt.toList.map (·.toNat)).sum))) false))) ∧
    (∀ j, (j = Instr.hlatOut g f ∨ j = Instr.hlatTot g f ∨ ((j = Instr.hlatCnt g f ∨ j = Instr.hlatPre g f) ∧ Clear s f.b ∧ (val s f.b).toNat ≤ 255)) →
      (l.st = 0 → ∃ t, exec j s = .next (withTrap s t) ∧ t.cause = .handle) ∧
      (l.st = 1 → exec j s = .next (withStall s 0 0)))

/-- R218, R304: WLNR of a record that its checks pass queues it with its constants and gives the number of the record in the invocation; an address that is no multiple of
128 raises MISALIGN, and a record that fails a check RECORD with the failing field's byte. -/
def Obligations.RecordsAreQueued : Prop :=
  ∀ (g : Guard) (f : SA) (s s1 s2 : State) (q : Fin 16) (x : Ctx) (e : Exp) (i : Inv) (r c : Mem), OnRoutine s q x e i → Issues g s → Clean s f.a →
    ((val s f.a).toNat % 128 ≠ 0 → ∃ t, exec (.wlnr g f) s = .next (withTrap s t) ∧ t.cause = .misalign) ∧
    ((val s f.a).toNat % 128 = 0 → x.recs.length < 32 → (∀ k, seqBlock s (val s f.a).toNat k = k r s1) →
      (∀ o, recordBad s1 x i r = some o → ∃ t, exec (.wlnr g f) s = .next (withTrap s t) ∧ t.cause = .record ∧ t.info = BitVec.ofNat 64 o) ∧
      (recordBad s1 x i r = none → (∀ k, seqBlock s1 (LRec.arg r) k = k c s2) → constsOk s2.sysView c = true →
        exec (.wlnr g f) s = .next (withFlight (s2.submit q i.uid r c) 1 (.s f.d (BitVec.ofNat 64 i.nrec) false))))

/-- R224: OPEND_DONE ends the routine and seals the invocation; OPEND_CANCEL before any WLNR ends it as cancelled, after one it raises RECORD; OPEND_REPEAT with no task running
starts the routine again in the next superstep, with SCYC 0. -/
def Obligations.RoutineEnds : Prop :=
  ∀ (g : Guard) (f : SA) (s : State) (q : Fin 16) (x : Ctx) (e : Exp) (i : Inv), OnRoutine s q x e i → Alone g s →
    NextWith (exec (.opendDone g f) s) (fun t => ∃ x' i', t.ctx q = some x' ∧ x'.exp = none ∧ x'.inv i.uid = some i' ∧ i'.ended = true ∧ i'.sealed = true ∧
      i'.cancel = false ∧ t.mem = s.mem ∧ t.cores = s.cores) ∧
    (i.nrec = 0 → NextWith (exec (.opendCancel g f) s) (fun t => ∃ x' i', t.ctx q = some x' ∧ x'.exp = none ∧ x'.inv i.uid = some i' ∧ i'.ended = true ∧
      i'.cancel = true ∧ t.mem = s.mem ∧ t.cores = s.cores)) ∧
    (i.nrec ≠ 0 → ∃ t, exec (.opendCancel g f) s = .next (s.raise t) ∧ t.cause = .record) ∧
    (x.live i.uid = false → s.stepOver q i.uid i.sstep = true → NextWith (exec (.opendRepeat g f) s) (fun t => ∃ x' e' i', t.ctx q = some x' ∧ x'.exp = some e' ∧ e'.fr.pc = e.code ∧ e'.fr.scyc = 0 ∧
      x'.inv i.uid = some i' ∧ i'.sstep = i.sstep + 1 ∧ i'.reps = i.reps + 1 ∧ i'.opened = false))

/-! ## The V slot -/

/-- R145, R146, R148, R405, R72, R140: an element-wise form on an integer type, and a bitwise form on any type, puts its elements in flight at its latency.
R145, R146, R147, R51, R62: an element-wise form on a floating type computes exactly and rounds once to nearest even. -/
def Obligations.VectorElementForms : Prop :=
  (∀ (i : Instr) (g : Guard) (f : VA) (lat n : Nat) (op : Nat → Nat → Nat → Nat → Nat) (s : State) (c : Fin 320), vecSays i = some (g, f, lat, n, op) →
     i.fieldsOk = true → Issues g s → s.cur = .core c → TypeOk s c f.ty → (3 ≤ f.ty.toNat ∨ i = .vand g f ∨ i = .vor g f ∨ i = .vxor g f) →
     NextWith (exec i s) (fun t => Elementwise s t c f lat n (op (tyW f.ty)))) ∧
  (∀ (i : Instr) (g : Guard) (f : VA) (lat n : Nat) (op : Val → Val → Val → Val) (s : State) (c : Fin 320), vecFloatSays i = some (g, f, lat, n, op) →
     i.fieldsOk = true → Issues g s → s.cur = .core c → f.ty.toNat < 3 →
     NextWith (exec i s) (fun t => Elementwise s t c f lat n
       (fun x y z => rneTo (tyFmt f.ty 0) (op (valOf (tyFmt f.ty 0) x) (valOf (tyFmt f.ty 0) y) (valOf (tyFmt f.ty 0) z)))))

/-- R149, R150, R50, R405: VCVT, VPACK and VUNPK put converted elements in flight at latency 3, each element by the entry in force, taking their draws in lane order where the
entry rounds stochastically. -/
def Obligations.VectorConversions : Prop :=
  ∀ (g : Guard) (f : VA) (s : State) (c : Fin 320), Issues g s → s.cur = .core c →
    let k := s.core c
    let ft := k.ftNow
    let m := k.getM f.msk
    let src := tyFmt (f.fn.truncate 3) (ftQ ft)
    let dst := tyFmt f.ty (ftQ ft)
    let ws := tyW (f.fn.truncate 3)
    let wd := tyW f.ty
    let ed := 32 / wd
    let es := 32 / ws
    let ok : Prop := EntryOk s c (f.ty == 7 || f.fn.truncate 3 == 7#3)
    (ok → (Instr.vcvt g f).fieldsOk = true → ws = wd → f.part = 0 → ∃ u, exec (.vcvt g f) s = .next (u.useDraws (ftRm ft) ((enLanes m).length * ed)) ∧
      VecWrites s u f.d 3 wd (fun l _ => m.getLsbD l) (fun l j => cvtElem ft src dst (srAt s.sr (rankOf m l * ed + j)) (subV k f.a ws l j))
        (fun l => if m.getLsbD l then some (k.vpsn f.a l) else none)) ∧
    (ok → (Instr.vcvt g f).fieldsOk = true → ws = wd → f.part ≠ 0 → ∃ u, exec (.vcvt g f) s = .next (u.useDraws (ftRm ft) (enLanes m).length) ∧
      VecWrites s u f.d 3 wd (fun l j => m.getLsbD l && j + 1 == f.part.toNat) (fun l j => cvtElem ft src dst (srAt s.sr (rankOf m l)) (subV k f.a ws l j))
        (fun l => if m.getLsbD l then some (k.vpsn f.a l) else none)) ∧
    (ok → (Instr.vcvt g f).fieldsOk = true → wd < ws → ∃ u, exec (.vcvt g f) s = .next (u.useDraws (ftRm ft) ((enLanes m).length * es)) ∧
      VecWrites s u f.d 3 wd (fun l j => m.getLsbD l && decide (f.part.toNat ≤ j + 1 ∧ j + 1 < f.part.toNat + es))
        (fun l j => cvtElem ft src dst (srAt s.sr (rankOf m l * es + (j + 1 - f.part.toNat))) (subV k f.a ws l (j + 1 - f.part.toNat)))
        (fun l => if m.getLsbD l then some (k.vpsn f.a l) else none)) ∧
    (ok → (Instr.vcvt g f).fieldsOk = true → ws < wd → ∃ u, exec (.vcvt g f) s = .next (u.useDraws (ftRm ft) ((enLanes m).length * ed)) ∧
      VecWrites s u f.d 3 wd (fun l _ => m.getLsbD l) (fun l j => cvtElem ft src dst (srAt s.sr (rankOf m l * ed + j)) (subV k f.a ws l (f.part.toNat - 1 + j)))
        (fun l => if m.getLsbD l then some (k.vpsn f.a l) else none)) ∧
    (ok → (Instr.vpack g f).fieldsOk = true → ∃ u, exec (.vpack g f) s = .next (u.useDraws (ftRm ft) ((enLanes m).length * ed)) ∧
      VecWrites s u f.d 3 wd (fun l _ => m.getLsbD l) (fun l j =>
        let e := l * ed + j
        let half := 64 * (32 / ws)
        cvtElem ft src dst (srAt s.sr (rankOf m l * ed + j))
          (if e < half then subV k f.a ws (e / (32 / ws)) (e % (32 / ws)) else subV k f.b ws ((e - half) / (32 / ws)) ((e - half) % (32 / ws))))
        (fun _ => none)) ∧
    (ok → (Instr.vunpk g f).fieldsOk = true → (f.ty = 7 ∨ f.fn.truncate 3 = 7#3) → ∃ u, exec (.vunpk g f) s = .next (u.useDraws (ftRm ft) ((enLanes m).length * ed)) ∧
      VecWrites s u f.d 3 wd (fun l _ => m.getLsbD l) (fun l j =>
        let e := l * ed + j + (if f.fn.getLsbD 3 then 64 * ed else 0)
        cvtElem ft src dst (srAt s.sr (rankOf m l * ed + j)) (subV k f.a ws (e / (32 / ws)) (e % (32 / ws)))) (fun _ => none)) ∧
    ((Instr.vunpk g f).fieldsOk = true → f.ty ≠ 7 → f.fn.truncate 3 ≠ 7#3 → NextWith (exec (.vunpk g f) s) (fun t =>
      VecWrites s t f.d 3 wd (fun l _ => m.getLsbD l) (fun l j =>
        let e := l * ed + j + (if f.fn.getLsbD 3 then 64 * ed else 0)
        cvtElem 0 (tyFmt (f.fn.truncate 3) 0) (tyFmt f.ty 0) (srAt s.sr (rankOf m l * ed + j)) (subV k f.a ws (e / (32 / ws)) (e % (32 / ws)))) (fun _ => none)))

/-- R151, R152, R153: VCMP puts in flight to its mask the lanes that are enabled, clean and meet the condition; VSEL takes each element from the arm its mask chooses; the VMSK
forms combine, set and read masks. -/
def Obligations.VectorMasksAndSelects : Prop :=
  ∀ (g : Guard) (f : VA) (s : State) (c : Fin 320), Issues g s → s.cur = .core c →
    let k := s.core c
    let w := tyW f.ty
    let e := 32 / w
    ((Instr.vcmp g f).fieldsOk = true → ∃ x : Word, exec (.vcmp g f) s = .next (withFlight s 2 (.m (f.d.truncate 3) x)) ∧
      ∀ l, l < 64 → x.getLsbD l = ((k.getM f.msk).getLsbD l && !k.vpsn f.a l && !k.vpsn f.b l &&
        vcond f (subV k f.a w l (f.part.toNat - 1)) (subV k f.b w l (if f.swz then e - 1 - (f.part.toNat - 1) else f.part.toNat - 1)))) ∧
    ((Instr.vsel g f).fieldsOk = true → TypeOk s c f.ty → NextWith (exec (.vsel g f) s) (fun t =>
      VecWrites s t f.d 2 w (takesPart k f.msk f.part)
        (fun l j => if (k.getM (f.c.truncate 3)).getLsbD l then subV k f.a w l j else subV k f.b w l (if f.swz then e - 1 - j else j))
        (fun l => if (k.getM f.msk).getLsbD l then some (if (k.getM (f.c.truncate 3)).getLsbD l then k.vpsn f.a l else k.vpsn f.b l) else none))) ∧
    (∃ x : Word, exec (.vmskLog g f) s = .next (withFlight s 2 (.m (f.d.truncate 3) x)) ∧ ∀ l, l < 64 → x.getLsbD l =
      Nat.testBit f.fn.toNat ((if (k.getM (f.a.truncate 3)).getLsbD l then 2 else 0) + (if (k.getM (f.b.truncate 3)).getLsbD l then 1 else 0))) ∧
    (Clear s f.a → exec (.vmskSet g f) s = .next (withFlight s 2 (.m (f.d.truncate 3) (if psn s f.a then 0 else val s f.a)))) ∧
    (Clear s f.a → ∃ x : Word, exec (.vmskFirst g f) s = .next (withFlight s 2 (.m (f.d.truncate 3) x)) ∧
      ∀ l, l < 64 → x.getLsbD l = (!psn s f.a && decide (l < (val s f.a).toNat))) ∧
    exec (.vmskGet g f) s = .next (withFlight s 2 (.s f.d (k.getM (f.a.truncate 3)) false))

/-- R154, R62: VRED leaves in sub-element PART − 1 of lane 0, or sub-element 0 when PART = 0, the fold of the participating elements in ascending order, the identity where there is
none, poisoned when a participating lane is; VSCAN leaves at each participating element the fold of those up to it, or before it in the exclusive form, and a lane's poison says
whether a folded element of it came from a poisoned lane. -/
def Obligations.VectorReductionsAndScans : Prop :=
  ∀ (g : Guard) (f : VA) (s : State) (c : Fin 320), Issues g s → s.cur = .core c →
    let k := s.core c
    let w := tyW f.ty
    let op := f.fn.toNat % 8
    let fold (l : List Nat) : Nat := match l with
      | [] => foldId f.ty op
      | x :: t => t.foldl (foldOp f.ty op) (foldFirst f.ty op x)
    let part (l j : Nat) : Bool := takesPart k f.msk f.part l j
    let elems (p : Nat → Nat → Bool) : List Nat :=
      (List.range 64).flatMap (fun l => ((List.range (32 / w)).filter (fun j => part l j && p l j)).map (fun j => subV k f.a w l j))
    ((Instr.vred g f).fieldsOk = true → NextWith (exec (.vred g f) s) (fun t =>
      VecWrites s t f.d 6 w (fun l j => l == 0 && j == f.part.toNat - 1) (fun _ _ => fold (elems (fun _ _ => true)))
        (fun l => if l = 0 then some ((List.range 64).any (fun l => (k.getM f.msk).getLsbD l && k.vpsn f.a l)) else none))) ∧
    ((Instr.vscan g f).fieldsOk = true → NextWith (exec (.vscan g f) s) (fun t =>
      VecWrites s t f.d 6 w part (fun l j => fold (elems (fun l' j' => if f.fn.getLsbD 3 then decide (l' < l ∨ (l' = l ∧ j' < j)) else decide (l' < l ∨ (l' = l ∧ j' ≤ j)))))
        (fun l => if (k.getM f.msk).getLsbD l then some ((List.range 64).any (fun l' => (k.getM f.msk).getLsbD l' && k.vpsn f.a l' &&
          (decide (l' < l) || (l' == l && (!f.fn.getLsbD 3 || (f.part == 0 && decide (w < 32))))))) else none)))

/-- R155, R156, R157: the lane moves: VBCST of a scalar or a lane, VMOVS, VINS, VIOTA, VSHUF and VROT. -/
def Obligations.VectorLaneMoves : Prop :=
  ∀ (g : Guard) (f : VA) (s : State) (c : Fin 320), Issues g s → s.cur = .core c → TypeOk s c f.ty →
    let k := s.core c
    let m := k.getM f.msk
    let w := tyW f.ty
    let e := 32 / w
    ((Instr.vbcst g f).fieldsOk = true → Clear s f.a → NextWith (exec (.vbcst g f) s) (fun t =>
      VecWrites s t f.d 2 w (takesPart k f.msk f.part) (fun _ _ => (val s f.a).toNat) (fun l => if m.getLsbD l then some (psn s f.a) else none))) ∧
    ((Instr.vbcstLane g f).fieldsOk = true → NextWith (exec (.vbcstLane g f) s) (fun t =>
      VecWrites s t f.d 2 w (takesPart k f.msk f.part) (fun _ j => subV k f.a w f.b.toNat j) (fun l => if m.getLsbD l then some (k.vpsn f.a f.b.toNat) else none))) ∧
    ((Instr.vmovs g f).fieldsOk = true →
      let v := if f.part = 0 then BitVec.ofNat 32 (laneOf (k.vec f.a) f.b.toNat) else BitVec.ofNat 32 (subV k f.a w f.b.toNat (f.part.toNat - 1))
      let wv := if f.part = 0 then 32 else w
      exec (.vmovs g f) s = .next (withFlight s 2 (.s f.d (if f.fn = 1 then BitVec.ofInt 64 (sgn wv v.toNat) else BitVec.ofNat 64 v.toNat) (k.vpsn f.a f.b.toNat)))) ∧
    ((Instr.vins g f).fieldsOk = true → Clear s f.a → f.part ≠ 0 → NextWith (exec (.vins g f) s) (fun t =>
      VecWrites s t f.d 2 w (fun l j => l == f.b.toNat && j + 1 == f.part.toNat) (fun _ _ => (val s f.a).toNat)
        (fun l => if l = f.b.toNat then some (psn s f.a) else none))) ∧
    ((Instr.vins g f).fieldsOk = true → Clear s f.a → f.part = 0 → NextWith (exec (.vins g f) s) (fun t =>
      VecWrites s t f.d 2 32 (fun l _ => l == f.b.toNat) (fun _ _ => (val s f.a).toNat) (fun l => if l = f.b.toNat then some (psn s f.a) else none))) ∧
    ((Instr.viota g f).fieldsOk = true → Clear s f.a → Clear s f.b → NextWith (exec (.viota g f) s) (fun t =>
      VecWrites s t f.d 2 w (takesPart k f.msk f.part)
        (fun l j => (val s f.a).toNat + ((if f.fn = 1 then ((List.range l).filter (fun i => m.getLsbD i)).length else l) * e + j) * (val s f.b).toNat)
        (fun l => if m.getLsbD l then some (psn s f.a || psn s f.b) else none))) ∧
    ((Instr.vshuf g f).fieldsOk = true → NextWith (exec (.vshuf g f) s) (fun t =>
      let x (l : Nat) : Nat := laneOf (k.vec f.b) l % 128
      VecWrites s t f.d 2 32 (fun l _ => m.getLsbD l)
        (fun l _ => if x l < 64 then laneOf (k.vec f.a) (x l) else if f.fn = 1 then laneOf (k.vec f.c) (x l - 64) else 0)
        (fun l => if m.getLsbD l then some ((if x l < 64 then k.vpsn f.a (x l) else f.fn == 1 && k.vpsn f.c (x l - 64)) || k.vpsn f.b l) else none))) ∧
    ((Instr.vrot g f).fieldsOk = true → Clear s f.b → NextWith (exec (.vrot g f) s) (fun t =>
      let n := (val s f.b).toNat
      VecWrites s t f.d 2 32 (fun l _ => m.getLsbD l) (fun l _ => if f.fn = 1 ∧ 64 ≤ l + n then 0 else laneOf (k.vec f.a) ((l + n) % 64)) (fun _ => none)))

/-- R158, R159, R160, R163: VCLASS gives the class of each element of a floating format, and of an integer format 0 where the element is 0 (its other values are free, log 2); VTERM
the number of terms; VQSC the block scales, and its code form the quantised codes; VCHK passes when no enabled lane is poisoned and raises POISON when one is. -/
def Obligations.VectorClassesAndQuantisation : Prop :=
  ∀ (g : Guard) (f : VA) (s : State) (c : Fin 320), Issues g s → s.cur = .core c →
    let k := s.core c
    let m := k.getM f.msk
    let w := tyW f.ty
    let fmt := tyFmt f.ty (ftQ (entryFor s c f.ty))
    (∀ F, (Instr.vclass g f).fieldsOk = true → TypeOk s c f.ty → fmtOf fmt = some F → F.isInt = false → F.isFloat = true → NextWith (exec (.vclass g f) s) (fun t =>
      VecWrites s t f.d 2 w (takesPart k f.msk f.part) (fun l j => classOf F (subV k f.a w l j)) (fun l => if m.getLsbD l then some (k.vpsn f.a l) else none))) ∧
    (∀ F, (Instr.vclass g f).fieldsOk = true → TypeOk s c f.ty → fmtOf fmt = some F → F.isInt = true → F.isFloat = false → ∃ u x,
      exec (.vclass g f) s = .next { u with free := u.free + 512 } ∧
      VecWrites s u f.d 2 w (takesPart k f.msk f.part) x (fun l => if m.getLsbD l then some (k.vpsn f.a l) else none) ∧
      ∀ l j, subV k f.a w l j = 0 → x l j = 0) ∧
    (∀ F, (Instr.vterm g f).fieldsOk = true → TypeOk s c f.ty → fmtOf fmt = some F → NextWith (exec (.vterm g f) s) (fun t =>
      VecWrites s t f.d 2 w (takesPart k f.msk f.part) (fun l j => F.terms (subV k f.a w l j)) (fun l => if m.getLsbD l then some (k.vpsn f.a l) else none))) ∧
    ((Instr.vqsc g f).fieldsOk = true → EntryOk s c true → NextWith (exec (.vqsc g f) s) (fun t =>
      VecWrites s t f.d 3 8 (fun l _ => l == 0)
        (fun _ b => if b < 2 * (32 / tyW (f.fn.truncate 3)) then (quantScale (ftQ k.ftNow) (ftCap k.ftNow) (qBlock k f b)).toNat else 0) (fun _ => none))) ∧
    ((Instr.vqscEnc g f).fieldsOk = true → EntryOk s c true →
      let es := 32 / tyW (f.fn.truncate 3)
      ∃ u, exec (.vqscEnc g f) s = .next (u.useDraws (ftRm k.ftNow) ((enLanes m).length * es)) ∧
      VecWrites s u f.d 3 8 (fun l j => m.getLsbD l && decide (f.part.toNat ≤ j + 1 ∧ j + 1 < f.part.toNat + es))
        (fun l j => let i := j + 1 - f.part.toNat
          quantCode k.ftNow (ftQ k.ftNow) true (BitVec.ofNat 8 (subV k f.b 8 0 ((l * es + i) / 32))) (srAt s.sr (rankOf m l * es + i))
            (valOf (tyFmt (f.fn.truncate 3) 0) (subV k f.a (tyW (f.fn.truncate 3)) l i)))
        (fun l => if m.getLsbD l then some (k.vpsn f.a l || k.vpsn f.b 0) else none)) ∧
    ((∀ l, l < 64 → m.getLsbD l = true → k.vpsn f.a l = false) → exec (.vchk g f) s = .next s) ∧
    (∀ l, l < 64 → m.getLsbD l = true → k.vpsn f.a l = true → ∃ t, exec (.vchk g f) s = .next (withTrap s t) ∧ t.cause = .poison ∧ t.slot = some 1)

/-- R161, R144, R83: VLDH and VSTH move the elements of one chunk of a slot between the scratchpad and the lanes: raw words of an untyped ring, else one
element of EFMT for each sub-element, converted by the entry in force. R36, R162, R111, R115, R144: VLDS puts in flight to each
enabled lane l the word at base + 4l, in exact arithmetic, poisoned where the base, the word's marks or its check say so; VSTS of clean lanes writes each enabled lane there, and a
poisoned lane raises POISON. -/
def Obligations.VectorMemoryForms : Prop :=
  (∀ (g : Guard) (f : VR) (s : State) (c : Fin 320), Issues g s → s.cur = .core c →
     let k := s.core c
     let r := s.ringAt (rsH f.rs)
     let ef := hFmt r.h
     let w := tyW f.ty
     let m := k.getM f.msk
     let we := if ef = 0 then 32 else codeWidth ef
     let es := if ef = 0 then 1 else 32 / w
     let n := 64 * es * we / 8
     let ofs := effOff r (rsOff f.rs)
     let draws (ft : Word) (u : State) : State := if ef = 0 then u else u.useDraws (ftRm ft) ((enLanes m).length * es)
     hEn r.h = true → rsOff f.rs < hSlots r.h → (ef = 0 ∨ isVecFmt ef = true) → (f.fn.toNat + 1) * n ≤ hSize r.h → (f.ty = 7 → EntryOk s c true) →
     (ofs < hFill r.h → (ef ≠ 0 → EntryOk s c false) →
       let ft := if f.ty = 7 ∨ ef ≠ 0 then k.ftNow else 0
       let a := hByte r.h (consSlot r (rsOff f.rs)) + f.fn.toNat * n
       ∃ u, exec (.vldh g f) s = .next (draws ft u) ∧ VecWrites s u f.d 4 (if ef = 0 then 32 else w) (fun l _ => m.getLsbD l)
         (fun l j => let x := elem (Mem.read k.scr a n) we (l * es + j)
                     if ef = 0 then x else cvtElem ft ef (tyFmt f.ty (ftQ ft)) (srAt s.sr (rankOf m l * es + j)) x)
         (fun l => if m.getLsbD l then some ((List.range es).any (fun j => k.marked (a + (l * es + j) * we / 8) (max 1 (we / 8)))) else none)) ∧
     (hFill r.h ≤ ofs → (ef ≠ 0 → EntryOk s c false) → exec (.vldh g f) s = .next (withStall s 4 ((rsH f.rs).zeroExtend 8))) ∧
     (ofs < hSlots r.h - hFill r.h → (ef ≠ 0 → EntryOk s c false) → Mem.wf k.scr = true → (∀ l, l < 64 → m.getLsbD l = true → k.vpsn f.d l = false) →
       let ft := k.ftNow
       let a := hByte r.h (prodSlot r (rsOff f.rs)) + f.fn.toNat * n
       ∃ u, exec (.vsth g f) s = .next (draws ft u) ∧ (u.core c).fr = k.fr ∧ SameOutside c s u ∧
         (∀ b, (b < a ∨ a + n ≤ b) → Mem.get (u.core c).scr b = Mem.get k.scr b) ∧
         (∀ l j, l < 64 → j < es → elem (Mem.read (u.core c).scr a n) we (l * es + j) =
           if m.getLsbD l then
             (if ef = 0 then laneOf (k.vec f.d) l
              else cvtElem ft (tyFmt f.ty (ftQ ft)) ef (srAt s.sr (rankOf m l * es + j)) (subV k f.d w l j)) % 2 ^ we
           else elem (Mem.read k.scr a n) we (l * es + j)))) ∧
  (∀ (g : Guard) (f : VS) (s : State) (c : Fin 320), Issues g s → s.cur = .core c → Clear s f.a →
     let k := s.core c
     let m := k.getM f.msk
     let x : Int := ((val s f.a).toNat : Int) + f.imm.toInt
     let at_ (l : Nat) : Nat := (x + 4 * l).toNat
     let bad (l : Nat) : Bool := psn s f.a || decide (x % 4 ≠ 0) || decide (x + 4 * l < 0) || !s.grantedRange c (at_ l) 4
     NextWith (exec (.vlds g f) s) (fun t => VecWrites s t f.d 4 32 (fun l _ => m.getLsbD l)
       (fun l _ => if bad l then 0 else Mem.read k.scr (at_ l) 4)
       (fun l => if m.getLsbD l then some (bad l || k.marked (at_ l) 4) else none)) ∧
     (Mem.wf k.scr = true → (∀ l, l < 64 → m.getLsbD l = true → bad l = false ∧ k.vpsn f.d l = false) → x % 4 = 0 → psn s f.a = false →
       NextWith (exec (.vsts g f) s) (fun t =>
         (∀ l, l < 64 → m.getLsbD l = true → Mem.read (t.core c).scr (at_ l) 4 = laneOf (k.vec f.d) l) ∧
         (∀ b, (∀ l, l < 64 → m.getLsbD l = true → b < at_ l ∨ at_ l + 4 ≤ b) → Mem.get (t.core c).scr b = Mem.get k.scr b) ∧
         (t.core c).fr = k.fr ∧ SameOutside c s t)) ∧
     (∀ l, l < 64 → m.getLsbD l = true → k.vpsn f.d l = true → ∃ t, exec (.vsts g f) s = .next (withTrap s t) ∧ t.cause = .poison))

/-! ## The M slot -/

/-- R164, R165, R170 to R175, R178, R188, R83: an M-slot form with room in the beat queue puts its entry at the queue's end, with its operands as the bundle finds them; with none it
stalls; in handler mode it raises MATRIX_IN_HANDLER. R166, R82: an entry whose slot an ADVC or ADVP of its own bundle has passed has its slot ready for good. The model's choices: a full
queue stalls before any other check (log 9), and MDRAIN into a ring of EFMT 0x00 checks no entry of the format table (log 122). -/
def Obligations.MatrixFormsQueue : Prop :=
  ∀ (g : Guard) (f : MF) (s : State) (c : Fin 320), Issues g s → s.cur = .core c →
    let k := s.core c
    let put (op : MOp) : Host.Outcome State Fault Refusal := .next (queued s c op)
    let a := (val s f.a).toNat
    let rs : BitVec 12 := f.b ++ f.a
    let r := s.ringAt (rsH rs)
    let moved (cons : Bool) : Nat := match s.iss.rings0 with
      | none => 0
      | some r0 => if cons then (k.rings[(rsH rs).toFin]).adC - (r0[(rsH rs).toFin]).adC else (k.rings[(rsH rs).toFin]).adP - (r0[(rsH rs).toFin]).adP
    let putAt (cons : Bool) (op : MOp) : Host.Outcome State Fault Refusal := .next (queued s c op (decide (effOff r (rsOff rs) < moved cons)))
    ((s.inHandler = false → k.arr.queue.length < 16 →
      exec (.mswap g f) s = put .mswap ∧ exec (.mzero g f) s = put (.mzero f.t) ∧ exec (.mhem g f) s = put (.mhem (f.aux.truncate 2)) ∧
      exec (.mtclr g f) s = put (.mtclr (rs.truncate 9)) ∧ exec (.mperm g f) s = put (.mperm f.t) ∧
      (Clean s f.a → a % 64 = 0 → a < 524288 → EntryOk s c false →
        exec (.mldw g f) s = put (.mldw a (ftB k.ftNow) (ftScB k.ftNow) (ftCap k.ftNow))) ∧
      (Clean s f.a → 1 ≤ a → a ≤ 128 →
        exec (.mlu g f) s = put (.fact 1 f.t a 0 false false false 0 0) ∧ exec (.mchol g f) s = put (.fact 2 f.t a 0 false false false 0 0) ∧
        (Clean s f.b → 1 ≤ (val s f.b).toNat → (val s f.b).toNat ≤ 128 →
          exec (.mtrsm g f) s = put (.fact 4 f.t a (val s f.b).toNat (f.aux.getLsbD 0) (f.aux.getLsbD 1) (f.aux.getLsbD 2) 0 0)) ∧
        (let h := (s.ringAt (f.aux.truncate 4)).h
         hEn h = true → 0 < hSlots h → 4 * a ≤ hSize h → (hFmt h).toNat ≤ 1 →
          exec (.mqr g f) s = put (.fact 3 f.t a 0 false false false (f.aux.truncate 4) 0))) ∧
      (hEn r.h = true → rsOff rs < hSlots r.h →
        (let n := 16 * codeWidth (ftA k.ftNow) + (if ftScA k.ftNow then 4 else 0)
         let x := f.aux.toNat / 2 % 8
         EntryOk s c false → n ≤ hSize r.h → (hFmt r.h = 0 ∨ hFmt r.h = ftA k.ftNow) →
          exec (.mpush g f) s = putAt true (.mpush (rsH rs) (consSlot r (rsOff rs)) f.t ((f.row.toNat + (if x = 0 then 0 else (k.loops.lc.toList.getD (x - 1) 0).toNat)) % 128)
            (f.aux.getLsbD 0) (ftA k.ftNow) (ftScA k.ftNow))) ∧
        (hFmt r.h = 0 → (f.aux.toNat + 1) * 512 ≤ hSize r.h →
          exec (.mdrain g f) s = putAt false (.mdrain (rsH rs) (prodSlot r (rsOff rs)) f.t f.row.toNat (f.aux.toNat + 1) 0)) ∧
        (isVecFmt (hFmt r.h) = true → EntryOk s c false → (f.aux.toNat + 1) * (16 * codeWidth (hFmt r.h)) ≤ hSize r.h →
          exec (.mdrain g f) s = putAt false (.mdrain (rsH rs) (prodSlot r (rsOff rs)) f.t f.row.toNat (f.aux.toNat + 1) k.ftNow)))) ∧
     (∀ i, (i = Instr.mldw g f ∨ i = Instr.mswap g f ∨ i = Instr.mpush g f ∨ i = Instr.mdrain g f ∨ i = Instr.mzero g f ∨ i = Instr.mhem g f ∨ i = Instr.mtclr g f ∨
        i = Instr.mperm g f ∨ i = Instr.mlu g f ∨ i = Instr.mchol g f ∨ i = Instr.mqr g f ∨ i = Instr.mtrsm g f) →
      (s.inHandler = false → 16 ≤ k.arr.queue.length → exec i s = .next (withStall s 6 0)) ∧
      (s.inHandler = true → ∃ t, exec i s = .next (withTrap s t) ∧ t.cause = .matrixInHandler)))

/-- R186, R187, R190: MRES resumes a stopped factorisation, with its pivot replaced where the form gives one, and has no effect otherwise; MFWAIT passes once
no factorisation runs and the queue is empty, and stalls while entries stand in it outside handler mode. R178, R179, R185, R165, R193: a factorisation at the
queue's head starts with FS naming it; a step whose pivot is sound leaves its tiles and counts in FS; a pivot of zero stops it with its trap on the way to the
core; a trap on its way reaches a running core. -/
def Obligations.FactorisationSteps : Prop :=
  (∀ (g : Guard) (f : MF) (s : State) (c : Fin 320), Issues g s → s.cur = .core c →
     let k := s.core c
     (f.aux.getLsbD 0 = false → bit k.arr.fs 30 = false → exec (.mres g f) s = .next s) ∧
     (f.aux.getLsbD 0 = true → Clean s f.a → bit k.arr.fs 30 = true → NextWith (exec (.mres g f) s) (fun t =>
       (t.core c).arr.fs.getLsbD 30 = false ∧ (t.core c).arr.fs.getLsbD 31 = true ∧ (∀ i, i < 30 → (t.core c).arr.fs.getLsbD i = k.arr.fs.getLsbD i) ∧
       (t.core c).arr.tiles = k.arr.tiles ∧ (t.core c).arr.queue = k.arr.queue ∧
       (∀ x, k.arr.fact = some x → ∃ y, (t.core c).arr.fact = some y ∧ y.repl = some ((val s f.a).truncate 32)) ∧ (t.core c).fr = k.fr ∧ SameOutside c s t)) ∧
     (f.aux.getLsbD 0 = false → bit k.arr.fs 30 = true → NextWith (exec (.mres g f) s) (fun t =>
       (t.core c).arr.fs.getLsbD 30 = false ∧ (∀ i, i ≠ 30 → i < 64 → (t.core c).arr.fs.getLsbD i = k.arr.fs.getLsbD i) ∧
       (∀ x, k.arr.fact = some x → ∃ y, (t.core c).arr.fact = some y ∧ y.repl = none) ∧ (t.core c).fr = k.fr ∧ SameOutside c s t)) ∧
     (bits k.arr.fs 2 0 = 0 → k.arr.queue = [] → exec (.mfwait g f) s = .next s) ∧
     (bit k.arr.fs 30 = false → k.hs = none → k.arr.queue ≠ [] → exec (.mfwait g f) s = .next (withStall s 8 0))) ∧
  (∀ (s : State) (c : Fin 320),
     let k := s.core c
     let a := k.arr
     (∀ e l op t n cc low unit trn h slot, a.queue = e :: l → e.op = .fact op t n cc low unit trn h slot → e.run = false → a.fact = none → k.hs = none → k.heldAll = false →
       k.task.any (fun t => t.stopping.isSome || t.frozen) = false →
       n ≤ 128 → NextWith (exec (.factorisationStep c) s) (fun u => fsOp (u.core c).arr.fs = op.toNat ∧ bits (u.core c).arr.fs 15 8 = n ∧ fsK (u.core c).arr.fs = 0 ∧
         (u.core c).arr.tiles = a.tiles ∧ (u.core c).fr = k.fr ∧ SameOutside c s u)) ∧
     (∀ e l t n h slot fa, a.queue = e :: l → e.op = .fact 1 t n 0 false false false h slot → e.run = true → a.fact = some fa → k.hs = none → k.heldAll = false →
       k.ph.redo = [] → bit a.fs 30 = false → fa.free = true → fa.halt = false → fsK a.fs + 1 < n → n ≤ 128 →
       (∀ tiles perm tau rows cmp, luStep { a with fact := some { fa with repl := none, free := true } } (tileNo t) n (fsK a.fs) fa.repl = .done tiles perm tau rows cmp →
         a.hmode = 2 → NextWith (exec (.factorisationStep c) s) (fun u => (u.core c).arr.tiles = tiles ∧ (u.core c).arr.perm = perm ∧ fsK (u.core c).arr.fs = fsK a.fs + 1 ∧
           (u.core c).arr.queue = a.queue ∧ (u.core c).fr = k.fr ∧ SameOutside c s u)) ∧
       (luStep { a with fact := some { fa with repl := none, free := true } } (tileNo t) n (fsK a.fs) fa.repl = .stop →
         NextWith (exec (.factorisationStep c) s) (fun u => bit (u.core c).arr.fs 30 = true ∧ (u.core c).arr.tiles = a.tiles ∧
           (∃ x, (u.core c).async = k.async ++ [x] ∧ x.cause = .zeroPivot ∧ x.async = true) ∧ (u.core c).fr = k.fr ∧ SameOutside c s u))) ∧
     (∀ t l, k.async = t :: l → k.stopped = false → exec (.asyncTrapDelivery c) s = .next ((withCore s c { k with async := l }).takeTrapUe c t)))

/-- R60, R168, R170 to R177, R188: what the head of the beat queue does when the array acts on it: a weight load fills the back plane, a beat accumulates its row against the front
plane, a drain of an untyped ring leaves its rows' FP32 words in the slot, a swap, zeroing, mode, counter clear and permutation do what their forms say; the entry leaves the queue,
and memory, the registers and every other core stand. -/
def Obligations.ArrayEntriesAct : Prop :=
  ∀ (s : State) (c : Fin 320) (e : MEnt), (s.core c).mHead = some e →
    let k := s.core c
    let a := k.arr
    let gone (t : State) : Prop := (t.core c).arr.queue = a.queue.tail ∧ (t.core c).fr = k.fr ∧ t.mem = s.mem ∧ t.osqs = s.osqs ∧ ∀ d, d ≠ c → t.core d = s.core d
    (∀ off fmt scB cap l, e.op = .mldw off fmt scB cap → s.ldwWaits c off fmt e.seq = false → readSegs k.wbuf fmt cap 128 off = .ok l →
      NextWith (exec (.mldwExecute c) s) (fun t => gone t ∧ (t.core c).arr.back = planeOf fmt scB cap l ∧ (t.core c).arr.cur = a.cur ∧ (t.core c).arr.tiles = a.tiles)) ∧
    (∀ h slot tile row acc fmt scA, e.op = .mpush h slot tile row acc fmt scA → slotFilled (k.rings[h.toFin]).h slot = true →
      k.marked (hByte (k.rings[h.toFin]).h slot) (beatBytes fmt scA) = false → NextWith (exec (.beat c) s) (fun t => gone t ∧
        (∀ i j : Fin 128, (((t.core c).arr.tiles[tileNo tile])[i])[j] = if i.val = row % 128 then
          accum (beatRow k (hByte (k.rings[h.toFin]).h slot) fmt scA) (fun n => a.cur.at n j.val) (if acc then ((a.tiles[tileNo tile])[i])[j] else 0)
          else ((a.tiles[tileNo tile])[i])[j]) ∧
        (t.core c).arr.tiles[tileNo (!tile)] = a.tiles[tileNo (!tile)] ∧ (t.core c).arr.cur = a.cur ∧ (t.core c).scr = k.scr)) ∧
    (∀ h slot tile r0 n ft cd sk, e.op = .mdrain h slot tile r0 n ft → slotFree (k.rings[h.toFin]).h slot = true → hFmt (k.rings[h.toFin]).h = 0 →
      drainCheck a k.tol tile r0 n = (none, cd, sk) → r0 + n ≤ 128 → Mem.wf k.scr = true →
      let b := hByte (k.rings[h.toFin]).h slot
      NextWith (exec (.mdrainExecute c) s) (fun t => gone t ∧ (t.core c).arr.tiles = a.tiles ∧
        (∀ i j, i < n → j < 128 → Mem.read (t.core c).scr (b + 512 * i + 4 * j) 4 = (tAt a.tiles[tileNo tile] (r0 + i) j).toNat) ∧
        (∀ x, (x < b ∨ b + 512 * n ≤ x) → Mem.get (t.core c).scr x = Mem.get k.scr x) ∧
        (∀ i, i < 128 → ((t.core c).arr.hems[tileNo tile]).valid.getLsbD i = ((a.hems[tileNo tile]).valid.getLsbD i && !decide (r0 ≤ i ∧ i < r0 + n))))) ∧
    (e.op = .mswap → NextWith (exec (.mSlotEntryExecute c) s) (fun t => gone t ∧ (t.core c).arr.cur = a.back ∧ (t.core c).arr.back = a.cur ∧ (t.core c).arr.tiles = a.tiles)) ∧
    (∀ tile, e.op = .mzero tile → NextWith (exec (.mSlotEntryExecute c) s) (fun t => gone t ∧ (∀ i j, tAt (t.core c).arr.tiles[tileNo tile] i j = 0) ∧
      (t.core c).arr.tiles[tileNo (!tile)] = a.tiles[tileNo (!tile)] ∧ ((t.core c).arr.hems[tileNo tile]).epoch = some a.hmode)) ∧
    (∀ m, e.op = .mhem m → NextWith (exec (.mSlotEntryExecute c) s) (fun t => gone t ∧ (t.core c).arr.hmode = m ∧ (t.core c).arr.tiles = a.tiles)) ∧
    (∀ m, e.op = .mtclr m → NextWith (exec (.mSlotEntryExecute c) s) (fun t => gone t ∧ (t.core c).arr.beatc = (if m.getLsbD 8 then 0 else a.beatc) ∧
      (∀ i : Fin 8, (t.core c).arr.termc[i] = if m.getLsbD i.val then 0 else a.termc[i]) ∧ (t.core c).arr.tiles = a.tiles)) ∧
    (∀ tile, e.op = .mperm tile → (∀ i, i < 128 → BitVec.ofNat 8 i ∈ a.perm.toList) → NextWith (exec (.mSlotEntryExecute c) s) (fun t => gone t ∧
      (∀ i : Fin 128, ((t.core c).arr.tiles[tileNo tile])[i] = (a.tiles[tileNo tile])[Fin.ofNat 128 (a.perm[i]).toNat]) ∧
      (t.core c).arr.tiles[tileNo (!tile)] = a.tiles[tileNo (!tile)]))

/-! ## Engines -/

/-- R192, R193, R196, R198 to R215: an X-slot form whose operands pass the checks of its issue puts one command at the end of the engine queue, with its operands as read, and counts
its tag; with the queue full it stalls. XWAIT passes once no tag it names counts a command, and stalls before. The model's choices: XPUB, XDROP and XDFNC pass with extents of any
right (log 65), and a full queue stalls before any other check (log 9). -/
def Obligations.EngineCommandsQueue : Prop :=
  ∀ (g : Guard) (f : XF) (s : State) (c : Fin 320), Issues g s → s.cur = .core c →
    let k := s.core c
    let r := (s.ringAt f.h).h
    let q := (s.ringAt (f.imm.truncate 4)).h
    let a := val s f.a
    let b := val s f.b
    let x := val s f.c
    let ring : Prop := hEn r = true ∧ f.ofs.toNat < hSlots r
    let ring2 : Prop := hEn q = true ∧ f.imm.toNat / 16 % 256 < hSlots q
    let typed : Prop := f.fmt = 0 ∨ (f.fmt = hFmt r ∧ codeKnown f.fmt = true) ∨ (isVecFmt f.fmt = true ∧ codeKnown f.fmt = true ∧ isVecFmt (hFmt r) = true ∧ EntryOk s c false)
    let conv : Bool := f.fmt != 0 && f.fmt != hFmt r
    let may (va n : Nat) (need : Need) : Prop := n = 0 ∨ s.exCheck c va n need = none
    let ends (va n : Nat) (bad : BitVec 128 → Bool) : Prop := s.exEnds c va n bad = none
    let pair : Prop := hSize r = hSize q ∧ codeWidth f.fmt ≠ 0
    let put (i : Instr) (op : Nat) (fn : BitVec 4) (a b x : Word) : Prop := NextWith (exec i s) (fun t => Commands s t c f op fn a b x)
    (k.eng.queue.length < 16 → Clean s f.a → Clean s f.b → Clean s f.c →
      (ring → typed → f.imm.toNat ≤ 255 → f.imm.toNat < hSlots r → a.toNat % 64 = 0 →
        (f.fn.getLsbD 0 = true ∨ may a.toNat ((if conv then hSize r * 8 / codeWidth (hFmt r) * codeWidth f.fmt / 8 else hSize r) * (f.imm.toNat + 1)) .read) →
        put (.xcopy g f) 0x01 f.fn a 0 0) ∧
      (let el := if f.fmt = 0 then 1 else max 1 (codeWidth f.fmt / 8)
       let l := if conv then (x.toNat * codeWidth (hFmt r) + codeWidth f.fmt - 1) / codeWidth f.fmt else x.toNat
       ring → typed → a.toNat % el = 0 → b.toNat % el = 0 → x.toNat % el = 0 → x ≠ 0 → 0 < l → l ≤ hSize r → (f.imm.toNat + hSize r / l) / (hSize r / l) ≤ hSlots r →
        (f.fn.getLsbD 0 = true ∨ ∀ i, i ≤ f.imm.toNat → s.exCheck c (a + BitVec.ofNat 64 i * b).toNat x.toNat .read = none) →
        put (.xcopys g f) 0x02 f.fn a b x) ∧
      (ring → typed → a.toNat % 64 = 0 →
        ends a.toNat ((if conv then hSize r * 8 / codeWidth (hFmt r) * codeWidth f.fmt / 8 else hSize r) * (f.imm.toNat + 1)) (fun e => !exWr e || exSk e || exCv e) →
        put (.xstore g f) 0x03 f.fn a 0 0) ∧
      (ends a.toNat 1 (fun _ => false) → put (.xpub g f) 0x04 f.fn a 0 0 ∧ put (.xpubNow g f) 0x04 1 a 0 0 ∧ put (.xdrop g f) 0x05 f.fn a 0 0) ∧
      (a.toNat % 64 = 0 → b.toNat % 64 = 0 → x.toNat % 64 = 0 → x.toNat < 524288 →
        (f.fmt = 0x40 → may a.toNat b.toNat .read → put (.xwld g f) 0x06 f.fn a b x) ∧
        (isBFmt f.fmt = true → f.fmt ≠ 0x40 → (∀ i, i < 128 → s.exCheck c (a + BitVec.ofNat 64 i * b).toNat (16 * codeWidth f.fmt) .read = none) →
          put (.xwld g f) 0x06 f.fn a b x)) ∧
      (ring → isBFmt f.fmt = true → x.toNat % 64 = 0 → x.toNat < 524288 → a.toNat % 64 = 0 → s.grantedRange c a.toNat 64 = true → put (.xgath g f) 0x07 f.fn a 0 x) ∧
      (ring → ring2 → pair →
        (a ≠ 0 → hSize r * 8 / codeWidth f.fmt % a.toNat = 0 → put (.xpermTr g f) 0x08 f.fn a 0 0) ∧
        (a.toNat % 2 = 0 → s.grantedRange c a.toNat (2 * (hSize r * 8 / codeWidth f.fmt)) = true → put (.xpermIdx g f) 0x08 1 a 0 0)) ∧
      (a.toNat % 64 = 0 → may a.toNat 1152 .read → put (.xftl g f) 0x09 f.fn a 0 0) ∧
      (ring → ring2 → 1 ≤ (hFmt r).toNat → (hFmt r).toNat ≤ 9 → 1 ≤ (hFmt q).toNat → (hFmt q).toNat ≤ 9 → b.toNat ≤ hSize q * 8 / codeWidth (hFmt q) →
        b.toNat ≤ hSize r * 8 / codeWidth (hFmt r) → EntryOk s c false → put (.xfte g f) 0x0A f.fn 0 b 0) ∧
      (ring → ring2 → 1 ≤ (hFmt q).toNat → (hFmt q).toNat ≤ 3 → EntryOk s c true → 1 ≤ b.toNat → b.toNat ≤ 8192 → b.toNat ≤ hSize q * 8 / codeWidth (hFmt q) →
        33 * ((b.toNat + 31) / 32) ≤ hSize r → put (.xqnt g f) 0x0B f.fn 0 b 0 ∧ (a.toNat ≤ 255 → put (.xqntFix g f) 0x0B 1 a b 0)) ∧
      (ring → 4 ≤ f.fmt.toNat → f.fmt.toNat ≤ 9 → b.toNat ≤ hSize r * 8 / codeWidth f.fmt → put (.xhist g f) 0x0C f.fn 0 b 0) ∧
      put (.xhlat g f) 0x0D f.fn 0 0 0 ∧
      (a.toNat % 64 = 0 → b.toNat % 64 = 0 → b ≠ 0 → ends a.toNat b.toNat (fun _ => false) → put (.xdfnc g f) 0x0E f.fn a b 0) ∧
      (ring → (f.fmt = 0 ∨ isVecFmt f.fmt = true) → put (.xfill g f) 0x10 f.fn a 0 0)) ∧
    (16 ≤ k.eng.queue.length → ∀ i, (i = Instr.xcopy g f ∨ i = .xcopys g f ∨ i = .xstore g f ∨ i = .xpub g f ∨ i = .xpubNow g f ∨ i = .xdrop g f ∨ i = .xwld g f ∨ i = .xgath g f ∨
        i = .xpermTr g f ∨ i = .xpermIdx g f ∨ i = .xftl g f ∨ i = .xfte g f ∨ i = .xqnt g f ∨ i = .xqntFix g f ∨ i = .xhist g f ∨ i = .xhlat g f ∨ i = .xdfnc g f ∨ i = .xfill g f) →
      exec i s = .next (withStall s 7 0)) ∧
    ((∀ t : Fin 16, f.imm.getLsbD t.val = true → k.eng.ntag[t] = 0) → exec (.xwait g f) s = .next s) ∧
    (∀ t : Fin 16, f.imm.getLsbD t.val = true → k.eng.ntag[t] ≠ 0 → exec (.xwait g f) s = .next (withStall s 9 (f.imm.truncate 8)))

/-- R192, R196, R214, R413, R193: the first command of the queue enters its class when that has room; a unit that is done leaves its command advanced, one that waits changes nothing, and
one that fails takes its command and those behind it away with the trap on its way; a command all of whose effects are done leaves its class and its tag's count falls; a contribution to
an armed latch entry is added, and the command that sent it is finished; a watch match that a landing met reaches its core. -/
def Obligations.EngineEvents : Prop :=
  ∀ (s : State) (c : Fin 320) (cls : Fin 9),
    let k := s.core c
    (∀ m l, k.eng.queue = m :: l → (k.eng.cls[m.cls]).length < 2 → k.heldAll = false → (k.task.any (·.frozen) && k.beatsOver) = false →
      exec (.engineDispatch c) s = .next (withCore s c { k with eng := { k.eng with queue := l, cls := k.eng.cls.set m.cls (k.eng.cls[m.cls] ++ [m]) } })) ∧
    (∀ m, k.eng.cls[cls] = [m] → m.fin = false → k.ph.redo = [] → s.mayUnit c m = true → s.behind c m = false → k.eng.watch = none →
      (∀ u m', s.unitStep c (BitVec.ofNat 64 m.seq) m = .done u m' → NextWith (exec (.engineUnit c cls false) s) (fun t =>
        (t.core c).eng.cls[cls] = ((u.core c).eng.cls[cls]).map (fun y => if y.seq = m'.seq then m' else y) ∧ t.mem = u.mem ∧ (t.core c).scr = (u.core c).scr ∧
        (t.core c).rings = (u.core c).rings ∧ (t.core c).fr = (u.core c).fr)) ∧
      (∀ u, s.unitStep c (BitVec.ofNat 64 m.seq) m = .wait u → exec (.engineUnit c cls false) s = .next u) ∧
      (∀ u x, s.unitStep c (BitVec.ofNat 64 m.seq) m = .fail u x → NextWith (exec (.engineUnit c cls false) s) (fun t =>
        (t.core c).async = (u.core c).async ++ [{ x with phase := some m.phase }] ∧ (∀ y ∈ (t.core c).eng.cls[cls], y.seq < m.seq)))) ∧
    (∀ m l, k.eng.cls[cls] = m :: l → m.fin = true → k.advanced m = true → k.heldAll = false → NextWith (exec (.engineCommandComplete c cls) s) (fun t =>
      (t.core c).eng.cls[cls] = l ∧ (t.core c).eng.ntag[m.tag.toFin] = k.eng.ntag[m.tag.toFin] - 1 ∧ (∀ i, i ≠ m.tag.toFin → (t.core c).eng.ntag[i] = k.eng.ntag[i]) ∧
      (t.core c).fr = k.fr ∧ (t.core c).scr = k.scr ∧ SameOutside c s t)) ∧
    (∀ q x j d, s.ctx q = some x → x.contrib[j]? = some d → (x.latch[d.entry]).st = 1 → (x.latch[d.entry]).got + 1 < (x.latch[d.entry]).n →
      NextWith (exec (.latchContribution q j) s) (fun t => ∃ x', t.ctx q = some x' ∧ x'.contrib = x.contrib.eraseIdx j ∧ (x'.latch[d.entry]).st = 1 ∧
        (x'.latch[d.entry]).got = (x.latch[d.entry]).got + 1 ∧
        (∀ i : Fin 256, ((x'.latch[d.entry]).cnt[i]).toNat = min (2 ^ 32 - 1) (((x.latch[d.entry]).cnt[i]).toNat + d.bins.getD i.val 0)) ∧
        (∀ i : Fin 16, i ≠ d.entry → x'.latch[i] = x.latch[i]) ∧ t.mem = s.mem)) ∧
    (∀ i h, k.eng.watch = some (false, i, h) → k.stopped = false → k.armed = true → NextWith (exec (.engineWatchReport c) s) (fun t =>
      (t.core c).dbg.stat.getLsbD 0 = true ∧ (t.core c).fr = k.fr ∧ t.mem = s.mem))

/-! ## Vanik -/

/-- R245, R246, R252, R253, R250, R251, R280, R288: the control forms of a graph outside a fused group and with nothing to repeat: GJMP, GBR and GCALL go to VPC + OFF, GRET to what GCALL pushed;
GLOOP passes an empty loop by and opens any other, GENDL goes round or closes it; GEND of a finished body ends the graph; TRAPH sets the handler; the three TRAPRET forms leave the
handler for RVPC, the trapped instruction or a target; FMTSET and FMTLOOP set an entry and the level; FUSE opens a group and FUSEND of an empty one closes it. -/
def Obligations.GraphControlForms : Prop :=
  ∀ (s : State) (q : Fin 16) (x : Ctx), Decodes s q x →
    let at_ (y : Ctx) : Host.Outcome State Fault Refusal := .next (s.setCtx q y)
    let next (y : Ctx) : Host.Outcome State Fault Refusal := .next (s.setCtx q { y with vpc := x.nvpc })
    let dest (off : Word) : BitVec 48 := x.vpc + off.truncate 48
    (x.reexec = [] →
      (∀ off, exec (.gjmp off) s = at_ { x with vpc := dest off }) ∧
      (∀ g inv off, exec (.gbr g inv off) s = if x.g.getLsbD g.toNat = inv then next x else at_ { x with vpc := dest off }) ∧
      (∀ off, x.calls.length < 16 → exec (.gcall off) s = at_ { x with calls := (x.avpc, x.ldepth) :: x.calls, vpc := dest off }) ∧
      (∀ off, 16 ≤ x.calls.length → exec (.gcall off) s = .next (s.ctxTrap q .stack 0 none 0x03 0 0 x.nvpc)) ∧
      (∀ v l, x.calls = (v, x.ldepth) :: l → exec .gret s = at_ { x with calls := l, vpc := v }) ∧
      (x.calls = [] → exec .gret s = .next (s.ctxTrap q .stack 0 none 0x04 0 0 x.nvpc)) ∧
      (∀ c count exit, (x.sop count).toInt ≤ 0 → exec (.gloop c count exit) s = at_ { x with vpc := dest exit }) ∧
      (∀ c count exit, 0 < (x.sop count).toInt → x.ldepth < 8 → exec (.gloop c count exit) s =
        next { x with n := x.n.set c.toFin 0, loops := (c, x.sop count, x.avpc) :: x.loops, ldepth := x.ldepth + 1 }) ∧
      (∀ c n start l, x.loops = (c, n, start) :: l → let v := x.n[c.toFin] + 1
        exec .gendl s = if v.toInt < n.toInt then at_ { x with n := x.n.set c.toFin v, vpc := start }
          else next { x with n := x.n.set c.toFin v, loops := l, ldepth := x.ldepth - 1 }) ∧
      (x.calls = [] → x.ldepth = 1 → x.invs = [] → x.reply = 0 → s.queueOf x = none → NextWith (exec .gend s) (fun t => ∃ y, t.ctx q = some y ∧ y.done = true ∧
        y.ldepth = 0 ∧ y.n = x.n ∧ t.mem = s.mem ∧ t.cores = s.cores)) ∧
      (∀ off, exec (.traph off) s = next { x with th := if off = 0 then 0 else dest off }) ∧
      (∀ i v, ftBad v = none → exec (.fmtset i v) s = next { x with ft := x.ft.set i.toFin v }) ∧
      (∀ i v b, ftBad v = some b → exec (.fmtset i v) s = .next (s.ctxTrap q .format (BitVec.ofNat 64 (b % 256)) none 0x09 0 0 x.nvpc)) ∧
      (∀ l en b, (en = true → l.toNat < 6) → NextWith (exec (.fmtloop l en b) s) (fun t => ∃ y, t.ctx q = some y ∧ y.vpc = x.nvpc ∧ y.ft = x.ft ∧
        bits (y.ftb.zeroExtend 64) 2 0 = l.toNat ∧ y.ftb.getLsbD 3 = en ∧ bits (y.ftb.zeroExtend 64) 7 4 = b.toNat)) ∧
      (∀ keep, exec (.fuse keep) s = next { x with fuse := some { keep := keep, vpc := x.vpc, mem := [] } }) ∧
      (exec .fusend s = .next (s.ctxTrap q .vbcIllegal 0 none 0x31 0 0 x.nvpc))) ∧
    (x.intrap = true → x.trapD = (x.calls.length, x.ldepth) → x.held = [] →
      NextWith (exec .trapretRvpc s) (fun t => ∃ y, t.ctx q = some y ∧ y.intrap = false ∧ y.vpc = x.rvpc ∧ y.n = x.n ∧ t.mem = s.mem ∧ t.cores = s.cores) ∧
      NextWith (exec .trapretReexec s) (fun t => ∃ y, t.ctx q = some y ∧ y.intrap = false ∧ y.vpc = x.fvpc ∧ y.reexec.head? = some x.rvpc ∧ y.n = x.n ∧ t.mem = s.mem ∧
        t.cores = s.cores) ∧
      (∀ v, NextWith (exec (.trapretTarget v) s) (fun t => ∃ y, t.ctx q = some y ∧ y.intrap = false ∧ y.vpc = (x.sop v).truncate 48 ∧ y.n = x.n ∧ t.mem = s.mem ∧
        t.cores = s.cores))) ∧
    (x.intrap = false → ∀ i, (i = Instr.trapretRvpc ∨ i = Instr.trapretReexec ∨ ∃ v, i = Instr.trapretTarget v) →
      exec i s = .next (s.ctxTrap q .vbcIllegal 0 none 0x08 0 0 x.nvpc)) ∧
    (∀ b, NextWith (exec (.unassignedOpcode b) s) (fun t => ∀ y, t.ctx q = some y → y.lcause = Cause.code .vbcIllegal)) ∧
    (∀ v, NextWith (exec (.vbcFetch v) s) (fun t => ∀ y, t.ctx q = some y → y.lcause = Cause.code .vbcFetch))

/-- R280, R281: FUSEND of a group with no member closes the group and issues nothing; of a group of members it issues one invocation of them all, with the distinct handles as its
operands, and raises HANDLE where those are more than eight. R256 to R260, R293, R294, R240, R284, R285: an operator form (MATMUL and
its grouped form, EWISE, UNARY, NORM, SOFTMAX, REDUCE, ATTN, GATHER, SCATTER, TOPK, ROUTE, CAST, QUANT and its fixed form, DEQUANT, TRANSP, CONCAT, COPY,
FILL, LUF, CHOLF, QRF, TRSM, OPX) whose checks pass and for which a place in flight and an area are free puts one invocation in flight with its fields,
operands and format table, zeroes its area, and the graph goes on; WSLOAD, ALLRED, ALLGATH, REDSCAT, ALLTOALL, SEND and RECV do so without an area; a form
that fails a check raises that check's trap; inside a fused group a form that keeps its rules joins the group. -/
def Obligations.OperatorsEnterFlight : Prop :=
  (∀ (s : State) (q : Fin 16) (x : Ctx) (g : FGroup), s.cur = .seq q → s.ctx q = some x → x.fuse = some g → g.mem = [] →
     exec .fusend s = .next (s.setCtx q { x with fuse := none, vpc := x.nvpc, reexec := x.reexec.tail })) ∧
  (∀ (s : State) (q : Fin 16) (x : Ctx) (g : FGroup) (f : OpForm) (l : List OpForm) (recs : List (List Opnd)), s.cur = .seq q → s.ctx q = some x → x.fuse = some g →
     g.mem = f :: l → g.mem.map (fun f => x.recsOf f.ts) = recs.map .ok →
     let os := mergeOpnds recs.flatten
     (8 < os.length → ∃ h, exec .fusend s = .next (s.ctxTrap q .handle 0 h 0x31 0 0 x.nvpc)) ∧
     (os.length ≤ 8 → (0x40 ≤ f.op.toNat ∧ f.op.toNat ≤ 0x55 ∨ f.op = 0xFF) → (∀ e, f.latchR = some e → (x.latch[Fin.ofNat 16 e]).st ≠ 0) → x.invs.length < 32 →
       ∀ img pm s0 a w u, (∀ r, recs.head? = some r → (x.lookup f (r.map (·.tr))).getD none = img) → s.prep q x .kernel (x.lazyNeeds os f) [] = .ok pm s0 →
         heapFit x.heap x.allocs 8192 = some a → s0.zeroArea q x 3 a 8192 = .val w u → (img ≠ none ∨ decodeRows f os = none) →
         NextWith (exec .fusend s) (fun t => ∃ y v, t.ctx q = some y ∧ v ∈ y.invs ∧ v.uid = x.ninv ∧ v.stages = g.mem ∧ v.keep = g.keep ∧ v.opnds = os ∧ v.vpc = g.vpc ∧
           v.opcode = f.op ∧ v.ft = x.ft ∧ v.ftb = x.ftb ∧ v.mbox = x.mboxP ∧ v.img = img ∧ v.area = a ∧ y.fuse = none ∧ y.invs.length = x.invs.length + 1 ∧
           y.ninv = x.ninv + 1 ∧ y.vpc = x.nvpc ∧ y.n = x.n))) ∧
  (∀ (i : Instr) (s : State) (q : Fin 16) (x : Ctx) (f : OpForm), s.cur = .seq q → s.ctx q = some x → opForm x i = some f →
     let flying (t : State) (os : List Opnd) (img : Option (BitVec 16)) (area : Nat) : Prop := ∃ y v, t.ctx q = some y ∧ v ∈ y.invs ∧ v.uid = x.ninv ∧ v.opcode = f.op ∧
       v.opx = f.opx ∧ v.fld = f.fld ∧ v.args = f.args ∧ v.opnds = os ∧ v.ft = x.ft ∧ v.ftb = x.ftb ∧ v.mbox = x.mboxP ∧ v.vpc = x.vpc ∧ v.img = img ∧ v.area = area ∧
       y.ninv = x.ninv + 1 ∧ y.vpc = x.nvpc ∧ y.n = x.n
     let isOp : Bool := decide (0x40 ≤ f.op.toNat ∧ f.op.toNat ≤ 0x55) || f.op == 0xFF
     (x.fuse = none → (∀ os img low pm s0, s.checkOp x f = .ok (os, img, low) → (∀ e, f.latchR = some e → (x.latch[Fin.ofNat 16 e]).st ≠ 0) → x.invs.length < 32 →
       s.prep q x .kernel (x.lazyNeeds os f) [] = .ok pm s0 →
       (isOp = true → ∀ a w u, heapFit x.heap x.allocs 8192 = some a → s0.zeroArea q x 3 a 8192 = .val w u → (img ≠ none ∨ decodeRows f os = none) →
         NextWith (exec i s) (fun t => flying t os img a)) ∧
       (isOp = false → NextWith (exec i s) (fun t => flying t os none 0)))) ∧
     (x.fuse = none → ∀ c v h, s.checkOp x f = .error (c, v, h) → exec i s = .next (s.ctxTrap q c (BitVec.ofNat 64 v) h f.op f.opx 0 x.nvpc)) ∧
     (∀ g r, x.fuse = some g → isOp = true → g.mem.length < 8 → groupOk g f = true → s.checkOp x f = .ok r →
       exec i s = .next (s.setCtx q { x with fuse := some { g with mem := g.mem ++ [f] }, vpc := x.nvpc, reexec := x.reexec.tail })))

/-- R247, R249, R216, R13: the shape forms write their register with the exact result and raise SHAPE, naming the operation and changing no register, where R247 says; NCMP writes its one flag,
NMB its mailbox, NDIM a field of a bound handle's record; nothing else of the context changes but where it decodes, and memory and every core stand. -/
def Obligations.ShapeForms : Prop :=
  ∀ (s : State) (q : Fin 16) (x : Ctx), Decodes s q x →
    let next (y : Ctx) : Host.Outcome State Fault Refusal := .next (s.setCtx q { y with vpc := x.nvpc, reexec := x.reexec.tail })
    let put (d : BitVec 6) (v : Word) : Host.Outcome State Fault Refusal := next { x with n := x.n.set d.toFin v }
    (∀ d v, exec (.nli d v) s = put d v) ∧
    (∀ i u, naluSays i = some u → exec i s =
      match u.f (x.sop u.a).toInt (x.sop u.b).toInt with
      | some z => if -(2 ^ 63 : Int) ≤ z ∧ z < 2 ^ 63 then put u.d (BitVec.ofInt 64 z) else .next (s.ctxTrap q .shape (BitVec.ofNat 64 u.code) none 0x11 0 0 x.nvpc)
      | none => .next (s.ctxTrap q .shape (BitVec.ofNat 64 u.code) none 0x11 0 0 x.nvpc)) ∧
    (∀ cc g a b, cc.toNat < 6 →
      let u := (x.sop a).toInt
      let v := (x.sop b).toInt
      let holds : Bool := [decide (u = v), decide (u ≠ v), decide (u < v), decide (u ≤ v), decide (v < u), decide (v ≤ u)].getD cc.toNat false
      NextWith (exec (.ncmp cc g a b) s) (fun t => ∃ y, t = s.setCtx q { x with g := y, vpc := x.nvpc, reexec := x.reexec.tail } ∧
        ∀ i, i < 8 → y.getLsbD i = if i = g.toNat then holds else x.g.getLsbD i)) ∧
    (∀ i v, exec (.nmb i v) s = next { x with mboxP := x.mboxP.set i.toFin (x.sop v) }) ∧
    (∀ d dim sel t h, x.hnd t = some h → sel.toNat < 4 → exec (.ndim d dim sel t) s = put d
      (match sel.toNat with
       | 0 => BitVec.ofNat 64 (h.tr.dim.getD dim.toNat 1)
       | 1 => BitVec.ofInt 64 (h.tr.str.getD dim.toNat 0)
       | 2 => BitVec.ofNat 64 h.tr.base
       | _ => BitVec.ofNat 64 h.tr.rank)) ∧
    (∀ d dim sel t, x.hnd t = none → exec (.ndim d dim sel t) s = .next (s.ctxTrap q .handle 0 (some t) 0x15 0 0 x.nvpc)) ∧
    (∀ d, exec (.ndimCsw d) s = put d x.csw)

/-- R248, R235 to R239, R242, R243: memory, handles and kernels of a graph: NLD and NST read and write their bytes; TDECL binds a handle to a sound record, TVIEW to a part of another's,
TALLOC gives it heap and writes its base into its record, TFREE unbinds it and frees what it owns; RFENCE reads a record again; KLOAD loads an image and gives its number, KBIND enters it
in the kernel table. -/
def Obligations.GraphMemoryAndHandles : Prop :=
  ∀ (s : State) (q : Fin 16) (x : Ctx), Decodes s q x →
    let next (u : State) (y : Ctx) : Host.Outcome State Fault Refusal := .next (u.setCtx q { y with vpc := x.nvpc, reexec := x.reexec.tail })
    let fail (op : BitVec 8) (c : Cause) (v : Word) (h : Option (BitVec 8)) : Host.Outcome State Fault Refusal := .next (s.ctxTrap q c v h op 0 0 x.nvpc)
    (∀ d sx sz addr v u, s.seqRead q x none false (x.sop addr).toNat (2 ^ sz.toNat) = .val v u →
      exec (.nld d sx sz none addr) s = next u { x with n := x.n.set d.toFin (extLoad sx (2 ^ sz.toNat) v) }) ∧
    (∀ d sx sz t addr h lo hi v u, x.hnd t = some h → x.unpublished x.ninv h.root = false → s.spanOf x h.tr = some (lo, hi) → lo ≤ ((x.sop addr).toNat : Int) →
      (((x.sop addr).toNat + 2 ^ sz.toNat - 1 : Nat) : Int) ≤ hi → s.seqRead q x none true (x.sop addr).toNat (2 ^ sz.toNat) = .val v u →
      exec (.nld d sx sz (some t) addr) s = next u { x with n := x.n.set d.toFin (extLoad sx (2 ^ sz.toNat) v) }) ∧
    (∀ sz addr v w u, s.seqWrite q x false (x.sop addr).toNat (2 ^ sz.toNat) ((x.sop v).toNat % 2 ^ (8 * 2 ^ sz.toNat)) = .val w u → exec (.nst sz addr v) s = next u x) ∧
    (∀ t rel addr r u, x.names t = false → s.readRec q x ((x.sop addr + if rel then x.vpc.zeroExtend 64 else 0).toNat) (fun r s => .val r s) = .val r u →
      exec (.tdecl t rel addr) s = next u (x.setHnd t { addr := some ((x.sop addr + if rel then x.vpc.zeroExtend 64 else 0).toNat), root := x.newRoot t, tr := recOf r, own := none })) ∧
    (∀ v src d start len h, x.hnd src = some h → d.toNat < h.tr.rank → 0 ≤ (x.sop start).toInt → 0 ≤ (x.sop len).toInt →
      (x.sop start).toInt + (x.sop len).toInt ≤ h.tr.dim.getD d.toNat 1 → (codeWidth h.tr.fmt = 4 → (x.sop start).toInt * h.tr.str.getD d.toNat 0 % 2 = 0) → NextWith (exec (.tview v src d start len) s) (fun t =>
        ∃ y w, t.ctx q = some y ∧ y.hnd v = some w ∧ w.addr = none ∧ w.root = h.root ∧ w.own = none ∧ w.tr.dim = h.tr.dim.set d.toNat (x.sop len).toInt.toNat ∧
          w.tr.str = h.tr.str ∧ w.tr.fmt = h.tr.fmt ∧
          (w.tr.base : Int) = (h.tr.base + Int.fdiv ((x.sop start).toInt * h.tr.str.getD d.toNat 0 * codeWidth h.tr.fmt) 8) % 2 ^ 48 ∧ y.vpc = x.nvpc ∧ t.mem = s.mem)) ∧
    (∀ v src d start len, x.hnd src = none → exec (.tview v src d start len) s = fail 0x21 .handle 0 (some src)) ∧
    (∀ t h a b w u, x.hnd t = some h → h.addr = some a → h.tr.base = 0 → (∀ e ∈ h.tr.str, 0 ≤ e) → h.tr.scl = false → heapFit x.heap x.allocs h.tr.heapNeed.2 = some b →
      s.seqWrite q x false a 8 b = .val w u → exec (.talloc t) s =
        next u { (x.setHnd t { h with tr := { h.tr with base := b }, own := some (b, h.tr.heapNeed.2) }) with allocs := x.allocs ++ [(b, h.tr.heapNeed.2)] }) ∧
    (∀ t h a b w u w' u', x.hnd t = some h → h.addr = some a → h.tr.base = 0 → (∀ e ∈ h.tr.str, 0 ≤ e) → h.tr.scl = true → heapFit x.heap x.allocs h.tr.heapNeed.2 = some b →
      s.seqWrite q x false a 8 b = .val w u → u.seqWrite q x false (a + 88) 8 (b + h.tr.heapNeed.1) = .val w' u' → exec (.talloc t) s =
        next u' { (x.setHnd t { h with tr := { h.tr with base := b, sbase := b + h.tr.heapNeed.1 }, own := some (b, h.tr.heapNeed.2) }) with
          allocs := x.allocs ++ [(b, h.tr.heapNeed.2)] }) ∧
    (∀ t h a, x.hnd t = some h → h.addr = some a → x.names t = false → NextWith (exec (.tfree t) s) (fun u => ∃ y, u.ctx q = some y ∧ y.hnd t = none ∧
      (∀ o, h.own = some o → o ∉ y.allocs) ∧ y.vpc = x.nvpc ∧ u.mem = s.mem)) ∧
    (∀ t h a r u, x.hnd t = some h → h.addr = some a → u.ctx q = some x → s.readRec q x a (fun r s => .val r s) = .val r u →
      exec (.rfence t) s = next u (x.setHnd t { h with tr := recOf r })) ∧
    ((∀ h ∈ x.hnds, h.2.addr = none) → exec .rfenceAll s = next s x) ∧
    (∀ t h a r u, x.hnds = [(t, h)] → t < 256 → h.addr = some a → u.ctx q = some x → s.readRec q x a (fun r s => .val r s) = .val r u →
      exec .rfenceAll s = next u (x.setHnd (BitVec.ofNat 8 t) { h with tr := recOf r })) ∧
    (∀ d addr h0 u0 v u, (x.sop addr).toNat % 64 = 0 → s.seqLines q x 1 (x.sop addr).toNat [] (fun l s => .val (leNat l) s) = .val h0 u0 →
      let size := h0 / 2 ^ 32 % 2 ^ 32
      size % 32 = 0 → 64 ≤ size → size ≤ 262144 → s.seqLines q x ((size + 63) / 64) (x.sop addr).toNat [] (fun l s => .val (leNat l) s) = .val v u →
      let g : Img := { num := 0, code := ((leBytes size v).zipIdx).foldl (fun (m : Mem) b => m.set b.2 b.1) [], size := size, dies := teamDies x.team, ofs := 0, sysv := false }
      g.get 14 1 = 0 → g.headOk = true → g.crcOk = true → ∀ o w, u.wcsRoom g.dies size u.imgs.length = some (o, w) → NextWith (exec (.kload d addr) s) (fun t =>
        ∃ y n, t.ctx q = some y ∧ y.n = x.n.set d.toFin (n.zeroExtend 64) ∧ y.vpc = x.nvpc ∧ t.imgs = w.imgs ++ [{ g with num := n, ofs := o }])) ∧
    (∀ key sig img g, (0x40 ≤ key.toNat ∧ key.toNat ≤ 0x55) ∨ 0x100 ≤ key.toNat → (x.sop img).toNat < 65536 → g ∈ s.imgs → g.num = (x.sop img).truncate 16 →
      teamDies x.team &&& ~~~ g.dies = 0 → x.kt.length < 512 → NextWith (exec (.kbind key sig img) s) (fun t => ∃ y, t.ctx q = some y ∧
        (key, sig, (x.sop img).truncate 16) ∈ y.kt ∧ (∀ e ∈ y.kt, e.1 = key → e.2.1 = sig → e.2.2 = (x.sop img).truncate 16) ∧
        (∀ e, ¬ (e.1 = key ∧ e.2.1 = sig) → (e ∈ y.kt ↔ e ∈ x.kt)) ∧ y.vpc = x.nvpc ∧ t.mem = s.mem))

/-- R287 to R289, R435, R449, R253, R260: SIGNAL with no operator in flight performs its one atomic; WAITSIG and its wake put the word that satisfies the condition in the register and go on, and wait
otherwise; a wait that a write at the home has met takes that write's word; OPFENCE with nothing in flight and nothing outstanding has no effect; a serving context that waits takes the next packet, and stays parked while there is none and during a live update; a held
kernel fault is delivered at a boundary; an invocation whose tasks are done leaves the flight with its outputs published. -/
def Obligations.SignalsFencesAndCompletion : Prop :=
  ∀ (s : State) (q : Fin 16) (x : Ctx),
    let next (u : State) (y : Ctx) : Host.Outcome State Fault Refusal := .next (u.setCtx q { y with vpc := x.nvpc, reexec := x.reexec.tail })
    (Decodes s q x →
      (∀ addr v w u, x.invs = [] → s.signalAtom q x (x.sop addr).toNat 0 (x.sop v) = .val w u → exec (.signalSet addr v) s = next u x) ∧
      (∀ addr v w u, x.invs = [] → s.signalAtom q x (x.sop addr).toNat 1 (x.sop v) = .val w u → exec (.signalAdd addr v) s = next u x) ∧
      (∀ cc d addr v w u, s.seqRead q x none true (x.sop addr).toNat 8 = .val w u → exec (.waitsig cc d addr v) s =
        if sigHolds cc (BitVec.ofNat 64 w) (x.sop v) then next u { x with n := x.n.set d.toFin (BitVec.ofNat 64 w) }
        else .next (u.setCtx q { x with sigWait := some (cc, d, (x.sop addr).toNat, x.sop v), sigHit := none })) ∧
      (∀ scope, x.invs = [] → s.plat.reqs = [] → exec (.opfence scope) s = next s x) ∧
      (∀ scope, x.invs ≠ [] → exec (.opfence scope) s = .next s)) ∧
    (s.ctx q = some x →
      (∀ cc d a v w, x.sigWait = some (cc, d, a, v) → x.sigHit = some w →
        exec (.waitsigWake q) s = next s { x with n := x.n.set d.toFin w, sigWait := none, sigHit := none }) ∧
      (∀ cc d a v w u, x.sigWait = some (cc, d, a, v) → x.sigHit = none → s.seqRead q x none true a 8 = .val w u → sigHolds cc (BitVec.ofNat 64 w) v = true →
        exec (.waitsigWake q) s = next u { x with n := x.n.set d.toFin (BitVec.ofNat 64 w), sigWait := none }) ∧
      (x.awaits = true → bit s.plat.fwctl 2 = true → exec (.servingContextWake q) s = .next s) ∧
      (∀ k, x.awaits = true → bit s.plat.fwctl 2 = false → s.queueOf x = some k → bits (s.queueW k 2) 31 0 ≠ bits (s.queueW k 2) 63 32 → Regs.wf s.plat.queues = true →
        NextWith (exec (.servingContextWake q) s) (fun t => ∃ y, t.ctx q = some y ∧ y.awaits = false ∧ y.ldepth = 1 ∧
          bits (t.queueW k 2) 31 0 = (bits (s.queueW k 2) 31 0 + 1) % 2 ^ 32 ∧ t.cores = s.cores ∧ t.mem = s.mem)) ∧
      (∀ k, x.awaits = true → s.queueOf x = some k → bits (s.queueW k 2) 31 0 = bits (s.queueW k 2) 63 32 → exec (.servingContextWake q) s = .next s) ∧
      (∀ r l, x.exp = none → x.fuse = none → x.parked = false → x.intrap = false → x.th = 0 → x.held = r :: l → NextWith (exec (.kernelFaultDelivery q) s) (fun t =>
        ∃ y, t.ctx q = some y ∧ y.parked = true ∧ y.lcause = r.cause.code ∧ y.frep = some r ∧ y.held = l ∧ y.rvpc = x.vpc ∧ t.mem = s.mem)) ∧
      (∀ k i, x.invs[k]? = some i → s.idleInv q x i = true → i.aborted = false → i.img ≠ none → i.ended = true → s.parts = [] →
        NextWith (exec (.invocationComplete q k) s) (fun t => ∃ y, t.ctx q = some y ∧ (∀ j ∈ y.invs, j.uid ≠ i.uid) ∧ y.n = x.n ∧ y.vpc = x.vpc ∧ t.mem = s.mem ∧
          t.cores = s.cores)))

/-! ## Events -/

/-- R378, R419, R458: a corrected error adds one to its counter, which never wraps; an uncorrectable word of HBM that ECC caught in passing is only marked,
one in a place no phase meets is counted, and one met by an idle core is counted. R11, R12, R108, R291, R292, R309, R311, R317, R325, R340, R384 to R386,
R455 to R457: contexts, dispatch and the events that act on cores: a context is created as its configuration says; it becomes active or goes on; a team changes;
a request for pre-emption stands and is withdrawn, and cores it had frozen go on; a core that must stop freezes, or is saved when it has drained; a saved task is restored; a chunk is handed
to the first free core; a window's first event sets the clocks and budgets, or ends every process where a die is as hot as its limit; an overdue task faults; the refresh group follows TB; a shootdown empties the translation
caches of its range; a resolved page ends the wait. The model's choices among these: when a hard pre-emption freezes and when it saves (log 70), the core that a restore takes (log 69), that
a create with a used tag does nothing (log 97), where an activated context goes on (log 121), errors in places no phase meets (log 93), sensors and the first event of a window
(log 92). -/
def Obligations.ContextAndCoreEvents : Prop :=
  (∀ (s : State),
     (∀ code : Fin 12, NextWith (exec (.correctableError code) s) (fun t =>
       (s.plat.ce[code] ≠ BitVec.allOnes 64 → t.plat.ce[code] = s.plat.ce[code] + 1) ∧ (s.plat.ce[code] = BitVec.allOnes 64 → t.plat.ce[code] = s.plat.ce[code]) ∧
       (∀ d : Fin 12, d ≠ code → t.plat.ce[d] = s.plat.ce[d]) ∧ t.cores = s.cores ∧ t.mem = s.mem ∧ t.osqs = s.osqs)) ∧
     (∀ e, e.code = 2 → e.hard = false → exec (.uncorrectableError e) s = .next s) ∧
     (∀ e, e.code = 2 → e.hard = true → NextWith (exec (.uncorrectableError e) s) (fun t => s.readKey (s.frameIlv e.addr.toNat) (e.addr.toNat / 64 * 64) ∈ t.ueMarks ∧
       t.cores = s.cores ∧ t.mem = s.mem)) ∧
     (∀ e, (e.code = 3 ∨ e.code = 9) → e.hard = false → NextWith (exec (.uncorrectableError e) s) (fun t =>
       (s.plat.ue[e.code] ≠ BitVec.allOnes 64 → t.plat.ue[e.code] = s.plat.ue[e.code] + 1) ∧ t.cores = s.cores ∧ t.mem = s.mem ∧ t.osqs = s.osqs)) ∧
     (∀ e c, (e.code.val < 2 ∨ (4 ≤ e.code.val ∧ e.code.val ≤ 8)) → e.unit = .core c → (s.core c).task = none → s.plat.rmode = false →
       NextWith (exec (.uncorrectableError e) s) (fun t =>
         (s.plat.ue[e.code] ≠ BitVec.allOnes 64 → t.plat.ue[e.code] = s.plat.ue[e.code] + 1) ∧ t.cores = s.cores ∧ t.mem = s.mem ∧ t.osqs = s.osqs))) ∧
  (∀ (s : State) (q : Fin 16) (c : Fin 320),
     (∀ g, s.plat.recov = false → s.plat.off = false → (∀ r x, s.ctx r = some x → x.tag ≠ g.tag ∧ x.slot ≠ g.slot) → (∀ x ∈ s.dorm, x.tag ≠ g.tag ∧ x.slot ≠ g.slot) →
       (∀ d ∈ s.plat.dumps, d.done = true) →
       NextWith (exec (.contextCreate g) s) (fun t => t.cores = s.cores ∧ ∃ x, t.dorm = s.dorm ++ [x] ∧ x.tag = g.tag ∧ x.slot = g.slot ∧ x.root = g.root ∧ x.proc = g.process ∧
         x.vpc = g.entry ∧ x.sysv = g.sys ∧ x.team = g.team ∧ x.quota = g.quota ∧ x.n = Vector.replicate 64 0 ∧ x.ft = Vector.replicate 16 0x101 ∧ x.g = 0 ∧ x.ldepth = 1 ∧
         x.calls = [] ∧ x.hnds = [] ∧ x.kt = [] ∧ x.th = 0 ∧ x.parked = false ∧ x.intrap = false)) ∧
     (∀ x, s.ctx q = some x → x.saved = [] → exec (.contextActivate q x.tag) s = .next ((s.setCtx q { x with parked := false, preReq := none }).thaw q)) ∧
     (∀ y tag, s.ctx q = none → s.dorm = [y] → y.tag = tag → y.saved = [] → s.areaOk y.area.toNat ctxPages = true →
       NextWith (exec (.contextActivate q tag) s) (fun t => t.dorm = [] ∧ t.cores = s.cores ∧ t.mem = s.mem ∧ ∃ z, t.ctx q = some z ∧ z.tag = y.tag ∧ z.vpc = y.vpc ∧ z.n = y.n ∧
         z.ft = y.ft ∧ z.hnds = y.hnds ∧ z.invs = y.invs ∧ z.parked = false ∧ z.preReq = none)) ∧
     (∀ x map, s.ctx q = some x → x.invs = [] → map ≠ 0 → (∀ e ∈ x.kt, ∃ g, s.img e.2.2 = some g ∧ teamDies map &&& ~~~ g.dies = 0) →
       exec (.teamChange q map) s = .next (s.setCtx q { x with team := map })) ∧
     (∀ x map, s.ctx q = some x → x.invs ≠ [] → exec (.teamChange q map) s = .next s) ∧
     (∀ x, s.ctx q = some x → x.preReq = none → NextWith (exec (.preemptionRequest q) s) (fun t => t.ctx q = some { x with preReq := some s.tb.toNat } ∧ t.mem = s.mem ∧
       ∀ d, (t.core d).fr = (s.core d).fr ∧ (t.core d).task = (s.core d).task)) ∧
     (∀ x, s.ctx q = some x → exec (.preemptionWithdraw q) s = .next ((s.setCtx q { x with preReq := none }).thaw q)) ∧
     (∀ k, (s.core c).task = some k → k.osq = q → ((s.thaw q).core c).task = some { k with frozen := false } ∧ ((s.thaw q).core c).fr = (s.core c).fr) ∧
     (s.hardDue c = true → s.drained c = false → NextWith (exec (.hardPreemption c) s) (fun t => (∃ k, (s.core c).task = some k ∧ (t.core c).task = some { k with frozen := true }) ∧
       (t.core c).fr = (s.core c).fr ∧ SameOutside c s t)) ∧
     (∀ k i x, s.hardDue c = true → s.drained c = true → (s.core c).task = some k → s.taskInv c = some i → s.ctx k.osq = some x →
       NextWith (exec (.hardPreemption c) s) (fun t => (t.core c).task = none ∧ (∃ y, t.ctx k.osq = some y ∧ y.saved.length = x.saved.length + 1) ∧
         ∃ v, t.saves = s.saves ++ [v] ∧ v.soft = false ∧ v.k = s.core c)) ∧
     (∀ area x v t i l w, s.ctx q = some x → area ∈ x.saved → x.preReq = none → s.saves.find? (fun v => v.area == area.toNat) = some v →
       s.areaOk area.toNat corePages = true → (∃ r, s.freeCores x = c :: r) → v.k.task = some t → x.inv t.inv = some i → s.plat.clkPend = none →
       (let t' : Task := { t with osq := q, parked := false, frozen := false, stopping := none }
        (s.setCore c { ((s.core c).restored v.k i v.soft v.live).closed x with
           k := (v.k.k).set 7 (setBits (v.k.k[7]) 8 0 c.val), tilectx := x.tag, task := some t', idle := s.tb.toNat, wper := s.plat.wdog, mbox := v.k.mbox }).rebuild c t') = .ok l w →
       NextWith (exec (.taskResume q area) s) (fun u => (u.core c).fr = (w.core c).fr ∧ (u.core c).arr = (w.core c).arr ∧ (u.core c).task = (w.core c).task ∧
         (v.soft = false → u.core c = w.core c) ∧ (∀ y, u.ctx q = some y → area ∉ y.saved) ∧ (∀ z ∈ u.saves, z.area ≠ area.toNat))) ∧
     (s.plat.clkPend = none → s.plat.off = false → ∀ x w0 w l, (s.armRecs q).ctx q = some x → x.preReq = none → s.freeCores x = c :: l →
       (x.offers s.tb.toNat).head? = some w0 →
       (w0.overdue s.tb.toNat = true ∨ ∃ o, w0.offer = some o ∧ (s.armRecs q).charge w0 o.2 ≤ ((s.armRecs q).dies[Fin.ofNat 4 (c.val / 80)]).budget) → (s.armRecs q).eligible x c = some w → (∀ r, r ≠ q → s.ctx r = none) →
       exec (.chunkDispatch q) s = .next ((s.armRecs q).handOut q x w c)) ∧
     (s.plat.clkPend ≠ none → exec (.chunkDispatch q) s = .next s) ∧
     (windowOf s.tb.toNat ≠ s.plat.window → NextWith (exec .energyWindow s) (fun t => t.plat.window = windowOf s.tb.toNat ∧
       (s.plat.off = false → (∃ d : Fin 5, 16 * bits t.plat.therm[d] 47 40 ≤ bits t.plat.therm[d] 15 0) → t.plat.off = true ∧ t.plat.thermN = true) ∧
       ((s.plat.off = true ∨ ∀ d : Fin 5, bits t.plat.therm[d] 15 0 < 16 * bits t.plat.therm[d] 47 40) → t.plat.off = s.plat.off ∧ t.plat.clkPend = none ∧
         t.plat.lpt = s.plat.clkPend.getD s.plat.lpt ∧ (t.plat.lpt ≠ 0 → ∀ d : Fin 4, ((t.dies[d]).mhz).toNat = 800 + 400 * t.plat.lpt.toNat) ∧
         (∀ d : Fin 4, ((t.dies[d]).mhz).toNat ≤ 2000 ∧ ((t.dies[d]).mhz).toNat % 100 = 0) ∧
         (s.rec_ = false → ∀ d : Fin 4, (t.dies[d]).budget ≤ bits s.plat.govBud[d] 31 0 ∧ (16 * bits t.plat.therm[d.castSucc] 39 32 ≤ bits t.plat.therm[d.castSucc] 15 0 →
           (t.dies[d]).budget ≤ bits s.plat.govBud[d] 31 0 / 2)) ∧ t.cores = s.cores ∧ t.mem = s.mem))) ∧
     (windowOf s.tb.toNat = s.plat.window → exec .energyWindow s = .next s) ∧
     (∀ k, (s.core c).task = some k → (s.core c).counting = true → (s.core c).wper + (s.core c).idle ≤ s.tb.toNat → ∃ x, exec (.watchdog c) s = .next (s.kernelFault c x) ∧ x.cause = .watchdog) ∧
     ((s.core c).task = none → exec (.watchdog c) s = .next s) ∧
     (NextWith (exec .wsRefresh s) (fun t => t.plat.rgrp = s.tb.toNat / 2000 % 16 ∧ t.cores = s.cores ∧ t.mem = s.mem)) ∧
     (∀ slot va len, (∀ d, (s.core d).task = none) → NextWith (exec (.shootdown slot va len) s) (fun t => t.cores = s.cores ∧ t.mem = s.mem ∧
       ∀ (d : Fin 4) e, e ∈ (t.dies[d]).tlb ↔ e ∈ (s.dies[d]).tlb ∧ ¬ (e.1 = slot ∧ e.2.1 < va.toNat + len.toNat ∧ va.toNat < e.2.1 + 2 ^ (12 + lfSz e.2.2.2)))) ∧
     (∀ slot va len k, (∀ d, d ≠ c → (s.core d).task = none) → (s.core c).task = some k → s.slotOf c = slot.toNat → (s.core c).revokes va.toNat len.toNat = true → k.parked = false →
       (s.core c).ph.irrev = true → NextWith (exec (.shootdown slot va len) s) (fun t => (t.core c).revoked = true ∧ (t.core c).task = some k ∧ (t.core c).fr = (s.core c).fr)) ∧
     (∀ area, s.plat.clkPend ≠ none → exec (.taskResume q area) s = .next s) ∧
     (∀ x, s.ctx q = some x → exec (.pageResolved (.seq q)) s = .next (s.setCtx q { x with pageWait := false })) ∧
     ((∃ h ∈ s.plat.shoots, h.slot.toNat = s.slotOf c) → exec (.pageResolved (.core c)) s = .next s) ∧
     (∀ k l u, (∀ h ∈ s.plat.shoots, h.slot.toNat ≠ s.slotOf c) → (s.core c).task = some k → k.parked = true → s.rebuild c k = .ok l u → NextWith (exec (.pageResolved (.core c)) s) (fun t =>
       (t.core c).task = some { k with parked := false } ∧ (t.core c).fr = (u.core c).fr ∧ (t.core c).e = (u.core c).e ∧ t.mem = u.mem)))

/-- R424 to R436, R438, R439, R461: the fabric: a flit in order and whole is taken and one that is not is refused by its number; a replay counts, sixteen in a
row retrain the link; an overdue request is blocked with what follows it; an answer completes its request, a refusal marks it; a read changes
no byte, an admitted write its bytes only, an admitted atomic its word, both where the home's spill table has room (R336); a frame without an enqueue changes no memory. R447: the seven SPDM requests leave an
answer with version 1.3 and their response code in the mailbox, and both messages in the transcript; the two signed ones carry a nonce and a signature;
nothing else but the draws changes. The codes and layouts are the model's (log 71), and so are: the header flit of an answer as an uninterpreted function of its fields and
its wait for a route and for room (log 138), the slot of an inbound access and its wait for a spill table (logs 108, 126), the way that the operation of a host request names and the
code of its completion (logs 102, 139), a BAR0 doorbell as an enqueue (log 102), the reason of an atomic at a doorbell line, which these clauses leave out (log 134). -/
def Obligations.FabricEvents : Prop :=
  (∀ (s : State) (p : Fin 16),
     let t0 := s.plat.ports[p]
     (∀ f, s.plat.rmode = false → t0.up = true → t0.train = false → s.plat.reqs = [] → s.plat.outq = [] →
       (flSeq f = t0.seqRx → flitOk f = true → NextWith (exec (.flitReceive p f) s) (fun t => (t.plat.ports[p]).seqRx = t0.seqRx + 1 ∧ (t.plat.ports[p]).pend = some (flBody f) ∧
         (t.plat.ports[p]).cred = t0.cred + 1 ∧ (∀ g ∈ (t.plat.ports[p]).unack, g ∈ t0.unack) ∧ t.mem = s.mem ∧ t.cores = s.cores ∧ t.osqs = s.osqs)) ∧
       ((flSeq f ≠ t0.seqRx ∨ flitOk f = false) → exec (.flitReceive p f) s = .next (s.modPort p (fun t => { t with nak := some t.seqRx })))) ∧
     (∀ seq, t0.up = true → t0.train = false → (∃ g ∈ t0.unack, flSeq g = seq) → exec (.linkReplay p seq) s =
       .next (s.modPort p (fun t => { t with replays := if t.last = seq then t.replays + 1 else 1, total := t.total + 1, last := seq }))) ∧
     (exec (.linkRetrain p) s = if 16 ≤ t0.replays then .next (s.modPort p (fun t => { t with train := true, replays := 0 })) else .next s) ∧
     (t0.train = true → s.plat.reqs = [] → s.plat.outq = [] →
       exec (.linkTrainingDone p true) s = .next (s.modPort p (fun t => { t with train := false, up := true })) ∧
       exec (.linkTrainingDone p false) s = .next (s.modPort p (fun t => { Port.reset with total := t.total }))) ∧
     (∀ k r, s.plat.reqs[k]? = some r → r.st = 0 → r.held = false → r.tick + r.lim ≤ s.tb.toNat → (∀ x ∈ s.plat.reqs, s.ctx x.osq = none) →
       NextWith (exec (.fabricTimeout k) s) (fun t => (∃ x, t.plat.reqs[k]? = some x ∧ x.blocked = true) ∧ t.plat.reqs.length = s.plat.reqs.length ∧
         (∀ j x y, k < j → s.plat.reqs[j]? = some x → t.plat.reqs[j]? = some y → x.dev = r.dev → x.addr / 64 = r.addr / 64 → y.blocked = true) ∧ t.mem = s.mem)) ∧
     (∀ r, s.plat.rmode = false → s.plat.outq = [] → s.plat.reqs = [r] → r.st = 0 → r.held = false → r.blocked = false → r.dev ≠ 0xFFF → s.routeWait r.dev = false →
       (∀ d, exec (.response 0 d) s = .next { s with plat := { s.plat with reqs := if r.posted then [] else [{ r with st := 1, data := d }] } }) ∧
       (∀ why, r.posted = false → exec (.refusal 0 why) s = .next { s with plat := { s.plat with reqs := [{ r with st := 2, reason := why }] } })) ∧
     (∀ r : Req, NextWith (exec (.peerRead r) s) (fun t => t.mem = s.mem ∧ t.cores = s.cores ∧ t.osqs = s.osqs)) ∧
     (∀ r : Req, s.plat.rmode = false → s.plat.outq = [] →
       let answers (u : State) (l : List (BitVec 512)) : Prop := (0xFFE ≤ r.src.toNat → u.plat.outq = []) ∧
         (r.src.toNat < 0xFFE → s.routeOf r.src = none → u.plat.outq = [(r.src, l)]) ∧
         (∀ q, r.src.toNat < 0xFFE → s.routeOf r.src = some q → (s.plat.ports[q]).unack.length + l.length ≤ 2048 → u.plat.outq = [] ∧ u.plat.ports[q] = (s.sendFlits q l).plat.ports[q])
       let waits (i : Instr) (d : Fin 4) : Prop := NextWith (exec i s) (fun u => u.mem = s.mem ∧ u.cores = s.cores ∧ u.osqs = s.osqs ∧ u.plat.outq = [] ∧ u.plat.spillRq.getLsbD d.val = true)
       (reqFits r = true → (∀ e, (s.letIn r.src r.ctx r.addr.toNat r.len 0).1 = some e → NextWith (exec (.peerRead r) s) (fun u => answers u [s.headTo r 5 e.toNat]))) ∧
       (reqFits r = true → (s.letIn r.src r.ctx r.addr.toNat r.len 0).1 = none →
         let a := r.addr.toNat / 64 * 64
         (s.isDoor a = true → NextWith (exec (.peerRead r) s) (fun u => answers u [s.headTo r 4 0, 0])) ∧
         (s.isDoor a = false → s.spillOver ((s.inLine a).noteCv a 64) = none →
           NextWith (exec (.peerRead r) s) (fun u => answers u [s.headTo r 4 0, BitVec.ofNat 512 (s.readP a 64)]))) ∧
       (reqFits r = true → s.isDoor r.addr.toNat = false → (s.letIn r.src r.ctx r.addr.toNat r.len 1).1 = none → isHbm r.addr.toNat = true → Plain s → NoWatch s → MemOk s →
         let t := (s.inLine r.addr.toNat).writeLine r
         (∀ k, Mem.get t.mem k =
           match (List.range 64).find? (fun i => (reqBytes r).getLsbD i && locKey (s.frameIlv (r.addr.toNat / 64 * 64)) (r.addr.toNat / 64 * 64 + i) == k) with
           | some i => BitVec.ofNat 8 (r.data.toNat / 2 ^ (8 * i))
           | none => Mem.get s.mem k) ∧
         (s.spillOver t = none → NextWith (exec (.peerWrite r) s) (fun u => u.mem = t.mem ∧ u.osqs = s.osqs ∧ answers u [s.headTo r 4 0])) ∧
         (∀ d, s.spillOver t = some d → waits (.peerWrite r) d)) ∧
       (∀ e, reqFits r = true → s.isDoor r.addr.toNat = false → (s.letIn r.src r.ctx r.addr.toNat r.len 1).1 = some e →
         NextWith (exec (.peerWrite r) s) (fun u => u.mem = s.mem ∧ u.cores = s.cores ∧ u.osqs = s.osqs ∧ answers u [s.headTo r 5 e.toNat])) ∧
       (exec (.enqueue r) s = exec (.peerWrite r) s) ∧
       (reqFits r = true → s.isDoor r.addr.toNat = true → (s.letIn r.src r.ctx (r.addr.toNat / 64 * 64) 64 1).1 = none →
         let e := s.enqueue r.src r.ctx r.addr.toNat (reqBytes r) r.data
         (e.1 = none → s.spillOver e.2 = none → NextWith (exec (.enqueue r) s) (fun u => u.mem = e.2.mem ∧ u.osqs = e.2.osqs ∧ u.plat.queues = e.2.plat.queues ∧
           u.plat.wakes = e.2.plat.wakes ∧ answers u [s.headTo r 4 0])) ∧
         (∀ why, e.1 = some why → NextWith (exec (.enqueue r) s) (fun u => u.mem = s.mem ∧ u.osqs = s.osqs ∧ u.plat.queues = e.2.plat.queues ∧ answers u [s.headTo r 5 why.toNat]))) ∧
       (r.addr.toNat % (if r.wide then 8 else 4) = 0 → (s.letIn r.src r.ctx r.addr.toNat (if r.wide then 8 else 4) 2).1 = none → s.isDoor r.addr.toNat = false → NoWatch s → s.parts = [] →
         let n := if r.wide then 8 else 4
         let ilv := s.frameIlv r.addr.toNat
         let old := s.readPA ilv r.addr.toNat n
         let b := r.data.toNat % 2 ^ (8 * n)
         let z := r.data.toNat / 2 ^ 64 % 2 ^ (8 * n)
         let t := ((s.inLine r.addr.toNat).atomHome r.op ilv r.addr.toNat n b z).2
         t.mem = (s.writePA ilv r.addr.toNat (atomNew r.op n old b z) n).mem ∧
         (s.spillOver t = none → NextWith (exec (.remoteAtomic r) s) (fun u => u.mem = t.mem ∧ u.osqs = s.osqs ∧ answers u [s.headTo r 4 0, BitVec.ofNat 512 old])) ∧
         (∀ d, s.spillOver t = some d → waits (.remoteAtomic r) d))) ∧
     (∀ r : Req, (s.letIn r.src r.ctx r.addr.toNat r.len 1).1 ≠ none → s.isDoor r.addr.toNat = false →
       NextWith (exec (.peerWrite r) s) (fun t => t.mem = s.mem ∧ t.cores = s.cores ∧ t.osqs = s.osqs)) ∧
     (s.plat.rmode = false → (∀ r : Req, NextWith (exec (.hostRead r) s) (fun t => t.mem = s.mem ∧ t.cores = s.cores ∧ t.osqs = s.osqs)) ∧
       (∀ r q : Req, s.plat.off = false → s.rec_ = false → s.hostReq r = some q → reqFits q = true →
         ((s.letIn q.src q.ctx q.addr.toNat q.len 0).1 ≠ none → NextWith (exec (.hostRead r) s) (fun t => t.plat.hostCpl = some (r.addr.toNat, if r.op = 2 then 2 else 1, 0))) ∧
         ((s.letIn q.src q.ctx q.addr.toNat q.len 0).1 = none →
           let a := q.addr.toNat / 64 * 64
           s.isDoor a = false → s.spillOver ((s.inLine a).noteCv a 64) = none →
             NextWith (exec (.hostRead r) s) (fun t => t.plat.hostCpl = some (r.addr.toNat, 0, BitVec.ofNat 512 (s.readP a 64))))) ∧
       (∀ r : Req, s.plat.off = false → s.rec_ = false → r.op = 0 → r.addr.toNat < s.plat.bar2 → isHbm r.addr.toNat = true →
         exec (.hostWrite r) s = exec (.peerWrite { r with src := 0xFFF, ctx := 0 }) s) ∧
       (∀ r : Req, s.plat.off = false → s.rec_ = false → r.op ≠ 0 → r.op ≠ 2 → r.addr.toNat < 4096 →
         (let q : Req := { r with src := 0xFFF, ctx := 0, addr := BitVec.ofNat 52 (bits (s.queueW (r.addr.toNat / 64) 1) 51 6 * 64 + r.addr.toNat % 64) }
          reqFits q = true → exec (.hostWrite r) s = .next (s.enqIn q).2)) ∧
       (∀ (r : Req) port frame, s.plat.off = false → s.rec_ = false → exec (.ethernetFrame port frame (some r)) s = .next (s.writeIn { r with src := 0xFFE, ctx := 0 }).2) ∧
       (∀ port frame, NextWith (exec (.ethernetFrame port frame none) s) (fun t => t.mem = s.mem ∧ t.cores = s.cores ∧ t.osqs = s.osqs ∧ t.dies = s.dies)))) ∧
  (∀ (s : State) (req : List Byte), s.plat.off = false → s.plat.rmode = false →
     let replies (i : Instr) (code : Byte) (body : List Byte) : Prop := NextWith (exec i s) (fun t => t.plat.spdmOut = [0x13, code, 0, 0] ++ body ∧
       t.plat.spdm = (if i = .getVersion req then [] else s.plat.spdm) ++ req ++ t.plat.spdmOut ∧ t.mem = s.mem ∧ t.cores = s.cores ∧ t.osqs = s.osqs ∧ t.free = s.free)
     let signs (i : Instr) (code : Byte) (body : List Byte) : Prop := NextWith (exec i s) (fun t => ∃ n, n.length = 32 ∧
       t.plat.spdmOut = [0x13, code, 0, 0] ++ (n ++ body ++ Config.deviceSign (s.plat.spdm ++ req ++ n ++ body)) ∧ t.plat.spdm = s.plat.spdm ++ req ++ t.plat.spdmOut ∧
       t.mem = s.mem ∧ t.cores = s.cores ∧ t.osqs = s.osqs)
     replies (.getVersion req) 0x04 [0, 1, 0, 0x13] ∧ replies (.getCapabilities req) 0x61 [0x16, 0, 0, 0] ∧ replies (.negotiateAlgorithms req) 0x63 [0x80, 0, 0, 0, 0x02, 0, 0, 0] ∧
     replies (.getDigests req) 0x01 (leBytes 48 (Config.sha384 (Config.certChain 0)).toNat) ∧ replies (.getCertificate req) 0x02 (Config.certChain 0) ∧
     signs (.challenge req) 0x03 (leBytes 48 (Config.sha384 (Config.certChain 0)).toNat) ∧ signs (.getMeasurements req) 0x60 s.measured)

/-- R401 to R406, R409, R415 to R420: a running task stops and goes on by command, by one bundle or for good; a write of the stop window waits for resume, and one to a core that runs is ignored; a sample
leaves the core as it was; a firing is latched 64 ticks later with its cause, and with STOP each armed core then stops before its next bundle; the pin is let go after 100; LATCHED is cleared by a re-arm; an arrival of a replay moves to its port's buffer
on its tick. The model's choices among these: a latch at or after its tick and the stop at the next bundle (log 28), the place of a word in the window (log 42), the exponent in force
for a sample (log 109), what a record whose tick has passed does (log 94), a stop by command on a core that is not armed (log 67). -/
def Obligations.DebugEvents : Prop :=
  ∀ (s : State) (c : Fin 320),
    let k := s.core c
    (k.task ≠ none → k.stopped = false → NextWith (exec (.dbgStop c) s) (fun t => (t.core c).stopped = true ∧ bits (t.core c).dbg.stat 15 8 = 0 ∧ (t.core c).fr = k.fr ∧
      (t.core c).arr = k.arr ∧ (t.core c).task = k.task ∧ SameOutside c s t)) ∧
    (k.stopped = true → k.dbg.win = [] →
      NextWith (exec (.dbgResume c) s) (fun t => (t.core c).stopped = false ∧ (t.core c).dbg.step = false ∧ (t.core c).fr = k.fr ∧ (t.core c).v = k.v ∧ (t.core c).arr = k.arr ∧
        SameOutside c s t) ∧
      NextWith (exec (.dbgStep c) s) (fun t => (t.core c).stopped = false ∧ (t.core c).dbg.step = true ∧ (t.core c).fr = k.fr ∧ (t.core c).v = k.v ∧ (t.core c).arr = k.arr ∧
        SameOutside c s t)) ∧
    (∀ off v, off.toNat % 8 = 0 → 0x81000 ≤ off.toNat → off.toNat < 0xD9000 → k.stopped = true → k.winBad (off.toNat - 0x80000) v = false →
      exec (.stopWindowWrite c off v) s = .next (withCore s c { k with dbg := { k.dbg with win := putWord k.dbg.win (off.toNat - 0x80000) v } })) ∧
    (∀ off v, k.stopped = false → exec (.stopWindowWrite c off v) s = .next s) ∧
    (bit k.dbg.ctl 3 = true → k.stopped = false → s.tb.toNat % 2 ^ (12 + k.dbg.sper) = 0 → s.tb.toNat ≠ k.dbg.last → NextWith (exec (.sample c) s) (fun t => (t.core c).fr = k.fr ∧
      (t.core c).arr = k.arr ∧ (t.core c).dbg.sper = bits k.dbg.ctl 11 8 ∧ (t.core c).dbg.last = s.tb.toNat ∧ ∀ d, d ≠ c → t.core d = s.core d)) ∧
    (s.tb.toNat = k.dbg.last → exec (.sample c) s = .next s) ∧
    (s.plat.hpend = none → bit s.plat.hstat 63 = false → NextWith (exec .fire s) (fun t => t.plat.hpend = some (s.tb.toNat + 64, 7, 0x1FF) ∧
      (bit s.plat.hsrc 6 = true → t.plat.hpin = some (s.tb.toNat + 100)) ∧ t.cores = s.cores ∧ t.mem = s.mem)) ∧
    (s.plat.hpend = none → bit s.plat.hstat 63 = false → s.plat.rmode = false → bit s.plat.hsrc 4 = true → NextWith (exec .haltNEdge s) (fun t =>
      t.plat.hpend = some (s.tb.toNat + 64, 4, 0x1FF) ∧ t.cores = s.cores ∧ t.mem = s.mem)) ∧
    (∀ n, s.plat.hpin = some n → exec .haltNRelease s = if n ≤ s.tb.toNat then .next { s with plat := { s.plat with hpin := none } } else .next s) ∧
    (NextWith (exec .halterRearm s) (fun t => bit t.plat.hstat 63 = false ∧ (∀ i, i < 63 → t.plat.hstat.getLsbD i = s.plat.hstat.getLsbD i) ∧ t.cores = s.cores ∧ t.mem = s.mem)) ∧
    (∀ n cause core, s.plat.hpend = some (n, cause, core) → n ≤ s.tb.toNat → n < 2 ^ 47 → NextWith (exec .halterLatch s) (fun t =>
      bit t.plat.hstat 63 = true ∧ bits t.plat.hstat 62 56 = cause.toNat ∧ bits t.plat.hstat 55 47 = core.toNat ∧ bits t.plat.hstat 46 0 = n ∧ t.plat.hpend = none ∧
      (∀ d, (t.core d).snap = (s.core d).snapAt { s with tb := BitVec.ofNat 64 n } d ∧ (t.core d).fr = (s.core d).fr) ∧ t.mem = s.mem)) ∧
    (∀ n, n ∈ s.plat.hstop → n ≤ s.tb.toNat → k.armed = true → k.stopped = false → NextWith (exec .halterLatch s) (fun t => (t.core c).dbg.halt = true ∧ (t.core c).fr = k.fr ∧
      n ∉ t.plat.hstop ∧ (∀ m ∈ s.plat.hstop, s.tb.toNat < m → m ∈ t.plat.hstop) ∧ t.mem = s.mem)) ∧
    (∀ w tk, s.cur = .core c → k.task = some tk → tk.parked = false → tk.frozen = false → tk.exiting = false → tk.stopping = none → k.stopped = false → k.ph.redo = [] → (k.hs = none → k.held = []) →
      k.dbg.halt = true → NextWith (exec (.bundle w) s) (fun t => (t.core c).stopped = true ∧ bits (t.core c).dbg.stat 15 8 = 0 ∧ (t.core c).dbg.halt = false ∧ (t.core c).fr = k.fr ∧ (t.core c).gclk = k.gclk ∧
        (t.core c).arr = k.arr ∧ (t.core c).task = k.task ∧ SameOutside c s t)) ∧
    (∀ src payload r, s.plat.rmode = true → s.lateError = false → s.plat.replay = [r] → r.typ = 4 → r.src = src → r.tick = s.tb.toNat → r.payload = payload → src.toNat < 16 →
      exec (.replayArrival src payload) s = .next { s with plat := { s.plat with replay := [], inbuf := s.plat.inbuf ++ [(src, payload)] } })

/-- R341, R336, R343, R421, R422, R427, R428, R432, R10, R445, R446, R449 to R453, R456 to R458: the platform: reset measures the boot and puts every register at its reset value; a live update runs its image, which finds the handover
structure in hub SRAM, and waits for a beat, which ends it where the image accepts the structure, or is rolled back; a silent Rein core restarts; a queue block that agrees is applied; the registers of the platform and the fabric take their writable fields and keep the rest.
The model's choices among these: what boot and the resident kernel supply and the place of a security version in a header (logs 5, 6, 104), boot flash and the handover structure (log 127), the counter of a bad
queue block (log 105), a refused write of a fabric register (log 100), T at a thermal trip (log 107), the sources of queue blocks (log 43). -/
def Obligations.PlatformEvents : Prop :=
  ∀ (s : State),
    (∀ cfg, cfg.rec_ = false → cfg.replay = none → NextWith (exec (.powerOnReset cfg) s) (fun t => t.tb = cfg.tb ∧ t.mem = [] ∧
      (∀ c, t.core c = { State.reset.core c with mode := BitVec.ofNat 64 (32 * b2n cfg.flatf + 2 * b2n cfg.darb) }) ∧ t.osqs = State.reset.osqs ∧ t.dorm = [] ∧
      t.imgs = [] ∧ t.agenda = s.agenda ∧ t.plat.lpt = cfg.lpt ∧ bits t.plat.fabId 11 0 = cfg.dev.toNat ∧ bits t.plat.fabId 23 16 = cfg.pod.toNat ∧
      t.plat.meas[1] = Config.sha384 Config.romImage ∧ t.plat.meas[7] = (if t.plat.recov then 0 else Config.fuseDigest s.secVer) ∧ t.secVer = s.secVer ∧
      (let flash := cfg.flash.getD s.plat.flash
       let slot := bit s.plat.fwctl 0
       t.plat.flash = flash ∧
       (imageOk s.secVer (flashAt flash 2 slot) = true → t.plat.meas[2] = Config.sha384 (flashAt flash 2 slot)) ∧
       (imageOk s.secVer (flashAt flash 2 slot) = false → t.plat.meas[2] = Config.sha384 (flashAt flash 2 !slot) ∧ bit t.plat.fwstat 2 = true ∧
         (imageOk s.secVer (flashAt flash 2 !slot) = false → t.plat.recov = true ∧ bits t.plat.fwstat 7 4 = 2))))) ∧
    (∀ image, bit s.plat.fwctl 2 = false → s.plat.off = false → s.imageOk image = true → s.plat.blocks = [] → NextWith (exec (.upd image) s) (fun t =>
      bit t.plat.fwctl 2 = true ∧ bit t.plat.fwctl 1 = !bit s.plat.fwctl 1 ∧ t.plat.upd = some (s.plat.meas[5], s.tb.toNat) ∧ t.plat.meas[5] = Config.sha384 image ∧
      (Mem.wf s.plat.hub = true → ∃ ver body, Mem.read t.plat.hub Config.handoverAt (handover ver body).length = leNat (handover ver body)) ∧ t.mem = s.mem ∧
      flashAt t.plat.flash 6 (!bit s.plat.fwctl 1) = image ∧ flashAt t.plat.flash 6 (bit s.plat.fwctl 1) = flashAt s.plat.flash 6 (bit s.plat.fwctl 1) ∧
      (∀ k : Fin 6, t.plat.srams[k] = t.plat.reinSram (!bit s.plat.fwctl 1) k.val) ∧ t.cores = s.cores ∧ t.osqs = s.osqs)) ∧
    (∀ image, (image.take 4 ≠ [0x53, 0x48, 0x58, 0x39] ∨ leNat ((image.drop 4).take 4) < s.secVer.toNat ∨ Config.signatureOk image = false) →
      ∃ l, exec (.upd image) s = .next { s with plat := { s.plat with flash := l } } ∧
        (bit s.plat.fwctl 2 = false → s.plat.off = false → flashAt l 6 (!bit s.plat.fwctl 1) = image)) ∧
    (∀ image, (bit s.plat.fwctl 2 = true ∨ s.plat.off = true) → exec (.upd image) s = .next s) ∧
    (∀ v, s.plat.off = false → (s.raiseFuse v).secVer.toNat = max s.secVer.toNat v.toNat) ∧
    (∀ (k : Fin 6) old n, s.plat.upd = some (old, n) → (s.plat.handOk = false ∨ n + 10000000 < s.tb.toNat) → exec (.reinHb k) s =
      .next { s with plat := { s.plat with hb := BitVec.ofNat 64 ((s.plat.hb.toNat + 1) % 2 ^ 32), hbTick := s.plat.hbTick.set k s.tb.toNat } }) ∧
    (∀ k : Fin 6, (s.plat.upd = none ∨ ∃ old n, s.plat.upd = some (old, n) ∧ s.plat.handOk = true ∧ s.tb.toNat ≤ n + 10000000) → NextWith (exec (.reinHb k) s) (fun t => t.plat.hb.toNat = (s.plat.hb.toNat + 1) % 2 ^ 32 ∧ t.plat.hbTick[k] = s.tb.toNat ∧ t.plat.upd = none ∧
      (s.plat.upd ≠ none → bit t.plat.fwctl 2 = false ∧ t.plat.wakesH = []) ∧ t.mem = s.mem ∧ t.cores = s.cores ∧ t.osqs = s.osqs)) ∧
    (∀ old n, s.plat.upd = some (old, n) → s.plat.blocks = [] → n + 10000000 ≤ s.tb.toNat → NextWith (exec .updateRollback s) (fun t => t.plat.upd = none ∧ t.plat.meas[5] = old ∧
      bit t.plat.fwstat 3 = true ∧ bit t.plat.fwctl 1 = !bit s.plat.fwctl 1 ∧ t.plat.hub = s.plat.hub ∧
      (∀ k : Fin 6, t.plat.srams[k] = s.plat.reinSram (!bit s.plat.fwctl 1) k.val) ∧ t.mem = s.mem ∧ t.cores = s.cores)) ∧
    (∀ k : Fin 6, s.plat.hbTick[k] + 100000000 ≤ s.tb.toNat → s.plat.blocks = [] → exec (.reinRestart k) s =
      .next { s with plat := { s.plat with hbTick := s.plat.hbTick.set k s.tb.toNat, srams := s.plat.srams.set k (s.plat.reinSram (bit s.plat.fwctl 1) k.val) } }) ∧
    (∀ (q : Fin 64) (block : BitVec 52),
      let a := block.toNat / 64 * 64
      let sel := BitVec.ofNat 64 (s.readP a 8)
      let copy := s.readL (a + 64 + 64 * bits sel 0 0) 64
      let w0 := BitVec.ofNat 64 (leNat (copy.take 8))
      (crc32c (copy.take 60)).toNat = leNat (copy.drop 60) → leNat ((copy.drop 32).take 8) = bits sel 63 32 → bits w0 61 58 ≤ 8 → Regs.wf s.plat.queues = true →
      NextWith (exec (.queueBlockApply q block) s) (fun t => t.queueW q.val 0 = w0 &&& ~~~ 0x3F#64 ∧ bits (t.queueW q.val 1) 51 6 = bits (BitVec.ofNat 64 (leNat ((copy.drop 8).take 8))) 51 6 ∧
        t.mem = s.mem ∧ t.cores = s.cores)) ∧
    (∀ v, s.rec_ = false → (∀ c, (s.core c).task = none) → NextWith (exec (.platClkWrite v) s) (fun t => t.plat.clkPend = some (BitVec.ofNat 2 (bits v 17 16)) ∧
      t.plat.clkErr = (s.plat.clkErr && !bit v 0) ∧ t.cores = s.cores ∧ t.mem = s.mem)) ∧
    (∀ v c, (s.core c).task ≠ none → NextWith (exec (.platClkWrite v) s) (fun t => t.plat.clkPend = s.plat.clkPend ∧ t.plat.clkErr = true)) ∧
    (∀ d : Fin 5, (∀ q, s.ctx q = none) → s.dorm = [] → (∀ x ∈ s.plat.dumps, x.done = true) → NextWith (exec (.thermalTrip d) s) (fun t => t.plat.off = true ∧ t.plat.thermN = true ∧
      bits t.plat.therm[d] 15 0 = 16 * bits s.plat.therm[d] 47 40 ∧ (s.rec_ = false → t.mem = s.mem))) ∧
    (∀ ue code v, (v ≠ 0 → exec (.rasClear ue code v) s = .next s) ∧ (v = 0 → NextWith (exec (.rasClear ue code v) s) (fun t =>
      t.plat.ue = (if ue then s.plat.ue.set code 0 else s.plat.ue) ∧ t.plat.ce = (if ue then s.plat.ce else s.plat.ce.set code 0) ∧ t.cores = s.cores ∧ t.mem = s.mem))) ∧
    (∀ (d : Fin 4) v, Regs.wf s.plat.spill = true → (s.plat.spill.get (2 * d.val + 1) = 0 → NextWith (exec (.spillWrite d false v) s) (fun t => t.plat.spill.get (2 * d.val) = v &&& 0x000FFFFFFFFFF000 ∧ t.mem = s.mem)) ∧
      (s.plat.spill.get (2 * d.val + 1) ≠ 0 → exec (.spillWrite d false v) s = .next s) ∧
      (16 * s.spilled d ≤ bits v 31 0 * 4096 → NextWith (exec (.spillWrite d true v) s) (fun t => (t.plat.spill.get (2 * d.val + 1)).toNat = bits v 31 0 ∧
        (bits (s.plat.spill.get (2 * d.val + 1)) 31 0 < bits v 31 0 → t.plat.spillRq.getLsbD d.val = false) ∧ t.mem = s.mem))) ∧
    (∀ (d : Fin 4) (i : Fin 8192) high v,
      let old := spGet 0 (s.dies[d]).cloak i.val
      let w : BitVec 128 := if high then v ++ old.truncate 64 else old.extractLsb' 64 64 ++ (v &&& 0xFFFFFFFFFFFC0007)
      spWf 0 (s.dies[d]).cloak = true → (high = true ∨ clV w = false ∨ s.cloakOk d i.val w = true) → NextWith (exec (.cloakEntryWrite d i high v) s) (fun t => spGet 0 (t.dies[d]).cloak i.val = w ∧
        (∀ j, j ≠ i.val → spGet 0 (t.dies[d]).cloak j = spGet 0 (s.dies[d]).cloak j) ∧ t.mem = s.mem ∧ t.cores = s.cores)) ∧
    (∀ (e : Fin 256) high v,
      let w := v &&& (if high then BitVec.allOnes 64 else 0xFFFF00FFFFFF000F#64)
      let lo := if high then s.plat.expo.get (2 * e.val) else w
      let hi := if high then w else s.plat.expo.get (2 * e.val + 1)
      Regs.wf s.plat.expo = true → (lo.getLsbD 0 = false ∨ s.expoOk e.val (lo.toNat + hi.toNat * 2 ^ 64) = true) →
        NextWith (exec (.exposureWrite e high v) s) (fun t => t.plat.expo.get (2 * e.val + b2n high) = w ∧ t.mem = s.mem ∧ t.cores = s.cores)) ∧
    (∀ (slot : Fin 256) v, Regs.wf s.plat.slots = true → (bit v 63 = true → bits v 11 0 ≠ bits s.plat.fabId 11 0 ∧ bits v 11 0 < 0xFFE) → NextWith (exec (.peerSlotWrite slot v) s) (fun t =>
      (t.plat.slots.get slot.val).toNat = bits v 63 62 * 2 ^ 62 + bits v 11 0 ∧ t.mem = s.mem)) ∧
    (∀ v, (s.plat.porten ≠ 0 → exec (.fabIdWrite v) s = .next s) ∧ (s.plat.porten = 0 → NextWith (exec (.fabIdWrite v) s) (fun t => t.plat.fabId.toNat = bits v 23 16 * 65536 + bits v 11 0 ∧
      t.mem = s.mem))) ∧
    (∀ v, s.plat.reqs = [] → NextWith (exec (.fabPortenWrite v) s) (fun t => t.plat.porten = v.truncate 16 ∧ (∀ p : Fin 16, v.getLsbD p.val = true → (s.plat.ports[p]).up = false →
      (t.plat.ports[p]).train = true) ∧ t.mem = s.mem)) ∧
    (∀ (dev : Fin 4094) v, s.plat.reqs = [] → Regs.wf s.plat.routes = true → NextWith (exec (.routeWrite dev v) s) (fun t => (t.plat.routes.get dev.val).toNat = b2n (bit v 63) * 2 ^ 63 + bits v 3 0 ∧ t.mem = s.mem)) ∧
    (∀ (q : Fin 64) v, (8 < bits v 61 58 → exec (.queueW0Write q v) s = .next s) ∧
      (bits v 61 58 ≤ 8 → Regs.wf s.plat.queues = true → NextWith (exec (.queueW0Write q v) s) (fun t => t.queueW q.val 0 = v &&& ~~~ 0x3F#64 ∧ t.mem = s.mem ∧ t.cores = s.cores))) ∧
    (∀ v, NextWith (exec (.registerWrite 0xFF4000000000 v) s) (fun t => t.plat.hsrc.toNat = bits v 6 0 ∧ t.mem = s.mem ∧ t.cores = s.cores)) ∧
    (∀ v, NextWith (exec (.registerWrite 0xFF6000000200 v) s) (fun t => t.plat.wdog = max 1000 (bits v 39 0) ∧ t.mem = s.mem ∧ t.cores = s.cores)) ∧
    (∀ (a : BitVec 52) v, a.toNat % 8 ≠ 0 → exec (.registerWrite a v) s = .next s)

/-! ## Bundles, traps and the step -/

/-- R66, R67, R81 to R83, R110, R366: NOP has no effect, in a slot or as a bundle's whole; each slot form of a bundle acts as it does when named alone. A bundle that does not decode raises
ILLEGAL_BUNDLE naming its first failing part; one with a trapping slot has no effect but the trap; one that stalls leaves registers, queues and results in flight and advances the A-clock
alone; one that neither traps nor stalls counts in SCYC and the next one is at the next offset. -/
def Obligations.BundlesIssueTheirSlots : Prop :=
  (∀ (s : State) (slot : BitVec 2), exec (.nop slot) s = .next s) ∧
  (∀ (i : Instr) (s : State), i.guard?.isSome = true → runSlot i s = exec i s) ∧
  (∀ (s : State) (c : Fin 320), MayIssue s c →
    let k := s.core c
    (∀ w p, checkBundle false k.bodyLevels w = .error p → ∃ x, exec (.bundle w) s = .next ((((s.clock c).endStall c).raise x).stepEnd c k.bun) ∧ x.cause = .illegalBundle ∧
      x.info.toNat = p.toNat) ∧
    (∀ w b u x, s.coreCheck c w = .ok b → runSlots b (issuing s c) = .next u → u.iss.traps = some x → exec (.bundle w) s =
      .next (if k.stopsAt x then (s.endStall c).raise x else (((s.clock c).endStall c).raise x).stepEnd c k.bun)) ∧
    (∀ w b u why d, s.coreCheck c w = .ok b → runSlots b (issuing s c) = .next u → u.iss.traps = none → u.iss.stall = some (why, d) → u.iss.send = none → why ≠ 11 → why ≠ 0xF1 → k.dbg.trace = false →
      NextWith (exec (.bundle w) s) (fun t => (t.core c).fr = k.fr ∧ (t.core c).v = k.v ∧ (t.core c).arr = k.arr ∧ (t.core c).rings = k.rings ∧ (t.core c).eng = k.eng ∧
        (t.core c).gclk = k.gclk + (if k.gon then 1 else 0) ∧ (t.core c).gon = k.gon ∧ t.osqs = s.osqs ∧ ∀ e, e ≠ c → t.core e = s.core e)) ∧
    (∀ w b u, s.coreCheck c w = .ok b → runSlots b (issuing s c) = .next u → u.iss.trap = none → u.iss.stall = none → u.iss.post = .none → u.iss.next = none → u.fallsOff = false →
      (u.core c).atBodyEnd = none → (u.core c).hs = none → u.cur = .core c → NextWith (exec (.bundle w) s) (fun t =>
        (t.core c).fr = { (u.core c).fr with scyc := (u.core c).fr.scyc + 1, pc := (u.core c).fr.pc + 32 } ∧ (t.core c).v = (u.core c).v ∧ (t.core c).arr = (u.core c).arr ∧
        (t.core c).rings = (u.core c).rings ∧ (t.core c).eng = (u.core c).eng ∧ (t.core c).gclk = (u.core c).gclk + 1 ∧ (t.core c).gon = true)) ∧
    (∀ g, k.hs = none → k.loops.run = none → k.fr.fl = [] → k.dbg.run = 0 → s.curImg = some g → g.isBundle (k.fr.pc + 32) = true → g.rs (k.fr.pc + 32) = false →
      NextWith (exec (.bundle 0) s) (fun t => (t.core c).fr = { k.fr with scyc := k.fr.scyc + 1, pc := k.fr.pc + 32, nb := k.fr.nb + 1 } ∧ (t.core c).gclk = k.gclk + 1 ∧ (t.core c).v = k.v ∧
        (t.core c).arr = k.arr ∧ (t.core c).cinchN = k.cinchN + 1 ∧ SameOutside c s t)))

/-- R366 to R368, R371, R372, R376, R252, R401: the roads of a trap on a core. A cause that the image declares a handler for enters it: the trap registers written, bundle, bank and results in flight
saved, s56 .. s63 zero, at the handler's offset; any other, or in handler mode, is a kernel fault that aborts the invocation and is held for its context; an asynchronous one waits for the
handler's end; an armed debug cause stops the core. A kernel fault delivered to a context with a handler enters TRAPH with its report in n56 .. n63. -/
def Obligations.TrapsTakeTheirRoad : Prop :=
  (∀ (s : State) (c : Fin 320) (x : Trap), s.cur = .core c → x.note = [] →
    let k := s.core c
    let t := s.raise x
    let s0 := { s with iss := Issue.idle }.trapLeft (.core c) x
    (x.refused = none → x.door = none → s0 = { s with iss := Issue.idle }) ∧
    (∀ g off, k.hs = none → s.img k.fr.img = some g → g.handlerFor x.cause = some off → Regs.wf k.sys = true →
      (t.core c).fr.pc = off ∧ (t.core c).fr.fl = [] ∧ (∃ h, (t.core c).hs = some h ∧ h.pc = k.fr.pc ∧ h.rtn = k.fr.rtn ∧ h.fl = k.fr.fl ∧ h.depth = k.fr.ret.length ∧
        ∀ i : Fin 8, h.bank[i] = k.fr.s[Fin.ofNat 64 (56 + i.val)]) ∧
      (∀ r : Fin 64, (t.core c).fr.s[r] = if r.val < 56 then k.fr.s[r] else 0) ∧ (t.core c).fr.scyc = k.fr.scyc ∧ (t.core c).v = k.v ∧ (t.core c).arr = k.arr ∧
      bits ((t.core c).sys.get 0x10) 7 0 = x.cause.code.toNat ∧ bit ((t.core c).sys.get 0x10) 8 = false ∧ bit ((t.core c).sys.get 0x10) 9 = x.async ∧
      bit ((t.core c).sys.get 0x10) 10 = true ∧ (k.fr.pc < 2 ^ 18 → bits ((t.core c).sys.get 0x11) 17 0 = k.fr.pc ∧ bits ((t.core c).sys.get 0x11) 47 32 = k.fr.img.toNat) ∧
      (t.core c).sys.get 0x12 = x.info ∧ bits ((t.core c).sys.get 0x14) 22 0 = k.ord ∧ bit ((t.core c).sys.get 0x14) 26 = x.slot.isSome ∧
      (∀ n, x.slot = some n → bits ((t.core c).sys.get 0x14) 25 24 = n.toNat) ∧ (∀ n, x.ring = some n → bits ((t.core c).sys.get 0x15) 19 16 = n.toNat) ∧ SameOutside c s0 t) ∧
    (∀ tk y i, (k.hs.isSome = true ∨ ∀ g, s.img k.fr.img = some g → g.handlerFor x.cause = none) → (k.hs.isSome && x.async) = false → bit k.dbg.ctl 0 = false →
      x.cause ≠ .fatalHw → x.cause ≠ .saveIntegrity → x.cause ≠ .cinchEscalated → x.cause ≠ .ueEscalated → x.cause ≠ .hemEscalated → k.task = some tk → s.ctx tk.osq = some y → y.inv tk.inv = some i →
      i.aborted = false → s.parts = [] → (t.core c).task = none ∧ ∃ z, t.ctx tk.osq = some z ∧ z.n = y.n ∧ z.vpc = y.vpc ∧ (∃ j, z.inv i.uid = some j ∧ j.aborted = true) ∧
        ∃ r ∈ z.held, r.cause = x.cause ∧ r.kind = true ∧ r.info = x.info ∧ r.fvpc = i.fvpc ∧ r.num = i.num ∧ r.core = some (BitVec.ofNat 9 c.val) ∧ r.tb = s.tb) ∧
    (k.hs.isSome = true → x.async = true → bit k.dbg.ctl 0 = false → x.cause ≠ .fatalHw → x.cause ≠ .saveIntegrity → x.cause ≠ .cinchEscalated → x.cause ≠ .ueEscalated → x.cause ≠ .hemEscalated →
      t = withCore s0 c { k with held := k.held ++ [x] }) ∧
    (bit k.dbg.ctl 0 = true → (x.cause = .watch ∨ x.cause = .step ∨ (x.cause = .break_ ∧ bit x.info 63 = false)) →
      (t.core c).stopped = true ∧ bits (t.core c).dbg.stat 15 8 = x.cause.code.toNat ∧ (t.core c).fr = k.fr ∧ (t.core c).sys = k.sys ∧ (t.core c).arr = k.arr ∧ SameOutside c s0 t)) ∧
  (∀ (s : State) (q : Fin 16) (x : Ctx) (r : Report) (l : List Report), s.ctx q = some x → x.exp = none → x.fuse = none → x.parked = false → x.intrap = false → x.th ≠ 0 →
    x.held = r :: l → NextWith (exec (.kernelFaultDelivery q) s) (fun t => t.mem = s.mem ∧ t.cores = s.cores ∧ ∃ y, t.ctx q = some y ∧ y.intrap = true ∧ y.lcause = r.cause.code ∧
      y.vpc = x.th ∧ y.held = l ∧ (∀ i : Fin 64, i.val < 56 → y.n[i] = x.n[i]) ∧ y.n[56].toNat = r.cause.code.toNat + 256 * b2n r.kind ∧ y.n[57] = r.fvpc ∧
      y.n[58].toNat = x.vpc.toNat ∧ y.n[59] = r.info ∧ y.n[60] = r.tile ∧ (∀ h, r.hnd = some h → y.n[61].toNat = h.toNat + 256) ∧
      (∀ d, r.core = some d → bits y.n[62] 8 0 = d.toNat ∧ bit y.n[62] 15 = true) ∧ bits y.n[62] 31 16 = r.num.toNat ∧ y.n[63] = r.tb))

/-- A step runs what the schedule names next (log 1): ticks pass; an event acts; a core or a routine takes the bundle that its program counter names in its image; a sequencer without a routine runs the
instruction that the bytes at VPC decode to, moving VPC past it; a unit with nothing to run passes its turn; a process that the resident kernel judges broken ends
(R377); the fuses' security version rises (R446); a control core makes an access (R444); the resident kernel names the peer to which SPDM answers (R447); the
replay log ends (R419). The built-in forms of R396 run without an image.
After an instruction or an event the register space answers its requests, shootdowns are acknowledged and signal words looked at (R10, R340, R288); with none
of these pending nothing follows. -/
def Obligations.StepRunsTheDecodedInstruction : Prop :=
  ∀ (s : State) (dt : Nat) (l : List Turn),
    (s.agenda = [] → step s = .next (s.pass 1 [])) ∧
    (∀ i, s.agenda = .event dt i :: l → step s = afterStep (exec i (s.pass dt l))) ∧
    (∀ p, s.agenda = .judge dt p :: l → step s = afterStep (.next ((s.pass dt l).endProcess p))) ∧
    (∀ v, s.agenda = .fuse dt v :: l → step s = afterStep (.next ((s.pass dt l).raiseFuse v))) ∧
    (∀ k op, s.agenda = .ctl dt k op :: l → step s = afterStep (.next ((s.pass dt l).ctlAccess k op))) ∧
    (∀ p, s.agenda = .spdm dt p :: l → step s = afterStep (.next (let t := s.pass dt l; { t with plat := { t.plat with spdmPeer := p } }))) ∧
    (s.agenda = .logEnd dt :: l → step s = afterStep (.next (s.pass dt l).logEnd)) ∧
    (∀ t : State, t.plat.wlog = [] → t.plat.rlog = [] → t.plat.hpend = none → t.plat.hstop = [] → t.plat.hall = none → t.plat.rmode = false →
      t.pass dt l = { t with agenda := l, tb := t.tb + BitVec.ofNat 64 dt }) ∧
    (∀ t : State, t.plat.reqs = [] → t.plat.shoots = [] → (∀ q x, t.ctx q = some x → x.sigWait = none) → t.dorm = [] → afterStep (.next t) = .next t) ∧
    (∀ c, s.agenda = .unit dt (.core c) :: l →
      let u := { s.pass dt l with cur := .core c }
      (∀ g, (u.core c).task ≠ none → (∀ i, u.taskInv c = some i → i.img ≠ none) → u.img (u.core c).fr.img = some g →
        step s = afterStep (exec (.bundle (g.word (u.core c).fr.pc)) u)) ∧
      (∀ i, u.taskInv c = some i → i.img = none → i.nrec ≠ 0 → step s = afterStep (.next (u.decodeTask c))) ∧
      ((u.core c).task = none → step s = afterStep (.next u))) ∧
    (∀ q x, s.agenda = .unit dt (.seq q) :: l →
      let u := { s.pass dt l with cur := .seq q }
      u.ctx q = some x →
      (∀ e g, x.exp = some e → (∀ i, x.inv e.uid = some i → i.img ≠ none) → u.img e.fr.img = some g → step s = afterStep (exec (.bundle (g.word e.fr.pc)) u)) ∧
      (∀ e i, x.exp = some e → x.inv e.uid = some i → i.img = none → step s = afterStep (.next (u.decodeExp q))) ∧
      (x.exp = none → x.decodes = false → step s = afterStep (.next u)) ∧
      (∀ w ea v i n, x.exp = none → x.decodes = true → u.translate q x x.vpc.toNat false = (.leaf w ea, v) → lfR w = true → lfW w = false →
        decodeVanik (v.codeBytes w x.vpc.toNat (min 33 (4096 - x.vpc.toNat % 4096))) = .ok (i, n) →
        step s = afterStep (exec i ((v.codeLines x w x.vpc.toNat (min 33 (4096 - x.vpc.toNat % 4096))).modCtx q (fun y => { y with nvpc := y.reexec.headD (y.vpc + BitVec.ofNat 48 n), avpc := y.vpc + BitVec.ofNat 48 n })))) ∧
      (∀ w ea v k lim, x.exp = none → x.decodes = true → u.translate q x x.vpc.toNat false = (.leaf w ea, v) → lfR w = true → lfW w = false →
        let b := v.codeBytes w x.vpc.toNat (min 33 (4096 - x.vpc.toNat % 4096))
        decodeVanik b = .error (.illegal k lim) →
          step s = afterStep ((v.codeLines x w x.vpc.toNat b.length).vIllegal q (b.headD 0) (if b.headD 0 = 0xFF then b.getD 1 0 else 0) .vbcIllegal (k + 256 * b2n lim))))

/-- R28, R33, R34, R110, R334, R341, R460: what reset leaves: the timebase at 0, every core without a task and out of handler mode with its registers at the reset values of R28's table, LFSRs and policy selectors
at theirs, no context, nothing in memory, and every store in its canonical form. Registers without a reset value in the manual are 0 (log 8), memory that nothing has written reads
0 (log 3), caches start empty (log 7), and the schedule is empty (log 40). -/
def Obligations.ResetState : Prop :=
  let s := State.reset
  s.tb = 0 ∧ s.mem = [] ∧ Canonical s ∧ s.agenda = [] ∧ (∀ q, s.ctx q = none) ∧ s.dorm = [] ∧
  (∀ c, (s.core c).task = none ∧ (s.core c).hs = none ∧ (s.core c).mode = 0 ∧ (s.core c).sys.get 0x018 = 0x39800000 ∧ (s.core c).sys.get 0x01A = 0xFFFFFFFF ∧
    (∀ n, n ≠ 0x018 → n ≠ 0x01A → (s.core c).sys.get n = 0) ∧ (∀ i : Fin 16, (s.core c).ft[i] = 0x101) ∧ (∀ i : Fin 64, (s.core c).fr.s[i] = 0) ∧
    (∀ i : Fin 8, (s.core c).m[i] = if i.val = 0 then BitVec.allOnes 64 else 0)) ∧
  (∀ d : Fin 4, (∀ i : Fin 64, (s.dies[d]).sel[i] = 512) ∧ (∀ i : Fin 16, (s.dies[d]).lfsr[i] = 0xACE1)) ∧
  s.plat.fabTo = 10000000 ∧ s.plat.wdog = 10000000

/-- R64 to R79, R225 to R230: words written out from the encoding tables decode to the instructions they stand for: the bundle that the manual takes apart, its worked S-slot and X-slot values, and
Vanik bytes. -/
def Obligations.WordsDecode : Prop :=
  let g0 : Guard := ⟨0, false, 0, 0⟩
  decodeBundle (0x0000000000000000#64 ++ 0x0000021604600300#64 ++ 0x000040A210004000#64 ++ 0x00040038E2200101#64) = .ok
    { rs := false, s := .addi ⟨2, false, 0, 0⟩ { imm := 64, fn := 0, a := 7, d := 7 },
      v := .vfma g0 { fn := 0, swz := false, part := 0, ty := 0, msk := 0, c := 8, b := 5, a := 4, d := 8 },
      m := .mpush ⟨0, false, 2, 1⟩ { aux := 1, row := 5, t := true, b := 0, a := 0x23 }, x := .nop 3 } ∧
  decS 0x0C28A301 0 0 = some (.add ⟨3, false, 0, 0⟩ { fn := 0, c := 0, b := 6, a := 5, d := 5 }) ∧
  decS 0x648184027 0 0 = some (.cmpi g0 { imm := 100, fn := 4, a := 3, d := 2 }) ∧
  decS 0xFFFFFFFD0000130 0 0 = some (.br ⟨1, false, 0, 0⟩ { imm := 0xFFFFFFFD, fn := 0, b := 0, a := 0 }) ∧
  decS 0x24000034 0 0 = some (.mark g0 { imm := 2, fn := 2, b := 0, a := 0 }) ∧
  decS 0x1D3A5C070000C40 0 0 = some (.cinch { q := 0, lvl := 0, count := 12, crc := 0x1D3A5C07 }) ∧
  decX 0x0000100000000000000F 0 0 = some (.xwait g0 { imm := 2, tag := 0, fn := 0, fmt := 0, c := 0, b := 0, a := 0, ofs := 0, h := 0 }) ∧
  decodeVanik [0x00] = .ok (.gend, 1) ∧
  decodeVanik [0x01, 0x01] = .ok (.gjmp (-1), 2) ∧
  decodeVanik [0x11, 0x01, 0x05, 0x06, 0x80, 0x05] = .ok (.naluSub 5 (.reg 6) (.imm (-3)), 6) ∧
  decodeVanik [0x40, 0x0A, 0x0B, 0x0C, 0x01] = .ok (.matmul 0x0A 0x0B 0x0C true 0, 5) ∧
  decodeVanik [0x0B] = .error (.illegal 0 false)

/-- R64 to R79: a bundle whose slots hold well-formed instructions under one level is read back from its word, every field at every value; a slot form alone in its bundle likewise. R225 to R230, R256:
a well-formed Vanik instruction that fits the 32 bytes is read back from its bytes, whatever follows them, with its length. -/
def Obligations.DecodeReadsBackTheEncoding : Prop :=
  (∀ (b : Bundle) (l : BitVec 3), BundleOk b l → decodeBundle (encBundle b) = .ok b) ∧
  (∀ (i : Instr), i.guard?.isSome = true → i.wf = true → decodeBundle (encBundle (soloBundle i)) = .ok (soloBundle i) ∧ ((soloBundle i).s = i ∨ (soloBundle i).v = i ∨
    (soloBundle i).m = i ∨ (soloBundle i).x = i)) ∧
  (∀ (i : Instr) (rest : List Byte), i.wf = true → encVanik i ≠ [] → i.fits = true → decodeVanik (encVanik i ++ rest) = .ok (i, (encVanik i).length))

/-- An invariant of the machine: a step from a state whose stores are in their one canonical form leaves them so, whatever runs. -/
def Obligations.StepKeepsTheStoresCanonical : Prop :=
  ∀ (s t : State), Canonical s → step s = .next t → Canonical t

/-- R224: in a bundle of a routine, each of the three forms that end it issues and leaves the end for when the bundle's slots have all issued: OPEND_DONE always,
OPEND_CANCEL before any WLNR, OPEND_REPEAT with no task running, every core's reads and the invocation's writes made. -/
def Obligations.RoutineEndFormsIssue : Prop :=
  ∀ (g : Guard) (f : SA) (s : State) (q : Fin 16) (x : Ctx) (e : Exp) (i : Inv), OnRoutine s q x e i → Issues g s →
    exec (.opendDone g f) s = .next (withPost s (.opend 0)) ∧
    (i.nrec = 0 → exec (.opendCancel g f) s = .next (withPost s (.opend 1))) ∧
    (x.live i.uid = false → s.stepOver q i.uid i.sstep = true → exec (.opendRepeat g f) s = .next (withPost s (.opend 2)))

end
end

