-- ==== Sys2Proof/Laws/Exec.lean ====
section
/-! SUPPORT. What exec does with each constructor: one equation per arm of the dispatcher, so that no proof opens its match. -/

namespace Sys2Proof.Laws

open Sys2Proof.Machine

@[simp] theorem exec_bundle (w : BitVec 256) (s : State) : exec (.bundle w) s = execBundle w s := rfl
@[simp] theorem exec_nop (slot : BitVec 2) (s : State) : exec (.nop slot) s = execNop slot s := rfl
@[simp] theorem exec_add (g : Guard) (f : SA) (s : State) : exec (.add g f) s = execAdd g f s := rfl
@[simp] theorem exec_sub (g : Guard) (f : SA) (s : State) : exec (.sub g f) s = execSub g f s := rfl
@[simp] theorem exec_mul (g : Guard) (f : SA) (s : State) : exec (.mul g f) s = execMul g f s := rfl
@[simp] theorem exec_mulh (g : Guard) (f : SA) (s : State) : exec (.mulh g f) s = execMulh g f s := rfl
@[simp] theorem exec_mulhu (g : Guard) (f : SA) (s : State) : exec (.mulhu g f) s = execMulhu g f s := rfl
@[simp] theorem exec_div (g : Guard) (f : SA) (s : State) : exec (.div g f) s = execDiv g f s := rfl
@[simp] theorem exec_divu (g : Guard) (f : SA) (s : State) : exec (.divu g f) s = execDivu g f s := rfl
@[simp] theorem exec_rem (g : Guard) (f : SA) (s : State) : exec (.rem g f) s = execRem g f s := rfl
@[simp] theorem exec_remu (g : Guard) (f : SA) (s : State) : exec (.remu g f) s = execRemu g f s := rfl
@[simp] theorem exec_andR (g : Guard) (f : SA) (s : State) : exec (.andR g f) s = execAndR g f s := rfl
@[simp] theorem exec_orR (g : Guard) (f : SA) (s : State) : exec (.orR g f) s = execOrR g f s := rfl
@[simp] theorem exec_xorR (g : Guard) (f : SA) (s : State) : exec (.xorR g f) s = execXorR g f s := rfl
@[simp] theorem exec_andn (g : Guard) (f : SA) (s : State) : exec (.andn g f) s = execAndn g f s := rfl
@[simp] theorem exec_shl (g : Guard) (f : SA) (s : State) : exec (.shl g f) s = execShl g f s := rfl
@[simp] theorem exec_shr (g : Guard) (f : SA) (s : State) : exec (.shr g f) s = execShr g f s := rfl
@[simp] theorem exec_sra (g : Guard) (f : SA) (s : State) : exec (.sra g f) s = execSra g f s := rfl
@[simp] theorem exec_minR (g : Guard) (f : SA) (s : State) : exec (.minR g f) s = execMinR g f s := rfl
@[simp] theorem exec_maxR (g : Guard) (f : SA) (s : State) : exec (.maxR g f) s = execMaxR g f s := rfl
@[simp] theorem exec_minu (g : Guard) (f : SA) (s : State) : exec (.minu g f) s = execMinu g f s := rfl
@[simp] theorem exec_maxu (g : Guard) (f : SA) (s : State) : exec (.maxu g f) s = execMaxu g f s := rfl
@[simp] theorem exec_clz (g : Guard) (f : SA) (s : State) : exec (.clz g f) s = execClz g f s := rfl
@[simp] theorem exec_ctz (g : Guard) (f : SA) (s : State) : exec (.ctz g f) s = execCtz g f s := rfl
@[simp] theorem exec_popc (g : Guard) (f : SA) (s : State) : exec (.popc g f) s = execPopc g f s := rfl
@[simp] theorem exec_ext (g : Guard) (f : SA) (s : State) : exec (.ext g f) s = execExt g f s := rfl
@[simp] theorem exec_sel (g : Guard) (f : SA) (s : State) : exec (.sel g f) s = execSel g f s := rfl
@[simp] theorem exec_cmp (g : Guard) (f : SA) (s : State) : exec (.cmp g f) s = execCmp g f s := rfl
@[simp] theorem exec_plog (g : Guard) (f : SA) (s : State) : exec (.plog g f) s = execPlog g f s := rfl
@[simp] theorem exec_maddr (g : Guard) (f : SA) (s : State) : exec (.maddr g f) s = execMaddr g f s := rfl
@[simp] theorem exec_addi (g : Guard) (f : SI) (s : State) : exec (.addi g f) s = execAddi g f s := rfl
@[simp] theorem exec_andi (g : Guard) (f : SI) (s : State) : exec (.andi g f) s = execAndi g f s := rfl
@[simp] theorem exec_ori (g : Guard) (f : SI) (s : State) : exec (.ori g f) s = execOri g f s := rfl
@[simp] theorem exec_xori (g : Guard) (f : SI) (s : State) : exec (.xori g f) s = execXori g f s := rfl
@[simp] theorem exec_shli (g : Guard) (f : SI) (s : State) : exec (.shli g f) s = execShli g f s := rfl
@[simp] theorem exec_shri (g : Guard) (f : SI) (s : State) : exec (.shri g f) s = execShri g f s := rfl
@[simp] theorem exec_srai (g : Guard) (f : SI) (s : State) : exec (.srai g f) s = execSrai g f s := rfl
@[simp] theorem exec_cmpi (g : Guard) (f : SI) (s : State) : exec (.cmpi g f) s = execCmpi g f s := rfl
@[simp] theorem exec_li (g : Guard) (f : SI) (s : State) : exec (.li g f) s = execLi g f s := rfl
@[simp] theorem exec_lih (g : Guard) (f : SI) (s : State) : exec (.lih g f) s = execLih g f s := rfl
@[simp] theorem exec_movk (g : Guard) (f : SI) (s : State) : exec (.movk g f) s = execMovk g f s := rfl
@[simp] theorem exec_br (g : Guard) (f : SC) (s : State) : exec (.br g f) s = execBr g f s := rfl
@[simp] theorem exec_jmp (g : Guard) (f : SC) (s : State) : exec (.jmp g f) s = execJmp g f s := rfl
@[simp] theorem exec_call (g : Guard) (f : SC) (s : State) : exec (.call g f) s = execCall g f s := rfl
@[simp] theorem exec_ret (g : Guard) (f : SC) (s : State) : exec (.ret g f) s = execRet g f s := rfl
@[simp] theorem exec_mark (g : Guard) (f : SC) (s : State) : exec (.mark g f) s = execMark g f s := rfl
@[simp] theorem exec_lset (g : Guard) (f : SC) (s : State) : exec (.lset g f) s = execLset g f s := rfl
@[simp] theorem exec_lstr (g : Guard) (f : SC) (s : State) : exec (.lstr g f) s = execLstr g f s := rfl
@[simp] theorem exec_exitE (g : Guard) (f : SC) (s : State) : exec (.exitE g f) s = execExitE g f s := rfl
@[simp] theorem exec_exitS (g : Guard) (f : SC) (s : State) : exec (.exitS g f) s = execExitS g f s := rfl
@[simp] theorem exec_exitN (g : Guard) (f : SC) (s : State) : exec (.exitN g f) s = execExitN g f s := rfl
@[simp] theorem exec_trap (g : Guard) (f : SC) (s : State) : exec (.trap g f) s = execTrap g f s := rfl
@[simp] theorem exec_brk (g : Guard) (f : SC) (s : State) : exec (.brk g f) s = execBrk g f s := rfl
@[simp] theorem exec_hret (g : Guard) (f : SC) (s : State) : exec (.hret g f) s = execHret g f s := rfl
@[simp] theorem exec_hretSkip (g : Guard) (f : SC) (s : State) : exec (.hretSkip g f) s = execHretSkip g f s := rfl
@[simp] theorem exec_phase (g : Guard) (f : SC) (s : State) : exec (.phase g f) s = execPhase g f s := rfl
@[simp] theorem exec_preempt (g : Guard) (f : SC) (s : State) : exec (.preempt g f) s = execPreempt g f s := rfl
@[simp] theorem exec_gait (g : Guard) (f : SC) (s : State) : exec (.gait g f) s = execGait g f s := rfl
@[simp] theorem exec_chk (g : Guard) (f : SC) (s : State) : exec (.chk g f) s = execChk g f s := rfl
@[simp] theorem exec_cinch (f : SK) (s : State) : exec (.cinch f) s = execCinch f s := rfl
@[simp] theorem exec_cinchZ (g : Guard) (f : SC) (s : State) : exec (.cinchZ g f) s = execCinchZ g f s := rfl
@[simp] theorem exec_ld (g : Guard) (f : SM) (s : State) : exec (.ld g f) s = execLd g f s := rfl
@[simp] theorem exec_loadReturn (u : UnitId) (k : Nat) (s : State) : exec (.loadReturn u k) s = execLoadReturn u k s := rfl
@[simp] theorem exec_ldS (g : Guard) (f : SM) (s : State) : exec (.ldS g f) s = execLdS g f s := rfl
@[simp] theorem exec_st (g : Guard) (f : SM) (s : State) : exec (.st g f) s = execSt g f s := rfl
@[simp] theorem exec_ldsp (g : Guard) (f : SM) (s : State) : exec (.ldsp g f) s = execLdsp g f s := rfl
@[simp] theorem exec_stsp (g : Guard) (f : SM) (s : State) : exec (.stsp g f) s = execStsp g f s := rfl
@[simp] theorem exec_advc (g : Guard) (f : SM) (s : State) : exec (.advc g f) s = execAdvc g f s := rfl
@[simp] theorem exec_advp (g : Guard) (f : SM) (s : State) : exec (.advp g f) s = execAdvp g f s := rfl
@[simp] theorem exec_waitc (g : Guard) (f : SM) (s : State) : exec (.waitc g f) s = execWaitc g f s := rfl
@[simp] theorem exec_waitp (g : Guard) (f : SM) (s : State) : exec (.waitp g f) s = execWaitp g f s := rfl
@[simp] theorem exec_hset (g : Guard) (f : SM) (s : State) : exec (.hset g f) s = execHset g f s := rfl
@[simp] theorem exec_hget (g : Guard) (f : SM) (s : State) : exec (.hget g f) s = execHget g f s := rfl
@[simp] theorem exec_amoSwap (g : Guard) (f : SY) (s : State) : exec (.amoSwap g f) s = execAmoSwap g f s := rfl
@[simp] theorem exec_amoAdd (g : Guard) (f : SY) (s : State) : exec (.amoAdd g f) s = execAmoAdd g f s := rfl
@[simp] theorem exec_amoAnd (g : Guard) (f : SY) (s : State) : exec (.amoAnd g f) s = execAmoAnd g f s := rfl
@[simp] theorem exec_amoOr (g : Guard) (f : SY) (s : State) : exec (.amoOr g f) s = execAmoOr g f s := rfl
@[simp] theorem exec_amoXor (g : Guard) (f : SY) (s : State) : exec (.amoXor g f) s = execAmoXor g f s := rfl
@[simp] theorem exec_amoMin (g : Guard) (f : SY) (s : State) : exec (.amoMin g f) s = execAmoMin g f s := rfl
@[simp] theorem exec_amoMax (g : Guard) (f : SY) (s : State) : exec (.amoMax g f) s = execAmoMax g f s := rfl
@[simp] theorem exec_amoMinu (g : Guard) (f : SY) (s : State) : exec (.amoMinu g f) s = execAmoMinu g f s := rfl
@[simp] theorem exec_amoMaxu (g : Guard) (f : SY) (s : State) : exec (.amoMaxu g f) s = execAmoMaxu g f s := rfl
@[simp] theorem exec_amoFadd (g : Guard) (f : SY) (s : State) : exec (.amoFadd g f) s = execAmoFadd g f s := rfl
@[simp] theorem exec_cas (g : Guard) (f : SY) (s : State) : exec (.cas g f) s = execCas g f s := rfl
@[simp] theorem exec_cupdAdd (g : Guard) (f : SY) (s : State) : exec (.cupdAdd g f) s = execCupdAdd g f s := rfl
@[simp] theorem exec_cupdFadd (g : Guard) (f : SY) (s : State) : exec (.cupdFadd g f) s = execCupdFadd g f s := rfl
@[simp] theorem exec_cupdMin (g : Guard) (f : SY) (s : State) : exec (.cupdMin g f) s = execCupdMin g f s := rfl
@[simp] theorem exec_cupdMax (g : Guard) (f : SY) (s : State) : exec (.cupdMax g f) s = execCupdMax g f s := rfl
@[simp] theorem exec_cupdOr (g : Guard) (f : SY) (s : State) : exec (.cupdOr g f) s = execCupdOr g f s := rfl
@[simp] theorem exec_fence (g : Guard) (f : SY) (s : State) : exec (.fence g f) s = execFence g f s := rfl
@[simp] theorem exec_barcfg (g : Guard) (f : SY) (s : State) : exec (.barcfg g f) s = execBarcfg g f s := rfl
@[simp] theorem exec_bararr (g : Guard) (f : SY) (s : State) : exec (.bararr g f) s = execBararr g f s := rfl
@[simp] theorem exec_barwait (g : Guard) (f : SY) (s : State) : exec (.barwait g f) s = execBarwait g f s := rfl
@[simp] theorem exec_sstep (g : Guard) (f : SY) (s : State) : exec (.sstep g f) s = execSstep g f s := rfl
@[simp] theorem exec_srd (g : Guard) (f : SY) (s : State) : exec (.srd g f) s = execSrd g f s := rfl
@[simp] theorem exec_swr (g : Guard) (f : SY) (s : State) : exec (.swr g f) s = execSwr g f s := rfl
@[simp] theorem exec_wlnr (g : Guard) (f : SA) (s : State) : exec (.wlnr g f) s = execWlnr g f s := rfl
@[simp] theorem exec_rgalloc (g : Guard) (f : SA) (s : State) : exec (.rgalloc g f) s = execRgalloc g f s := rfl
@[simp] theorem exec_rgfree (g : Guard) (f : SA) (s : State) : exec (.rgfree g f) s = execRgfree g f s := rfl
@[simp] theorem exec_sbwait (g : Guard) (f : SA) (s : State) : exec (.sbwait g f) s = execSbwait g f s := rfl
@[simp] theorem exec_sbpub (g : Guard) (f : SA) (s : State) : exec (.sbpub g f) s = execSbpub g f s := rfl
@[simp] theorem exec_trec (g : Guard) (f : SA) (s : State) : exec (.trec g f) s = execTrec g f s := rfl
@[simp] theorem exec_hlatArm (g : Guard) (f : SA) (s : State) : exec (.hlatArm g f) s = execHlatArm g f s := rfl
@[simp] theorem exec_hlatCnt (g : Guard) (f : SA) (s : State) : exec (.hlatCnt g f) s = execHlatCnt g f s := rfl
@[simp] theorem exec_hlatPre (g : Guard) (f : SA) (s : State) : exec (.hlatPre g f) s = execHlatPre g f s := rfl
@[simp] theorem exec_hlatOut (g : Guard) (f : SA) (s : State) : exec (.hlatOut g f) s = execHlatOut g f s := rfl
@[simp] theorem exec_hlatTot (g : Guard) (f : SA) (s : State) : exec (.hlatTot g f) s = execHlatTot g f s := rfl
@[simp] theorem exec_opendDone (g : Guard) (f : SA) (s : State) : exec (.opendDone g f) s = execOpendDone g f s := rfl
@[simp] theorem exec_opendCancel (g : Guard) (f : SA) (s : State) : exec (.opendCancel g f) s = execOpendCancel g f s := rfl
@[simp] theorem exec_opendRepeat (g : Guard) (f : SA) (s : State) : exec (.opendRepeat g f) s = execOpendRepeat g f s := rfl
@[simp] theorem exec_vadd (g : Guard) (f : VA) (s : State) : exec (.vadd g f) s = execVadd g f s := rfl
@[simp] theorem exec_vsub (g : Guard) (f : VA) (s : State) : exec (.vsub g f) s = execVsub g f s := rfl
@[simp] theorem exec_vmul (g : Guard) (f : VA) (s : State) : exec (.vmul g f) s = execVmul g f s := rfl
@[simp] theorem exec_vfma (g : Guard) (f : VA) (s : State) : exec (.vfma g f) s = execVfma g f s := rfl
@[simp] theorem exec_vfms (g : Guard) (f : VA) (s : State) : exec (.vfms g f) s = execVfms g f s := rfl
@[simp] theorem exec_vfnma (g : Guard) (f : VA) (s : State) : exec (.vfnma g f) s = execVfnma g f s := rfl
@[simp] theorem exec_vmin (g : Guard) (f : VA) (s : State) : exec (.vmin g f) s = execVmin g f s := rfl
@[simp] theorem exec_vmax (g : Guard) (f : VA) (s : State) : exec (.vmax g f) s = execVmax g f s := rfl
@[simp] theorem exec_vabs (g : Guard) (f : VA) (s : State) : exec (.vabs g f) s = execVabs g f s := rfl
@[simp] theorem exec_vneg (g : Guard) (f : VA) (s : State) : exec (.vneg g f) s = execVneg g f s := rfl
@[simp] theorem exec_vdiv (g : Guard) (f : VA) (s : State) : exec (.vdiv g f) s = execVdiv g f s := rfl
@[simp] theorem exec_vsqrt (g : Guard) (f : VA) (s : State) : exec (.vsqrt g f) s = execVsqrt g f s := rfl
@[simp] theorem exec_vrsq (g : Guard) (f : VA) (s : State) : exec (.vrsq g f) s = execVrsq g f s := rfl
@[simp] theorem exec_vexp2 (g : Guard) (f : VA) (s : State) : exec (.vexp2 g f) s = execVexp2 g f s := rfl
@[simp] theorem exec_vlog2 (g : Guard) (f : VA) (s : State) : exec (.vlog2 g f) s = execVlog2 g f s := rfl
@[simp] theorem exec_vcvt (g : Guard) (f : VA) (s : State) : exec (.vcvt g f) s = execVcvt g f s := rfl
@[simp] theorem exec_vpack (g : Guard) (f : VA) (s : State) : exec (.vpack g f) s = execVpack g f s := rfl
@[simp] theorem exec_vunpk (g : Guard) (f : VA) (s : State) : exec (.vunpk g f) s = execVunpk g f s := rfl
@[simp] theorem exec_vand (g : Guard) (f : VA) (s : State) : exec (.vand g f) s = execVand g f s := rfl
@[simp] theorem exec_vor (g : Guard) (f : VA) (s : State) : exec (.vor g f) s = execVor g f s := rfl
@[simp] theorem exec_vxor (g : Guard) (f : VA) (s : State) : exec (.vxor g f) s = execVxor g f s := rfl
@[simp] theorem exec_vshl (g : Guard) (f : VA) (s : State) : exec (.vshl g f) s = execVshl g f s := rfl
@[simp] theorem exec_vshr (g : Guard) (f : VA) (s : State) : exec (.vshr g f) s = execVshr g f s := rfl
@[simp] theorem exec_vsra (g : Guard) (f : VA) (s : State) : exec (.vsra g f) s = execVsra g f s := rfl
@[simp] theorem exec_vcmp (g : Guard) (f : VA) (s : State) : exec (.vcmp g f) s = execVcmp g f s := rfl
@[simp] theorem exec_vsel (g : Guard) (f : VA) (s : State) : exec (.vsel g f) s = execVsel g f s := rfl
@[simp] theorem exec_vred (g : Guard) (f : VA) (s : State) : exec (.vred g f) s = execVred g f s := rfl
@[simp] theorem exec_vscan (g : Guard) (f : VA) (s : State) : exec (.vscan g f) s = execVscan g f s := rfl
@[simp] theorem exec_vclass (g : Guard) (f : VA) (s : State) : exec (.vclass g f) s = execVclass g f s := rfl
@[simp] theorem exec_vterm (g : Guard) (f : VA) (s : State) : exec (.vterm g f) s = execVterm g f s := rfl
@[simp] theorem exec_vqsc (g : Guard) (f : VA) (s : State) : exec (.vqsc g f) s = execVqsc g f s := rfl
@[simp] theorem exec_vqscEnc (g : Guard) (f : VA) (s : State) : exec (.vqscEnc g f) s = execVqscEnc g f s := rfl
@[simp] theorem exec_vbcst (g : Guard) (f : VA) (s : State) : exec (.vbcst g f) s = execVbcst g f s := rfl
@[simp] theorem exec_vbcstLane (g : Guard) (f : VA) (s : State) : exec (.vbcstLane g f) s = execVbcstLane g f s := rfl
@[simp] theorem exec_vmovs (g : Guard) (f : VA) (s : State) : exec (.vmovs g f) s = execVmovs g f s := rfl
@[simp] theorem exec_vins (g : Guard) (f : VA) (s : State) : exec (.vins g f) s = execVins g f s := rfl
@[simp] theorem exec_viota (g : Guard) (f : VA) (s : State) : exec (.viota g f) s = execViota g f s := rfl
@[simp] theorem exec_vshuf (g : Guard) (f : VA) (s : State) : exec (.vshuf g f) s = execVshuf g f s := rfl
@[simp] theorem exec_vrot (g : Guard) (f : VA) (s : State) : exec (.vrot g f) s = execVrot g f s := rfl
@[simp] theorem exec_vmskLog (g : Guard) (f : VA) (s : State) : exec (.vmskLog g f) s = execVmskLog g f s := rfl
@[simp] theorem exec_vmskSet (g : Guard) (f : VA) (s : State) : exec (.vmskSet g f) s = execVmskSet g f s := rfl
@[simp] theorem exec_vmskFirst (g : Guard) (f : VA) (s : State) : exec (.vmskFirst g f) s = execVmskFirst g f s := rfl
@[simp] theorem exec_vmskGet (g : Guard) (f : VA) (s : State) : exec (.vmskGet g f) s = execVmskGet g f s := rfl
@[simp] theorem exec_vchk (g : Guard) (f : VA) (s : State) : exec (.vchk g f) s = execVchk g f s := rfl
@[simp] theorem exec_vldh (g : Guard) (f : VR) (s : State) : exec (.vldh g f) s = execVldh g f s := rfl
@[simp] theorem exec_vsth (g : Guard) (f : VR) (s : State) : exec (.vsth g f) s = execVsth g f s := rfl
@[simp] theorem exec_vlds (g : Guard) (f : VS) (s : State) : exec (.vlds g f) s = execVlds g f s := rfl
@[simp] theorem exec_vsts (g : Guard) (f : VS) (s : State) : exec (.vsts g f) s = execVsts g f s := rfl
@[simp] theorem exec_mldw (g : Guard) (f : MF) (s : State) : exec (.mldw g f) s = execMldw g f s := rfl
@[simp] theorem exec_mldwExecute (c : Fin 320) (s : State) : exec (.mldwExecute c) s = execMldwExecute c s := rfl
@[simp] theorem exec_mswap (g : Guard) (f : MF) (s : State) : exec (.mswap g f) s = execMswap g f s := rfl
@[simp] theorem exec_mpush (g : Guard) (f : MF) (s : State) : exec (.mpush g f) s = execMpush g f s := rfl
@[simp] theorem exec_beat (c : Fin 320) (s : State) : exec (.beat c) s = execBeat c s := rfl
@[simp] theorem exec_mdrain (g : Guard) (f : MF) (s : State) : exec (.mdrain g f) s = execMdrain g f s := rfl
@[simp] theorem exec_mdrainExecute (c : Fin 320) (s : State) : exec (.mdrainExecute c) s = execMdrainExecute c s := rfl
@[simp] theorem exec_mzero (g : Guard) (f : MF) (s : State) : exec (.mzero g f) s = execMzero g f s := rfl
@[simp] theorem exec_mhem (g : Guard) (f : MF) (s : State) : exec (.mhem g f) s = execMhem g f s := rfl
@[simp] theorem exec_mtclr (g : Guard) (f : MF) (s : State) : exec (.mtclr g f) s = execMtclr g f s := rfl
@[simp] theorem exec_mlu (g : Guard) (f : MF) (s : State) : exec (.mlu g f) s = execMlu g f s := rfl
@[simp] theorem exec_mchol (g : Guard) (f : MF) (s : State) : exec (.mchol g f) s = execMchol g f s := rfl
@[simp] theorem exec_mqr (g : Guard) (f : MF) (s : State) : exec (.mqr g f) s = execMqr g f s := rfl
@[simp] theorem exec_mtrsm (g : Guard) (f : MF) (s : State) : exec (.mtrsm g f) s = execMtrsm g f s := rfl
@[simp] theorem exec_factorisationStep (c : Fin 320) (s : State) : exec (.factorisationStep c) s = execFactorisationStep c s := rfl
@[simp] theorem exec_mperm (g : Guard) (f : MF) (s : State) : exec (.mperm g f) s = execMperm g f s := rfl
@[simp] theorem exec_mres (g : Guard) (f : MF) (s : State) : exec (.mres g f) s = execMres g f s := rfl
@[simp] theorem exec_mfwait (g : Guard) (f : MF) (s : State) : exec (.mfwait g f) s = execMfwait g f s := rfl
@[simp] theorem exec_asyncTrapDelivery (c : Fin 320) (s : State) : exec (.asyncTrapDelivery c) s = execAsyncTrapDelivery c s := rfl
@[simp] theorem exec_xcopy (g : Guard) (f : XF) (s : State) : exec (.xcopy g f) s = execXcopy g f s := rfl
@[simp] theorem exec_xcopys (g : Guard) (f : XF) (s : State) : exec (.xcopys g f) s = execXcopys g f s := rfl
@[simp] theorem exec_xstore (g : Guard) (f : XF) (s : State) : exec (.xstore g f) s = execXstore g f s := rfl
@[simp] theorem exec_xpub (g : Guard) (f : XF) (s : State) : exec (.xpub g f) s = execXpub g f s := rfl
@[simp] theorem exec_xpubNow (g : Guard) (f : XF) (s : State) : exec (.xpubNow g f) s = execXpubNow g f s := rfl
@[simp] theorem exec_xdrop (g : Guard) (f : XF) (s : State) : exec (.xdrop g f) s = execXdrop g f s := rfl
@[simp] theorem exec_xwld (g : Guard) (f : XF) (s : State) : exec (.xwld g f) s = execXwld g f s := rfl
@[simp] theorem exec_xgath (g : Guard) (f : XF) (s : State) : exec (.xgath g f) s = execXgath g f s := rfl
@[simp] theorem exec_xpermTr (g : Guard) (f : XF) (s : State) : exec (.xpermTr g f) s = execXpermTr g f s := rfl
@[simp] theorem exec_xpermIdx (g : Guard) (f : XF) (s : State) : exec (.xpermIdx g f) s = execXpermIdx g f s := rfl
@[simp] theorem exec_xftl (g : Guard) (f : XF) (s : State) : exec (.xftl g f) s = execXftl g f s := rfl
@[simp] theorem exec_xfte (g : Guard) (f : XF) (s : State) : exec (.xfte g f) s = execXfte g f s := rfl
@[simp] theorem exec_xqnt (g : Guard) (f : XF) (s : State) : exec (.xqnt g f) s = execXqnt g f s := rfl
@[simp] theorem exec_xqntFix (g : Guard) (f : XF) (s : State) : exec (.xqntFix g f) s = execXqntFix g f s := rfl
@[simp] theorem exec_xhist (g : Guard) (f : XF) (s : State) : exec (.xhist g f) s = execXhist g f s := rfl
@[simp] theorem exec_xhlat (g : Guard) (f : XF) (s : State) : exec (.xhlat g f) s = execXhlat g f s := rfl
@[simp] theorem exec_latchContribution (q : Fin 16) (k : Nat) (s : State) : exec (.latchContribution q k) s = execLatchContribution q k s := rfl
@[simp] theorem exec_xdfnc (g : Guard) (f : XF) (s : State) : exec (.xdfnc g f) s = execXdfnc g f s := rfl
@[simp] theorem exec_xwait (g : Guard) (f : XF) (s : State) : exec (.xwait g f) s = execXwait g f s := rfl
@[simp] theorem exec_xfill (g : Guard) (f : XF) (s : State) : exec (.xfill g f) s = execXfill g f s := rfl
@[simp] theorem exec_engineDispatch (c : Fin 320) (s : State) : exec (.engineDispatch c) s = execEngineDispatch c s := rfl
@[simp] theorem exec_engineUnit (c : Fin 320) (cls : Fin 9) (second : Bool) (s : State) : exec (.engineUnit c cls second) s = execEngineUnit c cls second s := rfl
@[simp] theorem exec_engineWatchReport (c : Fin 320) (s : State) : exec (.engineWatchReport c) s = execEngineWatchReport c s := rfl
@[simp] theorem exec_engineCommandComplete (c : Fin 320) (cls : Fin 9) (s : State) : exec (.engineCommandComplete c cls) s = execEngineCommandComplete c cls s := rfl
@[simp] theorem exec_gend (s : State) : exec (.gend) s = execGend s := rfl
@[simp] theorem exec_gjmp (off : Word) (s : State) : exec (.gjmp off) s = execGjmp off s := rfl
@[simp] theorem exec_gbr (g : BitVec 3) (inv : Bool) (off : Word) (s : State) : exec (.gbr g inv off) s = execGbr g inv off s := rfl
@[simp] theorem exec_gcall (off : Word) (s : State) : exec (.gcall off) s = execGcall off s := rfl
@[simp] theorem exec_gret (s : State) : exec (.gret) s = execGret s := rfl
@[simp] theorem exec_gloop (c : BitVec 6) (count : SOp) (exit : Word) (s : State) : exec (.gloop c count exit) s = execGloop c count exit s := rfl
@[simp] theorem exec_gendl (s : State) : exec (.gendl) s = execGendl s := rfl
@[simp] theorem exec_traph (off : Word) (s : State) : exec (.traph off) s = execTraph off s := rfl
@[simp] theorem exec_trapretRvpc (s : State) : exec (.trapretRvpc) s = execTrapretRvpc s := rfl
@[simp] theorem exec_trapretReexec (s : State) : exec (.trapretReexec) s = execTrapretReexec s := rfl
@[simp] theorem exec_trapretTarget (target : SOp) (s : State) : exec (.trapretTarget target) s = execTrapretTarget target s := rfl
@[simp] theorem exec_fmtset (i2 : BitVec 4) (v : Word) (s : State) : exec (.fmtset i2 v) s = execFmtset i2 v s := rfl
@[simp] theorem exec_fmtloop (lvl : BitVec 3) (en : Bool) (base : BitVec 4) (s : State) : exec (.fmtloop lvl en base) s = execFmtloop lvl en base s := rfl
@[simp] theorem exec_nli (d : BitVec 6) (imm : Word) (s : State) : exec (.nli d imm) s = execNli d imm s := rfl
@[simp] theorem exec_naluAdd (d : BitVec 6) (a : SOp) (b : SOp) (s : State) : exec (.naluAdd d a b) s = execNaluAdd d a b s := rfl
@[simp] theorem exec_naluSub (d : BitVec 6) (a : SOp) (b : SOp) (s : State) : exec (.naluSub d a b) s = execNaluSub d a b s := rfl
@[simp] theorem exec_naluMul (d : BitVec 6) (a : SOp) (b : SOp) (s : State) : exec (.naluMul d a b) s = execNaluMul d a b s := rfl
@[simp] theorem exec_naluFloordiv (d : BitVec 6) (a : SOp) (b : SOp) (s : State) : exec (.naluFloordiv d a b) s = execNaluFloordiv d a b s := rfl
@[simp] theorem exec_naluCeildiv (d : BitVec 6) (a : SOp) (b : SOp) (s : State) : exec (.naluCeildiv d a b) s = execNaluCeildiv d a b s := rfl
@[simp] theorem exec_naluMin (d : BitVec 6) (a : SOp) (b : SOp) (s : State) : exec (.naluMin d a b) s = execNaluMin d a b s := rfl
@[simp] theorem exec_naluMax (d : BitVec 6) (a : SOp) (b : SOp) (s : State) : exec (.naluMax d a b) s = execNaluMax d a b s := rfl
@[simp] theorem exec_naluAnd (d : BitVec 6) (a : SOp) (b : SOp) (s : State) : exec (.naluAnd d a b) s = execNaluAnd d a b s := rfl
@[simp] theorem exec_naluOr (d : BitVec 6) (a : SOp) (b : SOp) (s : State) : exec (.naluOr d a b) s = execNaluOr d a b s := rfl
@[simp] theorem exec_naluShl (d : BitVec 6) (a : SOp) (b : SOp) (s : State) : exec (.naluShl d a b) s = execNaluShl d a b s := rfl
@[simp] theorem exec_naluShr (d : BitVec 6) (a : SOp) (b : SOp) (s : State) : exec (.naluShr d a b) s = execNaluShr d a b s := rfl
@[simp] theorem exec_ncmp (cc : BitVec 3) (g : BitVec 3) (a : SOp) (b : SOp) (s : State) : exec (.ncmp cc g a b) s = execNcmp cc g a b s := rfl
@[simp] theorem exec_nld (d : BitVec 6) (sx : Bool) (sz : BitVec 2) (hw : Option (BitVec 8)) (addr : SOp) (s : State) : exec (.nld d sx sz hw addr) s = execNld d sx sz hw addr s := rfl
@[simp] theorem exec_nst (sz : BitVec 2) (addr : SOp) (v : SOp) (s : State) : exec (.nst sz addr v) s = execNst sz addr v s := rfl
@[simp] theorem exec_ndim (d : BitVec 6) (dim : BitVec 3) (sel : BitVec 2) (t : BitVec 8) (s : State) : exec (.ndim d dim sel t) s = execNdim d dim sel t s := rfl
@[simp] theorem exec_ndimCsw (d : BitVec 6) (s : State) : exec (.ndimCsw d) s = execNdimCsw d s := rfl
@[simp] theorem exec_nmb (i2 : BitVec 3) (v : SOp) (s : State) : exec (.nmb i2 v) s = execNmb i2 v s := rfl
@[simp] theorem exec_tdecl (t : BitVec 8) (rel : Bool) (addr : SOp) (s : State) : exec (.tdecl t rel addr) s = execTdecl t rel addr s := rfl
@[simp] theorem exec_tview (v : BitVec 8) (v2 : BitVec 8) (d : BitVec 3) (start : SOp) (len : SOp) (s : State) : exec (.tview v v2 d start len) s = execTview v v2 d start len s := rfl
@[simp] theorem exec_talloc (t : BitVec 8) (s : State) : exec (.talloc t) s = execTalloc t s := rfl
@[simp] theorem exec_tfree (t : BitVec 8) (s : State) : exec (.tfree t) s = execTfree t s := rfl
@[simp] theorem exec_rfence (t : BitVec 8) (s : State) : exec (.rfence t) s = execRfence t s := rfl
@[simp] theorem exec_rfenceAll (s : State) : exec (.rfenceAll) s = execRfenceAll s := rfl
@[simp] theorem exec_wsload (d : BitVec 8) (v2 : BitVec 8) (s : State) : exec (.wsload d v2) s = execWsload d v2 s := rfl
@[simp] theorem exec_kload (d : BitVec 6) (addr : SOp) (s : State) : exec (.kload d addr) s = execKload d addr s := rfl
@[simp] theorem exec_kbind (key : BitVec 9) (sig : BitVec 32) (img : SOp) (s : State) : exec (.kbind key sig img) s = execKbind key sig img s := rfl
@[simp] theorem exec_fuse (keep : Bool) (s : State) : exec (.fuse keep) s = execFuse keep s := rfl
@[simp] theorem exec_fusend (s : State) : exec (.fusend) s = execFusend s := rfl
@[simp] theorem exec_matmul (y : BitVec 8) (x : BitVec 8) (w : BitVec 8) (acc : Bool) (e : BitVec 4) (s : State) : exec (.matmul y x w acc e) s = execMatmul y x w acc e s := rfl
@[simp] theorem exec_matmulGrp (y : BitVec 8) (x : BitVec 8) (w : BitVec 8) (acc : Bool) (e : BitVec 4) (s : State) : exec (.matmulGrp y x w acc e) s = execMatmulGrp y x w acc e s := rfl
@[simp] theorem exec_ewise (y : BitVec 8) (a : BitVec 8) (c : BitVec 8) (op : BitVec 4) (s : State) : exec (.ewise y a c op) s = execEwise y a c op s := rfl
@[simp] theorem exec_unary (y : BitVec 8) (x : BitVec 8) (fn : BitVec 4) (table : SOp) (s : State) : exec (.unary y x fn table) s = execUnary y x fn table s := rfl
@[simp] theorem exec_norm (y : BitVec 8) (x : BitVec 8) (g : BitVec 8) (rms : Bool) (bt : Option (BitVec 8)) (eps : SOp) (s : State) : exec (.norm y x g rms bt eps) s = execNorm y x g rms bt eps s := rfl
@[simp] theorem exec_softmax (y : BitVec 8) (x : BitVec 8) (log : Bool) (s : State) : exec (.softmax y x log) s = execSoftmax y x log s := rfl
@[simp] theorem exec_reduce (y : BitVec 8) (x : BitVec 8) (op : BitVec 3) (axis : BitVec 3) (s : State) : exec (.reduce y x op axis) s = execReduce y x op axis s := rfl
@[simp] theorem exec_attn (o : BitVec 8) (q : BitVec 8) (k : BitVec 8) (v : BitVec 8) (causal : Bool) (scale : SOp) (s : State) : exec (.attn o q k v causal scale) s = execAttn o q k v causal scale s := rfl
@[simp] theorem exec_gather (y : BitVec 8) (x : BitVec 8) (i2 : BitVec 8) (axis : BitVec 3) (zfill : Bool) (s : State) : exec (.gather y x i2 axis zfill) s = execGather y x i2 axis zfill s := rfl
@[simp] theorem exec_scatter (y : BitVec 8) (x : BitVec 8) (i2 : BitVec 8) (axis : BitVec 3) (mode : BitVec 2) (skip : Bool) (s : State) : exec (.scatter y x i2 axis mode skip) s = execScatter y x i2 axis mode skip s := rfl
@[simp] theorem exec_topk (v : BitVec 8) (i2 : BitVec 8) (x : BitVec 8) (k : SOp) (s : State) : exec (.topk v i2 x k) s = execTopk v i2 x k s := rfl
@[simp] theorem exec_route (p : BitVec 8) (x : BitVec 8) (e : BitVec 4) (s : State) : exec (.route p x e) s = execRoute p x e s := rfl
@[simp] theorem exec_castT (y : BitVec 8) (x : BitVec 8) (s : State) : exec (.castT y x) s = execCastT y x s := rfl
@[simp] theorem exec_quant (y : BitVec 8) (x : BitVec 8) (s : State) : exec (.quant y x) s = execQuant y x s := rfl
@[simp] theorem exec_quantFix (y : BitVec 8) (x : BitVec 8) (scale : SOp) (s : State) : exec (.quantFix y x scale) s = execQuantFix y x scale s := rfl
@[simp] theorem exec_dequant (y : BitVec 8) (x : BitVec 8) (s : State) : exec (.dequant y x) s = execDequant y x s := rfl
@[simp] theorem exec_transp (y : BitVec 8) (x : BitVec 8) (perm : BitVec 18) (s : State) : exec (.transp y x perm) s = execTransp y x perm s := rfl
@[simp] theorem exec_concat (y : BitVec 8) (a : BitVec 8) (c : BitVec 8) (axis : BitVec 3) (s : State) : exec (.concat y a c axis) s = execConcat y a c axis s := rfl
@[simp] theorem exec_copyT (y : BitVec 8) (x : BitVec 8) (s : State) : exec (.copyT y x) s = execCopyT y x s := rfl
@[simp] theorem exec_fillT (y : BitVec 8) (v : SOp) (s : State) : exec (.fillT y v) s = execFillT y v s := rfl
@[simp] theorem exec_luf (a : BitVec 8) (p : BitVec 8) (g : BitVec 8) (rep : Option SOp) (s : State) : exec (.luf a p g rep) s = execLuf a p g rep s := rfl
@[simp] theorem exec_cholf (a : BitVec 8) (g : BitVec 8) (rep : Option SOp) (s : State) : exec (.cholf a g rep) s = execCholf a g rep s := rfl
@[simp] theorem exec_qrf (a : BitVec 8) (tau : BitVec 8) (g : BitVec 8) (s : State) : exec (.qrf a tau g) s = execQrf a tau g s := rfl
@[simp] theorem exec_trsm (x : BitVec 8) (l : BitVec 8) (low : Bool) (unit : Bool) (trn : Bool) (s : State) : exec (.trsm x l low unit trn) s = execTrsm x l low unit trn s := rfl
@[simp] theorem exec_allred (y : BitVec 8) (x : BitVec 8) (op : BitVec 2) (s : State) : exec (.allred y x op) s = execAllred y x op s := rfl
@[simp] theorem exec_allgath (y : BitVec 8) (x : BitVec 8) (s : State) : exec (.allgath y x) s = execAllgath y x s := rfl
@[simp] theorem exec_redscat (y : BitVec 8) (x : BitVec 8) (op : BitVec 2) (s : State) : exec (.redscat y x op) s = execRedscat y x op s := rfl
@[simp] theorem exec_alltoall (y : BitVec 8) (x : BitVec 8) (s : State) : exec (.alltoall y x) s = execAlltoall y x s := rfl
@[simp] theorem exec_sendT (x : BitVec 8) (peer : SOp) (tag : BitVec 16) (s : State) : exec (.sendT x peer tag) s = execSendT x peer tag s := rfl
@[simp] theorem exec_recv (y : BitVec 8) (peer : SOp) (tag : BitVec 16) (s : State) : exec (.recv y peer tag) s = execRecv y peer tag s := rfl
@[simp] theorem exec_signalSet (addr : SOp) (v : SOp) (s : State) : exec (.signalSet addr v) s = execSignalSet addr v s := rfl
@[simp] theorem exec_signalAdd (addr : SOp) (v : SOp) (s : State) : exec (.signalAdd addr v) s = execSignalAdd addr v s := rfl
@[simp] theorem exec_waitsig (cc : BitVec 3) (d : BitVec 6) (addr : SOp) (v : SOp) (s : State) : exec (.waitsig cc d addr v) s = execWaitsig cc d addr v s := rfl
@[simp] theorem exec_waitsigWake (q : Fin 16) (s : State) : exec (.waitsigWake q) s = execWaitsigWake q s := rfl
@[simp] theorem exec_opfence (scope : BitVec 4) (s : State) : exec (.opfence scope) s = execOpfence scope s := rfl
@[simp] theorem exec_opx (x : BitVec 8) (no : BitVec 4) (ts : List (BitVec 8)) (ns : List SOp) (s : State) : exec (.opx x no ts ns) s = execOpx x no ts ns s := rfl
@[simp] theorem exec_chunkDispatch (q : Fin 16) (s : State) : exec (.chunkDispatch q) s = execChunkDispatch q s := rfl
@[simp] theorem exec_energyWindow (s : State) : exec (.energyWindow) s = execEnergyWindow s := rfl
@[simp] theorem exec_invocationComplete (q : Fin 16) (k : Nat) (s : State) : exec (.invocationComplete q k) s = execInvocationComplete q k s := rfl
@[simp] theorem exec_kernelFaultDelivery (q : Fin 16) (s : State) : exec (.kernelFaultDelivery q) s = execKernelFaultDelivery q s := rfl
@[simp] theorem exec_watchdog (c : Fin 320) (s : State) : exec (.watchdog c) s = execWatchdog c s := rfl
@[simp] theorem exec_wsRefresh (s : State) : exec (.wsRefresh) s = execWsRefresh s := rfl
@[simp] theorem exec_shootdown (slot : BitVec 6) (va : BitVec 48) (len : BitVec 48) (s : State) : exec (.shootdown slot va len) s = execShootdown slot va len s := rfl
@[simp] theorem exec_uncorrectableError (e : ErrSite) (s : State) : exec (.uncorrectableError e) s = execUncorrectableError e s := rfl
@[simp] theorem exec_correctableError (code : Fin 12) (s : State) : exec (.correctableError code) s = execCorrectableError code s := rfl
@[simp] theorem exec_preemptionRequest (q : Fin 16) (s : State) : exec (.preemptionRequest q) s = execPreemptionRequest q s := rfl
@[simp] theorem exec_hardPreemption (c : Fin 320) (s : State) : exec (.hardPreemption c) s = execHardPreemption c s := rfl
@[simp] theorem exec_taskResume (q : Fin 16) (area : BitVec 52) (s : State) : exec (.taskResume q area) s = execTaskResume q area s := rfl
@[simp] theorem exec_servingContextWake (q : Fin 16) (s : State) : exec (.servingContextWake q) s = execServingContextWake q s := rfl
@[simp] theorem exec_flitReceive (p : Fin 16) (flit : BitVec 576) (s : State) : exec (.flitReceive p flit) s = execFlitReceive p flit s := rfl
@[simp] theorem exec_linkReplay (p : Fin 16) (seq : BitVec 12) (s : State) : exec (.linkReplay p seq) s = execLinkReplay p seq s := rfl
@[simp] theorem exec_linkRetrain (p : Fin 16) (s : State) : exec (.linkRetrain p) s = execLinkRetrain p s := rfl
@[simp] theorem exec_fabricTimeout (k : Nat) (s : State) : exec (.fabricTimeout k) s = execFabricTimeout k s := rfl
@[simp] theorem exec_peerRead (r : Req) (s : State) : exec (.peerRead r) s = execPeerRead r s := rfl
@[simp] theorem exec_peerWrite (r : Req) (s : State) : exec (.peerWrite r) s = execPeerWrite r s := rfl
@[simp] theorem exec_remoteAtomic (r : Req) (s : State) : exec (.remoteAtomic r) s = execRemoteAtomic r s := rfl
@[simp] theorem exec_enqueue (r : Req) (s : State) : exec (.enqueue r) s = execEnqueue r s := rfl
@[simp] theorem exec_response (k : Nat) (data : BitVec 512) (s : State) : exec (.response k data) s = execResponse k data s := rfl
@[simp] theorem exec_refusal (k : Nat) (reason : BitVec 2) (s : State) : exec (.refusal k reason) s = execRefusal k reason s := rfl
@[simp] theorem exec_hostRead (r : Req) (s : State) : exec (.hostRead r) s = execHostRead r s := rfl
@[simp] theorem exec_hostWrite (r : Req) (s : State) : exec (.hostWrite r) s = execHostWrite r s := rfl
@[simp] theorem exec_ethernetFrame (port : Fin 8) (frame : List Byte) (enq : Option Req) (s : State) : exec (.ethernetFrame port frame enq) s = execEthernetFrame port frame enq s := rfl
@[simp] theorem exec_getVersion (req : List Byte) (s : State) : exec (.getVersion req) s = execGetVersion req s := rfl
@[simp] theorem exec_getCapabilities (req : List Byte) (s : State) : exec (.getCapabilities req) s = execGetCapabilities req s := rfl
@[simp] theorem exec_negotiateAlgorithms (req : List Byte) (s : State) : exec (.negotiateAlgorithms req) s = execNegotiateAlgorithms req s := rfl
@[simp] theorem exec_getDigests (req : List Byte) (s : State) : exec (.getDigests req) s = execGetDigests req s := rfl
@[simp] theorem exec_getCertificate (req : List Byte) (s : State) : exec (.getCertificate req) s = execGetCertificate req s := rfl
@[simp] theorem exec_challenge (req : List Byte) (s : State) : exec (.challenge req) s = execChallenge req s := rfl
@[simp] theorem exec_getMeasurements (req : List Byte) (s : State) : exec (.getMeasurements req) s = execGetMeasurements req s := rfl
@[simp] theorem exec_dbgStop (c : Fin 320) (s : State) : exec (.dbgStop c) s = execDbgStop c s := rfl
@[simp] theorem exec_dbgResume (c : Fin 320) (s : State) : exec (.dbgResume c) s = execDbgResume c s := rfl
@[simp] theorem exec_dbgStep (c : Fin 320) (s : State) : exec (.dbgStep c) s = execDbgStep c s := rfl
@[simp] theorem exec_stopWindowWrite (c : Fin 320) (off : BitVec 20) (v : Word) (s : State) : exec (.stopWindowWrite c off v) s = execStopWindowWrite c off v s := rfl
@[simp] theorem exec_sample (c : Fin 320) (s : State) : exec (.sample c) s = execSample c s := rfl
@[simp] theorem exec_fire (s : State) : exec (.fire) s = execFire s := rfl
@[simp] theorem exec_haltNEdge (s : State) : exec (.haltNEdge) s = execHaltNEdge s := rfl
@[simp] theorem exec_halterRearm (s : State) : exec (.halterRearm) s = execHalterRearm s := rfl
@[simp] theorem exec_halterLatch (s : State) : exec (.halterLatch) s = execHalterLatch s := rfl
@[simp] theorem exec_replayArrival (source : BitVec 8) (payload : List Byte) (s : State) : exec (.replayArrival source payload) s = execReplayArrival source payload s := rfl
@[simp] theorem exec_powerOnReset (cfg : BootCfg) (s : State) : exec (.powerOnReset cfg) s = execPowerOnReset cfg s := rfl
@[simp] theorem exec_upd (image : List Byte) (s : State) : exec (.upd image) s = execUpd image s := rfl
@[simp] theorem exec_reinHb (k : Fin 6) (s : State) : exec (.reinHb k) s = execReinHb k s := rfl
@[simp] theorem exec_updateRollback (s : State) : exec (.updateRollback) s = execUpdateRollback s := rfl
@[simp] theorem exec_reinRestart (k : Fin 6) (s : State) : exec (.reinRestart k) s = execReinRestart k s := rfl
@[simp] theorem exec_queueBlockApply (q : Fin 64) (block : BitVec 52) (s : State) : exec (.queueBlockApply q block) s = execQueueBlockApply q block s := rfl
@[simp] theorem exec_platClkWrite (v : Word) (s : State) : exec (.platClkWrite v) s = execPlatClkWrite v s := rfl
@[simp] theorem exec_thermalTrip (d : Fin 5) (s : State) : exec (.thermalTrip d) s = execThermalTrip d s := rfl
@[simp] theorem exec_rasClear (ue : Bool) (code : Fin 12) (v : Word) (s : State) : exec (.rasClear ue code v) s = execRasClear ue code v s := rfl
@[simp] theorem exec_spillWrite (d : Fin 4) (size : Bool) (v : Word) (s : State) : exec (.spillWrite d size v) s = execSpillWrite d size v s := rfl
@[simp] theorem exec_cloakEntryWrite (d : Fin 4) (i2 : Fin 8192) (high : Bool) (v : Word) (s : State) : exec (.cloakEntryWrite d i2 high v) s = execCloakEntryWrite d i2 high v s := rfl
@[simp] theorem exec_exposureWrite (e : Fin 256) (high : Bool) (v : Word) (s : State) : exec (.exposureWrite e high v) s = execExposureWrite e high v s := rfl
@[simp] theorem exec_peerSlotWrite (slot : Fin 256) (v : Word) (s : State) : exec (.peerSlotWrite slot v) s = execPeerSlotWrite slot v s := rfl
@[simp] theorem exec_fabIdWrite (v : Word) (s : State) : exec (.fabIdWrite v) s = execFabIdWrite v s := rfl
@[simp] theorem exec_fabPortenWrite (v : Word) (s : State) : exec (.fabPortenWrite v) s = execFabPortenWrite v s := rfl
@[simp] theorem exec_routeWrite (dev : Fin 4094) (v : Word) (s : State) : exec (.routeWrite dev v) s = execRouteWrite dev v s := rfl
@[simp] theorem exec_queueW0Write (q : Fin 64) (v : Word) (s : State) : exec (.queueW0Write q v) s = execQueueW0Write q v s := rfl
@[simp] theorem exec_registerWrite (addr : BitVec 52) (v : Word) (s : State) : exec (.registerWrite addr v) s = execRegisterWrite addr v s := rfl
@[simp] theorem exec_mSlotEntryExecute (c : Fin 320) (s : State) : exec (.mSlotEntryExecute c) s = execMSlotEntryExecute c s := rfl
@[simp] theorem exec_pageResolved (u : UnitId) (s : State) : exec (.pageResolved u) s = execPageResolved u s := rfl
@[simp] theorem exec_contextCreate (cfg : CtxCfg) (s : State) : exec (.contextCreate cfg) s = execContextCreate cfg s := rfl
@[simp] theorem exec_contextActivate (q : Fin 16) (tag : BitVec 16) (s : State) : exec (.contextActivate q tag) s = execContextActivate q tag s := rfl
@[simp] theorem exec_teamChange (q : Fin 16) (map : BitVec 40) (s : State) : exec (.teamChange q map) s = execTeamChange q map s := rfl
@[simp] theorem exec_preemptionWithdraw (q : Fin 16) (s : State) : exec (.preemptionWithdraw q) s = execPreemptionWithdraw q s := rfl
@[simp] theorem exec_haltNRelease (s : State) : exec (.haltNRelease) s = execHaltNRelease s := rfl
@[simp] theorem exec_linkTrainingDone (p : Fin 16) (up : Bool) (s : State) : exec (.linkTrainingDone p up) s = execLinkTrainingDone p up s := rfl
@[simp] theorem exec_unassignedOpcode (b : BitVec 8) (s : State) : exec (.unassignedOpcode b) s = execUnassignedOpcode b s := rfl
@[simp] theorem exec_vbcFetch (info : Word) (s : State) : exec (.vbcFetch info) s = execVbcFetch info s := rfl

end Sys2Proof.Laws
end

