-- ==== Sys2Proof/Laws/Memory.lean ====
section
/-! SUPPORT. The canonical form of the sparse stores, and that every operation over them keeps it: one key, one byte, one word, a list of bytes, at a
location and by physical address. Reading back and the rest of memory are stated in the obligations. -/

namespace Sys2Proof.Laws

open Sys2Proof.Machine Sys2Proof.Safety

/-! ## Sparse lists -/

theorem spAbove_lt {α : Type} {j k : Nat} {l : List (Nat × α)} (h : j < k) (a : spAbove k l = true) : spAbove j l = true := by
  induction l with
  | nil => rfl
  | cons e l ih =>
    obtain ⟨x, v⟩ := e
    simp only [spAbove, Bool.and_eq_true, decide_eq_true_eq] at a ⊢
    exact ⟨Nat.lt_trans h a.1, ih a.2⟩

theorem spAbove_set {α : Type} [DecidableEq α] {d v : α} {j k : Nat} {l : List (Nat × α)} (h : j < k) (a : spAbove j l = true) :
    spAbove j (spSet d l k v) = true := by
  induction l with
  | nil => simp only [spSet]; split <;> simp [spAbove, h]
  | cons e l ih =>
    obtain ⟨x, w⟩ := e
    simp only [spAbove, Bool.and_eq_true, decide_eq_true_eq] at a
    simp only [spSet]
    split
    · split <;> simp [spAbove, a.1, a.2, h]
    · split
      · split
        · exact a.2
        · simp [spAbove, h, a.2]
      · simp [spAbove, a.1, ih a.2]

/-- Writing a key keeps the canonical form. -/
theorem spWf_set {α : Type} [DecidableEq α] {d v : α} {k : Nat} {l : List (Nat × α)} (h : spWf d l = true) : spWf d (spSet d l k v) = true := by
  induction l with
  | nil => simp only [spSet]; split <;> simp_all [spWf, spAbove]
  | cons e l ih =>
    obtain ⟨x, w⟩ := e
    simp only [spWf, Bool.and_eq_true, decide_eq_true_eq] at h
    obtain ⟨⟨hw, ha⟩, hl⟩ := h
    simp only [spSet]
    split
    · rename_i hk
      split
      · simp [spWf, hw, ha, hl]
      · rename_i hv
        simp [spWf, spAbove, hv, hw, ha, hl, hk, spAbove_lt hk ha]
    · rename_i hk
      split
      · rename_i he
        subst he
        split
        · exact hl
        · rename_i hv; simp [spWf, hv, ha, hl]
      · rename_i he
        have hx : x < k := by omega
        simp [spWf, hw, ih hl, spAbove_set hx ha]

/-- The key that was written reads as what was written; the others as before. -/
theorem spGet_above {α : Type} {d : α} {k : Nat} {l : List (Nat × α)} (h : spAbove k l = true) : spGet d l k = d := by
  cases l with
  | nil => rfl
  | cons e l =>
    obtain ⟨x, v⟩ := e
    simp only [spAbove, Bool.and_eq_true, decide_eq_true_eq] at h
    have h1 : ¬ x = k := by omega
    simp [spGet, h1, h.1]

theorem spAbove_iff {α : Type} {k : Nat} {l : List (Nat × α)} : spAbove k l = true ↔ ∀ e ∈ l, k < e.1 := by
  induction l with
  | nil => simp [spAbove]
  | cons e l ih => obtain ⟨x, v⟩ := e; simp [spAbove, ih]

/-- The canonical form as a property of the entries and their order. -/
theorem spWf_iff {α : Type} [DecidableEq α] {d : α} {l : List (Nat × α)} :
    spWf d l = true ↔ (∀ e ∈ l, e.2 ≠ d) ∧ l.Pairwise (fun a b => a.1 < b.1) := by
  induction l with
  | nil => simp [spWf]
  | cons e l ih =>
    obtain ⟨x, v⟩ := e
    simp only [spWf, Bool.and_eq_true, decide_eq_true_eq, spAbove_iff, ih, List.mem_cons, forall_eq_or_imp, List.pairwise_cons]
    constructor
    · rintro ⟨⟨h1, h2⟩, h3, h4⟩; exact ⟨⟨h1, h3⟩, h2, h4⟩
    · rintro ⟨⟨h1, h3⟩, h2, h4⟩; exact ⟨⟨h1, h2⟩, h3, h4⟩

/-! ## Byte memories -/

theorem wf_clear {m : Mem} {a n : Nat} (h : Mem.wf m = true) : Mem.wf (Mem.clear m a n) = true := by
  unfold Mem.wf at *
  rw [spWf_iff] at *
  exact ⟨fun e he => h.1 e (List.mem_filter.mp he).1, h.2.filter _⟩

/-- Laying a block keeps the canonical form. -/
theorem wf_lay {m : Mem} {a n : Nat} {f : Nat → BitVec 8} (h : Mem.wf m = true) : Mem.wf (Mem.lay m a n f) = true := by
  unfold Mem.wf at *
  rw [spWf_iff] at *
  have hp : ((List.range n).map (fun i => (a + i, f (a + i)))).Pairwise (fun x y => x.1 < y.1) :=
    List.pairwise_map.mpr (List.pairwise_lt_range.imp (fun h => by simpa using h))
  unfold Mem.lay
  constructor
  · intro e he
    simp only [List.mem_append, List.mem_filter] at he
    rcases he with (he | he) | he
    · exact h.1 e he.1
    · simpa using he.2
    · exact h.1 e he.1
  · refine List.pairwise_append.mpr ⟨List.pairwise_append.mpr ⟨h.2.filter _, hp.filter _, ?_⟩, h.2.filter _, ?_⟩
    · intro x hx y hy
      simp only [List.mem_filter, List.mem_map, decide_eq_true_eq] at hx hy
      obtain ⟨⟨i, -, rfl⟩, -⟩ := hy
      exact Nat.lt_of_lt_of_le hx.2 (Nat.le_add_right _ _)
    · intro x hx y hy
      simp only [List.mem_append, List.mem_filter, List.mem_map, List.mem_range, decide_eq_true_eq] at hx hy
      rcases hx with hx | ⟨⟨i, hi, rfl⟩, -⟩ <;> omega

theorem wf_set {m : Mem} {a : Nat} {b : Byte} (h : Mem.wf m = true) : Mem.wf (Mem.set m a b) = true := spWf_set h
theorem wf_write {m : Mem} {a x n : Nat} (h : Mem.wf m = true) : Mem.wf (Mem.write m a x n) = true := by
  induction n generalizing m a x with
  | zero => exact h
  | succ n ih => exact ih (wf_set h)
theorem regs_wf_set {r : Regs} {a : Nat} {v : Word} (h : Regs.wf r = true) : Regs.wf (r.set a v) = true := spWf_set h

/-! ## Device memory -/

theorem memOk_reset : MemOk State.reset := rfl
theorem memOk_of_mem {s t : State} (e : t.mem = s.mem) (h : MemOk s) : MemOk t := by unfold MemOk at *; rw [e]; exact h

/-- One byte at its home. -/
theorem memOk_writeByte {s : State} {ilv pa : Nat} {b : Byte} (h : MemOk s) : MemOk (s.writeByte ilv pa b) := by
  unfold State.writeByte
  split
  · exact h
  · exact wf_set h
/-- n bytes of a word. -/
theorem memOk_writePA {s : State} {ilv pa x n : Nat} (h : MemOk s) : MemOk (s.writePA ilv pa x n) := by
  induction n generalizing s pa x with
  | zero => exact h
  | succ n ih => exact ih (memOk_writeByte h)
theorem memOk_writeP {s : State} {pa x n : Nat} (h : MemOk s) : MemOk (s.writeP pa x n) := memOk_writePA h
/-- A list of bytes. -/
theorem memOk_writeL {s : State} {l : List Byte} {pa : Nat} (h : MemOk s) : MemOk (s.writeL pa l) := by
  induction l generalizing s pa with
  | nil => exact h
  | cons b l ih => exact ih (memOk_writeByte h)

/-- A fold over operations that keep the form keeps it. -/
theorem memOk_foldl {β : Type} {f : State → β → State} (hf : ∀ s b, MemOk s → MemOk (f s b)) (l : List β) {s : State} (h : MemOk s) : MemOk (l.foldl f s) := by
  induction l generalizing s with
  | nil => exact h
  | cons b l ih => exact ih (hf s b h)

/-- One line, one page, a whole save area. -/
theorem memOk_writeLn {s : State} {pa : Nat} {l : List Byte} (h : MemOk s) : MemOk (s.writeLn pa l) := by
  unfold State.writeLn
  split
  · exact wf_lay (m := s.mem) (a := locKey (s.frameIlv pa) pa) (n := 64) (f := fun a => l.getD (a - locKey (s.frameIlv pa) pa) 0) h
  · exact memOk_writeL h
theorem memOk_writePage {s : State} {pa : Nat} {l : List Byte} (h : MemOk s) : MemOk (s.writePage pa l) := memOk_foldl (fun _ _ h => memOk_writeLn h) _ h
theorem memOk_saveArea {s : State} {pa n : Nat} {l : List (Nat × List Byte)} (h : MemOk s) : MemOk (s.saveArea pa n l) :=
  memOk_writePage (memOk_foldl (fun _ _ h => memOk_writePage h) _ h)

@[simp] theorem memOk_setCore {s : State} {c : Fin 320} {k : Core} : MemOk (s.setCore c k) ↔ MemOk s := Iff.rfl
@[simp] theorem memOk_modCore {s : State} {c : Fin 320} {f : Core → Core} : MemOk (s.modCore c f) ↔ MemOk s := Iff.rfl
@[simp] theorem memOk_setCtx {s : State} {q : Fin 16} {x : Ctx} : MemOk (s.setCtx q x) ↔ MemOk s := Iff.rfl

end Sys2Proof.Laws
end

