-- ==== Sys2Proof/Laws/State.lean ====
section
/-! SUPPORT. What each named update of the state leaves alone: one lemma per field and update. -/

namespace Sys2Proof.Machine

/-! ### State.setCore -/

@[simp] theorem State.setCore_tb (s : State) (c : Fin 320) (k : Core) : (s.setCore c k).tb = s.tb := rfl
@[simp] theorem State.setCore_agenda (s : State) (c : Fin 320) (k : Core) : (s.setCore c k).agenda = s.agenda := rfl
@[simp] theorem State.setCore_free (s : State) (c : Fin 320) (k : Core) : (s.setCore c k).free = s.free := rfl
@[simp] theorem State.setCore_cur (s : State) (c : Fin 320) (k : Core) : (s.setCore c k).cur = s.cur := rfl
@[simp] theorem State.setCore_iss (s : State) (c : Fin 320) (k : Core) : (s.setCore c k).iss = s.iss := rfl
@[simp] theorem State.setCore_osqs (s : State) (c : Fin 320) (k : Core) : (s.setCore c k).osqs = s.osqs := rfl
@[simp] theorem State.setCore_dorm (s : State) (c : Fin 320) (k : Core) : (s.setCore c k).dorm = s.dorm := rfl
@[simp] theorem State.setCore_dies (s : State) (c : Fin 320) (k : Core) : (s.setCore c k).dies = s.dies := rfl
@[simp] theorem State.setCore_clus (s : State) (c : Fin 320) (k : Core) : (s.setCore c k).clus = s.clus := rfl
@[simp] theorem State.setCore_mem (s : State) (c : Fin 320) (k : Core) : (s.setCore c k).mem = s.mem := rfl
@[simp] theorem State.setCore_frames (s : State) (c : Fin 320) (k : Core) : (s.setCore c k).frames = s.frames := rfl
@[simp] theorem State.setCore_cwrit (s : State) (c : Fin 320) (k : Core) : (s.setCore c k).cwrit = s.cwrit := rfl
@[simp] theorem State.setCore_stamps (s : State) (c : Fin 320) (k : Core) : (s.setCore c k).stamps = s.stamps := rfl
@[simp] theorem State.setCore_barrs (s : State) (c : Fin 320) (k : Core) : (s.setCore c k).barrs = s.barrs := rfl
@[simp] theorem State.setCore_parts (s : State) (c : Fin 320) (k : Core) : (s.setCore c k).parts = s.parts := rfl
@[simp] theorem State.setCore_imgs (s : State) (c : Fin 320) (k : Core) : (s.setCore c k).imgs = s.imgs := rfl
@[simp] theorem State.setCore_saves (s : State) (c : Fin 320) (k : Core) : (s.setCore c k).saves = s.saves := rfl
@[simp] theorem State.setCore_plat (s : State) (c : Fin 320) (k : Core) : (s.setCore c k).plat = s.plat := rfl
@[simp] theorem State.setCore_rec (s : State) (c : Fin 320) (k : Core) : (s.setCore c k).rec_ = s.rec_ := rfl
@[simp] theorem State.setCore_phases (s : State) (c : Fin 320) (k : Core) : (s.setCore c k).phases = s.phases := rfl
@[simp] theorem State.setCore_ueMarks (s : State) (c : Fin 320) (k : Core) : (s.setCore c k).ueMarks = s.ueMarks := rfl

/-! ### State.modCore -/

@[simp] theorem State.modCore_tb (s : State) (c : Fin 320) (f : Core → Core) : (s.modCore c f).tb = s.tb := rfl
@[simp] theorem State.modCore_agenda (s : State) (c : Fin 320) (f : Core → Core) : (s.modCore c f).agenda = s.agenda := rfl
@[simp] theorem State.modCore_free (s : State) (c : Fin 320) (f : Core → Core) : (s.modCore c f).free = s.free := rfl
@[simp] theorem State.modCore_cur (s : State) (c : Fin 320) (f : Core → Core) : (s.modCore c f).cur = s.cur := rfl
@[simp] theorem State.modCore_iss (s : State) (c : Fin 320) (f : Core → Core) : (s.modCore c f).iss = s.iss := rfl
@[simp] theorem State.modCore_osqs (s : State) (c : Fin 320) (f : Core → Core) : (s.modCore c f).osqs = s.osqs := rfl
@[simp] theorem State.modCore_dorm (s : State) (c : Fin 320) (f : Core → Core) : (s.modCore c f).dorm = s.dorm := rfl
@[simp] theorem State.modCore_dies (s : State) (c : Fin 320) (f : Core → Core) : (s.modCore c f).dies = s.dies := rfl
@[simp] theorem State.modCore_clus (s : State) (c : Fin 320) (f : Core → Core) : (s.modCore c f).clus = s.clus := rfl
@[simp] theorem State.modCore_mem (s : State) (c : Fin 320) (f : Core → Core) : (s.modCore c f).mem = s.mem := rfl
@[simp] theorem State.modCore_frames (s : State) (c : Fin 320) (f : Core → Core) : (s.modCore c f).frames = s.frames := rfl
@[simp] theorem State.modCore_cwrit (s : State) (c : Fin 320) (f : Core → Core) : (s.modCore c f).cwrit = s.cwrit := rfl
@[simp] theorem State.modCore_stamps (s : State) (c : Fin 320) (f : Core → Core) : (s.modCore c f).stamps = s.stamps := rfl
@[simp] theorem State.modCore_barrs (s : State) (c : Fin 320) (f : Core → Core) : (s.modCore c f).barrs = s.barrs := rfl
@[simp] theorem State.modCore_parts (s : State) (c : Fin 320) (f : Core → Core) : (s.modCore c f).parts = s.parts := rfl
@[simp] theorem State.modCore_imgs (s : State) (c : Fin 320) (f : Core → Core) : (s.modCore c f).imgs = s.imgs := rfl
@[simp] theorem State.modCore_saves (s : State) (c : Fin 320) (f : Core → Core) : (s.modCore c f).saves = s.saves := rfl
@[simp] theorem State.modCore_plat (s : State) (c : Fin 320) (f : Core → Core) : (s.modCore c f).plat = s.plat := rfl
@[simp] theorem State.modCore_rec (s : State) (c : Fin 320) (f : Core → Core) : (s.modCore c f).rec_ = s.rec_ := rfl
@[simp] theorem State.modCore_phases (s : State) (c : Fin 320) (f : Core → Core) : (s.modCore c f).phases = s.phases := rfl
@[simp] theorem State.modCore_ueMarks (s : State) (c : Fin 320) (f : Core → Core) : (s.modCore c f).ueMarks = s.ueMarks := rfl

/-! ### State.setCtx -/

@[simp] theorem State.setCtx_tb (s : State) (q : Fin 16) (x : Ctx) : (s.setCtx q x).tb = s.tb := rfl
@[simp] theorem State.setCtx_agenda (s : State) (q : Fin 16) (x : Ctx) : (s.setCtx q x).agenda = s.agenda := rfl
@[simp] theorem State.setCtx_free (s : State) (q : Fin 16) (x : Ctx) : (s.setCtx q x).free = s.free := rfl
@[simp] theorem State.setCtx_cur (s : State) (q : Fin 16) (x : Ctx) : (s.setCtx q x).cur = s.cur := rfl
@[simp] theorem State.setCtx_iss (s : State) (q : Fin 16) (x : Ctx) : (s.setCtx q x).iss = s.iss := rfl
@[simp] theorem State.setCtx_cores (s : State) (q : Fin 16) (x : Ctx) : (s.setCtx q x).cores = s.cores := rfl
@[simp] theorem State.setCtx_dorm (s : State) (q : Fin 16) (x : Ctx) : (s.setCtx q x).dorm = s.dorm := rfl
@[simp] theorem State.setCtx_dies (s : State) (q : Fin 16) (x : Ctx) : (s.setCtx q x).dies = s.dies := rfl
@[simp] theorem State.setCtx_clus (s : State) (q : Fin 16) (x : Ctx) : (s.setCtx q x).clus = s.clus := rfl
@[simp] theorem State.setCtx_mem (s : State) (q : Fin 16) (x : Ctx) : (s.setCtx q x).mem = s.mem := rfl
@[simp] theorem State.setCtx_frames (s : State) (q : Fin 16) (x : Ctx) : (s.setCtx q x).frames = s.frames := rfl
@[simp] theorem State.setCtx_cwrit (s : State) (q : Fin 16) (x : Ctx) : (s.setCtx q x).cwrit = s.cwrit := rfl
@[simp] theorem State.setCtx_stamps (s : State) (q : Fin 16) (x : Ctx) : (s.setCtx q x).stamps = s.stamps := rfl
@[simp] theorem State.setCtx_barrs (s : State) (q : Fin 16) (x : Ctx) : (s.setCtx q x).barrs = s.barrs := rfl
@[simp] theorem State.setCtx_parts (s : State) (q : Fin 16) (x : Ctx) : (s.setCtx q x).parts = s.parts := rfl
@[simp] theorem State.setCtx_imgs (s : State) (q : Fin 16) (x : Ctx) : (s.setCtx q x).imgs = s.imgs := rfl
@[simp] theorem State.setCtx_saves (s : State) (q : Fin 16) (x : Ctx) : (s.setCtx q x).saves = s.saves := rfl
@[simp] theorem State.setCtx_plat (s : State) (q : Fin 16) (x : Ctx) : (s.setCtx q x).plat = s.plat := rfl
@[simp] theorem State.setCtx_rec (s : State) (q : Fin 16) (x : Ctx) : (s.setCtx q x).rec_ = s.rec_ := rfl
@[simp] theorem State.setCtx_phases (s : State) (q : Fin 16) (x : Ctx) : (s.setCtx q x).phases = s.phases := rfl
@[simp] theorem State.setCtx_ueMarks (s : State) (q : Fin 16) (x : Ctx) : (s.setCtx q x).ueMarks = s.ueMarks := rfl

/-! ### State.modCtx -/

@[simp] theorem State.modCtx_tb (s : State) (q : Fin 16) (f : Ctx → Ctx) : (s.modCtx q f).tb = s.tb := by unfold State.modCtx; split <;> rfl
@[simp] theorem State.modCtx_agenda (s : State) (q : Fin 16) (f : Ctx → Ctx) : (s.modCtx q f).agenda = s.agenda := by unfold State.modCtx; split <;> rfl
@[simp] theorem State.modCtx_free (s : State) (q : Fin 16) (f : Ctx → Ctx) : (s.modCtx q f).free = s.free := by unfold State.modCtx; split <;> rfl
@[simp] theorem State.modCtx_cur (s : State) (q : Fin 16) (f : Ctx → Ctx) : (s.modCtx q f).cur = s.cur := by unfold State.modCtx; split <;> rfl
@[simp] theorem State.modCtx_iss (s : State) (q : Fin 16) (f : Ctx → Ctx) : (s.modCtx q f).iss = s.iss := by unfold State.modCtx; split <;> rfl
@[simp] theorem State.modCtx_cores (s : State) (q : Fin 16) (f : Ctx → Ctx) : (s.modCtx q f).cores = s.cores := by unfold State.modCtx; split <;> rfl
@[simp] theorem State.modCtx_dorm (s : State) (q : Fin 16) (f : Ctx → Ctx) : (s.modCtx q f).dorm = s.dorm := by unfold State.modCtx; split <;> rfl
@[simp] theorem State.modCtx_dies (s : State) (q : Fin 16) (f : Ctx → Ctx) : (s.modCtx q f).dies = s.dies := by unfold State.modCtx; split <;> rfl
@[simp] theorem State.modCtx_clus (s : State) (q : Fin 16) (f : Ctx → Ctx) : (s.modCtx q f).clus = s.clus := by unfold State.modCtx; split <;> rfl
@[simp] theorem State.modCtx_mem (s : State) (q : Fin 16) (f : Ctx → Ctx) : (s.modCtx q f).mem = s.mem := by unfold State.modCtx; split <;> rfl
@[simp] theorem State.modCtx_frames (s : State) (q : Fin 16) (f : Ctx → Ctx) : (s.modCtx q f).frames = s.frames := by unfold State.modCtx; split <;> rfl
@[simp] theorem State.modCtx_cwrit (s : State) (q : Fin 16) (f : Ctx → Ctx) : (s.modCtx q f).cwrit = s.cwrit := by unfold State.modCtx; split <;> rfl
@[simp] theorem State.modCtx_stamps (s : State) (q : Fin 16) (f : Ctx → Ctx) : (s.modCtx q f).stamps = s.stamps := by unfold State.modCtx; split <;> rfl
@[simp] theorem State.modCtx_barrs (s : State) (q : Fin 16) (f : Ctx → Ctx) : (s.modCtx q f).barrs = s.barrs := by unfold State.modCtx; split <;> rfl
@[simp] theorem State.modCtx_parts (s : State) (q : Fin 16) (f : Ctx → Ctx) : (s.modCtx q f).parts = s.parts := by unfold State.modCtx; split <;> rfl
@[simp] theorem State.modCtx_imgs (s : State) (q : Fin 16) (f : Ctx → Ctx) : (s.modCtx q f).imgs = s.imgs := by unfold State.modCtx; split <;> rfl
@[simp] theorem State.modCtx_saves (s : State) (q : Fin 16) (f : Ctx → Ctx) : (s.modCtx q f).saves = s.saves := by unfold State.modCtx; split <;> rfl
@[simp] theorem State.modCtx_plat (s : State) (q : Fin 16) (f : Ctx → Ctx) : (s.modCtx q f).plat = s.plat := by unfold State.modCtx; split <;> rfl
@[simp] theorem State.modCtx_rec (s : State) (q : Fin 16) (f : Ctx → Ctx) : (s.modCtx q f).rec_ = s.rec_ := by unfold State.modCtx; split <;> rfl
@[simp] theorem State.modCtx_phases (s : State) (q : Fin 16) (f : Ctx → Ctx) : (s.modCtx q f).phases = s.phases := by unfold State.modCtx; split <;> rfl
@[simp] theorem State.modCtx_ueMarks (s : State) (q : Fin 16) (f : Ctx → Ctx) : (s.modCtx q f).ueMarks = s.ueMarks := by unfold State.modCtx; split <;> rfl

/-! ### State.setFront -/

@[simp] theorem State.setFront_tb (s : State) (f : Front) : (s.setFront f).tb = s.tb := by unfold State.setFront; split <;> simp
@[simp] theorem State.setFront_agenda (s : State) (f : Front) : (s.setFront f).agenda = s.agenda := by unfold State.setFront; split <;> simp
@[simp] theorem State.setFront_free (s : State) (f : Front) : (s.setFront f).free = s.free := by unfold State.setFront; split <;> simp
@[simp] theorem State.setFront_cur (s : State) (f : Front) : (s.setFront f).cur = s.cur := by unfold State.setFront; split <;> simp
@[simp] theorem State.setFront_iss (s : State) (f : Front) : (s.setFront f).iss = s.iss := by unfold State.setFront; split <;> simp
@[simp] theorem State.setFront_dorm (s : State) (f : Front) : (s.setFront f).dorm = s.dorm := by unfold State.setFront; split <;> simp
@[simp] theorem State.setFront_dies (s : State) (f : Front) : (s.setFront f).dies = s.dies := by unfold State.setFront; split <;> simp
@[simp] theorem State.setFront_clus (s : State) (f : Front) : (s.setFront f).clus = s.clus := by unfold State.setFront; split <;> simp
@[simp] theorem State.setFront_mem (s : State) (f : Front) : (s.setFront f).mem = s.mem := by unfold State.setFront; split <;> simp
@[simp] theorem State.setFront_frames (s : State) (f : Front) : (s.setFront f).frames = s.frames := by unfold State.setFront; split <;> simp
@[simp] theorem State.setFront_cwrit (s : State) (f : Front) : (s.setFront f).cwrit = s.cwrit := by unfold State.setFront; split <;> simp
@[simp] theorem State.setFront_stamps (s : State) (f : Front) : (s.setFront f).stamps = s.stamps := by unfold State.setFront; split <;> simp
@[simp] theorem State.setFront_barrs (s : State) (f : Front) : (s.setFront f).barrs = s.barrs := by unfold State.setFront; split <;> simp
@[simp] theorem State.setFront_parts (s : State) (f : Front) : (s.setFront f).parts = s.parts := by unfold State.setFront; split <;> simp
@[simp] theorem State.setFront_imgs (s : State) (f : Front) : (s.setFront f).imgs = s.imgs := by unfold State.setFront; split <;> simp
@[simp] theorem State.setFront_saves (s : State) (f : Front) : (s.setFront f).saves = s.saves := by unfold State.setFront; split <;> simp
@[simp] theorem State.setFront_plat (s : State) (f : Front) : (s.setFront f).plat = s.plat := by unfold State.setFront; split <;> simp
@[simp] theorem State.setFront_rec (s : State) (f : Front) : (s.setFront f).rec_ = s.rec_ := by unfold State.setFront; split <;> simp
@[simp] theorem State.setFront_phases (s : State) (f : Front) : (s.setFront f).phases = s.phases := by unfold State.setFront; split <;> simp
@[simp] theorem State.setFront_ueMarks (s : State) (f : Front) : (s.setFront f).ueMarks = s.ueMarks := by unfold State.setFront; split <;> simp

/-! ### State.fly -/

@[simp] theorem State.fly_tb (s : State) (l : Nat) (d : Dest) : (s.fly l d).tb = s.tb := by simp [State.fly]
@[simp] theorem State.fly_agenda (s : State) (l : Nat) (d : Dest) : (s.fly l d).agenda = s.agenda := by simp [State.fly]
@[simp] theorem State.fly_free (s : State) (l : Nat) (d : Dest) : (s.fly l d).free = s.free := by simp [State.fly]
@[simp] theorem State.fly_cur (s : State) (l : Nat) (d : Dest) : (s.fly l d).cur = s.cur := by simp [State.fly]
@[simp] theorem State.fly_iss (s : State) (l : Nat) (d : Dest) : (s.fly l d).iss = s.iss := by simp [State.fly]
@[simp] theorem State.fly_dorm (s : State) (l : Nat) (d : Dest) : (s.fly l d).dorm = s.dorm := by simp [State.fly]
@[simp] theorem State.fly_dies (s : State) (l : Nat) (d : Dest) : (s.fly l d).dies = s.dies := by simp [State.fly]
@[simp] theorem State.fly_clus (s : State) (l : Nat) (d : Dest) : (s.fly l d).clus = s.clus := by simp [State.fly]
@[simp] theorem State.fly_mem (s : State) (l : Nat) (d : Dest) : (s.fly l d).mem = s.mem := by simp [State.fly]
@[simp] theorem State.fly_frames (s : State) (l : Nat) (d : Dest) : (s.fly l d).frames = s.frames := by simp [State.fly]
@[simp] theorem State.fly_cwrit (s : State) (l : Nat) (d : Dest) : (s.fly l d).cwrit = s.cwrit := by simp [State.fly]
@[simp] theorem State.fly_stamps (s : State) (l : Nat) (d : Dest) : (s.fly l d).stamps = s.stamps := by simp [State.fly]
@[simp] theorem State.fly_barrs (s : State) (l : Nat) (d : Dest) : (s.fly l d).barrs = s.barrs := by simp [State.fly]
@[simp] theorem State.fly_parts (s : State) (l : Nat) (d : Dest) : (s.fly l d).parts = s.parts := by simp [State.fly]
@[simp] theorem State.fly_imgs (s : State) (l : Nat) (d : Dest) : (s.fly l d).imgs = s.imgs := by simp [State.fly]
@[simp] theorem State.fly_saves (s : State) (l : Nat) (d : Dest) : (s.fly l d).saves = s.saves := by simp [State.fly]
@[simp] theorem State.fly_plat (s : State) (l : Nat) (d : Dest) : (s.fly l d).plat = s.plat := by simp [State.fly]
@[simp] theorem State.fly_rec (s : State) (l : Nat) (d : Dest) : (s.fly l d).rec_ = s.rec_ := by simp [State.fly]
@[simp] theorem State.fly_phases (s : State) (l : Nat) (d : Dest) : (s.fly l d).phases = s.phases := by simp [State.fly]
@[simp] theorem State.fly_ueMarks (s : State) (l : Nat) (d : Dest) : (s.fly l d).ueMarks = s.ueMarks := by simp [State.fly]

/-! ### State.flyS -/

@[simp] theorem State.flyS_tb (s : State) (l : Nat) (r : BitVec 6) (v : Word) (p : Bool) : (s.flyS l r v p).tb = s.tb := by simp [State.flyS]
@[simp] theorem State.flyS_agenda (s : State) (l : Nat) (r : BitVec 6) (v : Word) (p : Bool) : (s.flyS l r v p).agenda = s.agenda := by simp [State.flyS]
@[simp] theorem State.flyS_free (s : State) (l : Nat) (r : BitVec 6) (v : Word) (p : Bool) : (s.flyS l r v p).free = s.free := by simp [State.flyS]
@[simp] theorem State.flyS_cur (s : State) (l : Nat) (r : BitVec 6) (v : Word) (p : Bool) : (s.flyS l r v p).cur = s.cur := by simp [State.flyS]
@[simp] theorem State.flyS_iss (s : State) (l : Nat) (r : BitVec 6) (v : Word) (p : Bool) : (s.flyS l r v p).iss = s.iss := by simp [State.flyS]
@[simp] theorem State.flyS_dorm (s : State) (l : Nat) (r : BitVec 6) (v : Word) (p : Bool) : (s.flyS l r v p).dorm = s.dorm := by simp [State.flyS]
@[simp] theorem State.flyS_dies (s : State) (l : Nat) (r : BitVec 6) (v : Word) (p : Bool) : (s.flyS l r v p).dies = s.dies := by simp [State.flyS]
@[simp] theorem State.flyS_clus (s : State) (l : Nat) (r : BitVec 6) (v : Word) (p : Bool) : (s.flyS l r v p).clus = s.clus := by simp [State.flyS]
@[simp] theorem State.flyS_mem (s : State) (l : Nat) (r : BitVec 6) (v : Word) (p : Bool) : (s.flyS l r v p).mem = s.mem := by simp [State.flyS]
@[simp] theorem State.flyS_frames (s : State) (l : Nat) (r : BitVec 6) (v : Word) (p : Bool) : (s.flyS l r v p).frames = s.frames := by simp [State.flyS]
@[simp] theorem State.flyS_cwrit (s : State) (l : Nat) (r : BitVec 6) (v : Word) (p : Bool) : (s.flyS l r v p).cwrit = s.cwrit := by simp [State.flyS]
@[simp] theorem State.flyS_stamps (s : State) (l : Nat) (r : BitVec 6) (v : Word) (p : Bool) : (s.flyS l r v p).stamps = s.stamps := by simp [State.flyS]
@[simp] theorem State.flyS_barrs (s : State) (l : Nat) (r : BitVec 6) (v : Word) (p : Bool) : (s.flyS l r v p).barrs = s.barrs := by simp [State.flyS]
@[simp] theorem State.flyS_parts (s : State) (l : Nat) (r : BitVec 6) (v : Word) (p : Bool) : (s.flyS l r v p).parts = s.parts := by simp [State.flyS]
@[simp] theorem State.flyS_imgs (s : State) (l : Nat) (r : BitVec 6) (v : Word) (p : Bool) : (s.flyS l r v p).imgs = s.imgs := by simp [State.flyS]
@[simp] theorem State.flyS_saves (s : State) (l : Nat) (r : BitVec 6) (v : Word) (p : Bool) : (s.flyS l r v p).saves = s.saves := by simp [State.flyS]
@[simp] theorem State.flyS_plat (s : State) (l : Nat) (r : BitVec 6) (v : Word) (p : Bool) : (s.flyS l r v p).plat = s.plat := by simp [State.flyS]
@[simp] theorem State.flyS_rec (s : State) (l : Nat) (r : BitVec 6) (v : Word) (p : Bool) : (s.flyS l r v p).rec_ = s.rec_ := by simp [State.flyS]
@[simp] theorem State.flyS_phases (s : State) (l : Nat) (r : BitVec 6) (v : Word) (p : Bool) : (s.flyS l r v p).phases = s.phases := by simp [State.flyS]
@[simp] theorem State.flyS_ueMarks (s : State) (l : Nat) (r : BitVec 6) (v : Word) (p : Bool) : (s.flyS l r v p).ueMarks = s.ueMarks := by simp [State.flyS]

/-! ### State.landDue -/

@[simp] theorem State.landDue_tb (s : State) : (s.landDue).tb = s.tb := by unfold State.landDue; split <;> simp
@[simp] theorem State.landDue_agenda (s : State) : (s.landDue).agenda = s.agenda := by unfold State.landDue; split <;> simp
@[simp] theorem State.landDue_free (s : State) : (s.landDue).free = s.free := by unfold State.landDue; split <;> simp
@[simp] theorem State.landDue_cur (s : State) : (s.landDue).cur = s.cur := by unfold State.landDue; split <;> simp
@[simp] theorem State.landDue_iss (s : State) : (s.landDue).iss = s.iss := by unfold State.landDue; split <;> simp
@[simp] theorem State.landDue_dorm (s : State) : (s.landDue).dorm = s.dorm := by unfold State.landDue; split <;> simp
@[simp] theorem State.landDue_dies (s : State) : (s.landDue).dies = s.dies := by unfold State.landDue; split <;> simp
@[simp] theorem State.landDue_clus (s : State) : (s.landDue).clus = s.clus := by unfold State.landDue; split <;> simp
@[simp] theorem State.landDue_mem (s : State) : (s.landDue).mem = s.mem := by unfold State.landDue; split <;> simp
@[simp] theorem State.landDue_frames (s : State) : (s.landDue).frames = s.frames := by unfold State.landDue; split <;> simp
@[simp] theorem State.landDue_cwrit (s : State) : (s.landDue).cwrit = s.cwrit := by unfold State.landDue; split <;> simp
@[simp] theorem State.landDue_stamps (s : State) : (s.landDue).stamps = s.stamps := by unfold State.landDue; split <;> simp
@[simp] theorem State.landDue_barrs (s : State) : (s.landDue).barrs = s.barrs := by unfold State.landDue; split <;> simp
@[simp] theorem State.landDue_parts (s : State) : (s.landDue).parts = s.parts := by unfold State.landDue; split <;> simp
@[simp] theorem State.landDue_imgs (s : State) : (s.landDue).imgs = s.imgs := by unfold State.landDue; split <;> simp
@[simp] theorem State.landDue_saves (s : State) : (s.landDue).saves = s.saves := by unfold State.landDue; split <;> simp
@[simp] theorem State.landDue_plat (s : State) : (s.landDue).plat = s.plat := by unfold State.landDue; split <;> simp
@[simp] theorem State.landDue_rec (s : State) : (s.landDue).rec_ = s.rec_ := by unfold State.landDue; split <;> simp
@[simp] theorem State.landDue_phases (s : State) : (s.landDue).phases = s.phases := by unfold State.landDue; split <;> simp
@[simp] theorem State.landDue_ueMarks (s : State) : (s.landDue).ueMarks = s.ueMarks := by unfold State.landDue; split <;> simp

/-! ### State.modRing -/

@[simp] theorem State.modRing_tb (s : State) (h : BitVec 4) (f : Ring → Ring) : (s.modRing h f).tb = s.tb := rfl
@[simp] theorem State.modRing_agenda (s : State) (h : BitVec 4) (f : Ring → Ring) : (s.modRing h f).agenda = s.agenda := rfl
@[simp] theorem State.modRing_free (s : State) (h : BitVec 4) (f : Ring → Ring) : (s.modRing h f).free = s.free := rfl
@[simp] theorem State.modRing_cur (s : State) (h : BitVec 4) (f : Ring → Ring) : (s.modRing h f).cur = s.cur := rfl
@[simp] theorem State.modRing_iss (s : State) (h : BitVec 4) (f : Ring → Ring) : (s.modRing h f).iss = s.iss := rfl
@[simp] theorem State.modRing_osqs (s : State) (h : BitVec 4) (f : Ring → Ring) : (s.modRing h f).osqs = s.osqs := rfl
@[simp] theorem State.modRing_dorm (s : State) (h : BitVec 4) (f : Ring → Ring) : (s.modRing h f).dorm = s.dorm := rfl
@[simp] theorem State.modRing_dies (s : State) (h : BitVec 4) (f : Ring → Ring) : (s.modRing h f).dies = s.dies := rfl
@[simp] theorem State.modRing_clus (s : State) (h : BitVec 4) (f : Ring → Ring) : (s.modRing h f).clus = s.clus := rfl
@[simp] theorem State.modRing_mem (s : State) (h : BitVec 4) (f : Ring → Ring) : (s.modRing h f).mem = s.mem := rfl
@[simp] theorem State.modRing_frames (s : State) (h : BitVec 4) (f : Ring → Ring) : (s.modRing h f).frames = s.frames := rfl
@[simp] theorem State.modRing_cwrit (s : State) (h : BitVec 4) (f : Ring → Ring) : (s.modRing h f).cwrit = s.cwrit := rfl
@[simp] theorem State.modRing_stamps (s : State) (h : BitVec 4) (f : Ring → Ring) : (s.modRing h f).stamps = s.stamps := rfl
@[simp] theorem State.modRing_barrs (s : State) (h : BitVec 4) (f : Ring → Ring) : (s.modRing h f).barrs = s.barrs := rfl
@[simp] theorem State.modRing_parts (s : State) (h : BitVec 4) (f : Ring → Ring) : (s.modRing h f).parts = s.parts := rfl
@[simp] theorem State.modRing_imgs (s : State) (h : BitVec 4) (f : Ring → Ring) : (s.modRing h f).imgs = s.imgs := rfl
@[simp] theorem State.modRing_saves (s : State) (h : BitVec 4) (f : Ring → Ring) : (s.modRing h f).saves = s.saves := rfl
@[simp] theorem State.modRing_plat (s : State) (h : BitVec 4) (f : Ring → Ring) : (s.modRing h f).plat = s.plat := rfl
@[simp] theorem State.modRing_rec (s : State) (h : BitVec 4) (f : Ring → Ring) : (s.modRing h f).rec_ = s.rec_ := rfl
@[simp] theorem State.modRing_phases (s : State) (h : BitVec 4) (f : Ring → Ring) : (s.modRing h f).phases = s.phases := rfl
@[simp] theorem State.modRing_ueMarks (s : State) (h : BitVec 4) (f : Ring → Ring) : (s.modRing h f).ueMarks = s.ueMarks := rfl

/-! ### State.await -/

@[simp] theorem State.await_tb (s : State) (d : BitVec 6) (v : Word) (p : Bool) : (s.await d v p).tb = s.tb := by simp [State.await]
@[simp] theorem State.await_agenda (s : State) (d : BitVec 6) (v : Word) (p : Bool) : (s.await d v p).agenda = s.agenda := by simp [State.await]
@[simp] theorem State.await_free (s : State) (d : BitVec 6) (v : Word) (p : Bool) : (s.await d v p).free = s.free := by simp [State.await]
@[simp] theorem State.await_cur (s : State) (d : BitVec 6) (v : Word) (p : Bool) : (s.await d v p).cur = s.cur := by simp [State.await]
@[simp] theorem State.await_iss (s : State) (d : BitVec 6) (v : Word) (p : Bool) : (s.await d v p).iss = s.iss := by simp [State.await]
@[simp] theorem State.await_dorm (s : State) (d : BitVec 6) (v : Word) (p : Bool) : (s.await d v p).dorm = s.dorm := by simp [State.await]
@[simp] theorem State.await_dies (s : State) (d : BitVec 6) (v : Word) (p : Bool) : (s.await d v p).dies = s.dies := by simp [State.await]
@[simp] theorem State.await_clus (s : State) (d : BitVec 6) (v : Word) (p : Bool) : (s.await d v p).clus = s.clus := by simp [State.await]
@[simp] theorem State.await_mem (s : State) (d : BitVec 6) (v : Word) (p : Bool) : (s.await d v p).mem = s.mem := by simp [State.await]
@[simp] theorem State.await_frames (s : State) (d : BitVec 6) (v : Word) (p : Bool) : (s.await d v p).frames = s.frames := by simp [State.await]
@[simp] theorem State.await_cwrit (s : State) (d : BitVec 6) (v : Word) (p : Bool) : (s.await d v p).cwrit = s.cwrit := by simp [State.await]
@[simp] theorem State.await_stamps (s : State) (d : BitVec 6) (v : Word) (p : Bool) : (s.await d v p).stamps = s.stamps := by simp [State.await]
@[simp] theorem State.await_barrs (s : State) (d : BitVec 6) (v : Word) (p : Bool) : (s.await d v p).barrs = s.barrs := by simp [State.await]
@[simp] theorem State.await_parts (s : State) (d : BitVec 6) (v : Word) (p : Bool) : (s.await d v p).parts = s.parts := by simp [State.await]
@[simp] theorem State.await_imgs (s : State) (d : BitVec 6) (v : Word) (p : Bool) : (s.await d v p).imgs = s.imgs := by simp [State.await]
@[simp] theorem State.await_saves (s : State) (d : BitVec 6) (v : Word) (p : Bool) : (s.await d v p).saves = s.saves := by simp [State.await]
@[simp] theorem State.await_plat (s : State) (d : BitVec 6) (v : Word) (p : Bool) : (s.await d v p).plat = s.plat := by simp [State.await]
@[simp] theorem State.await_rec (s : State) (d : BitVec 6) (v : Word) (p : Bool) : (s.await d v p).rec_ = s.rec_ := by simp [State.await]
@[simp] theorem State.await_phases (s : State) (d : BitVec 6) (v : Word) (p : Bool) : (s.await d v p).phases = s.phases := by simp [State.await]
@[simp] theorem State.await_ueMarks (s : State) (d : BitVec 6) (v : Word) (p : Bool) : (s.await d v p).ueMarks = s.ueMarks := by simp [State.await]

/-! ### State.dropReq -/

@[simp] theorem State.dropReq_tb (s : State) (u : UnitId) (k : BitVec 4) (a : Nat) : (s.dropReq u k a).tb = s.tb := rfl
@[simp] theorem State.dropReq_agenda (s : State) (u : UnitId) (k : BitVec 4) (a : Nat) : (s.dropReq u k a).agenda = s.agenda := rfl
@[simp] theorem State.dropReq_free (s : State) (u : UnitId) (k : BitVec 4) (a : Nat) : (s.dropReq u k a).free = s.free := rfl
@[simp] theorem State.dropReq_cur (s : State) (u : UnitId) (k : BitVec 4) (a : Nat) : (s.dropReq u k a).cur = s.cur := rfl
@[simp] theorem State.dropReq_iss (s : State) (u : UnitId) (k : BitVec 4) (a : Nat) : (s.dropReq u k a).iss = s.iss := rfl
@[simp] theorem State.dropReq_cores (s : State) (u : UnitId) (k : BitVec 4) (a : Nat) : (s.dropReq u k a).cores = s.cores := rfl
@[simp] theorem State.dropReq_osqs (s : State) (u : UnitId) (k : BitVec 4) (a : Nat) : (s.dropReq u k a).osqs = s.osqs := rfl
@[simp] theorem State.dropReq_dorm (s : State) (u : UnitId) (k : BitVec 4) (a : Nat) : (s.dropReq u k a).dorm = s.dorm := rfl
@[simp] theorem State.dropReq_dies (s : State) (u : UnitId) (k : BitVec 4) (a : Nat) : (s.dropReq u k a).dies = s.dies := rfl
@[simp] theorem State.dropReq_clus (s : State) (u : UnitId) (k : BitVec 4) (a : Nat) : (s.dropReq u k a).clus = s.clus := rfl
@[simp] theorem State.dropReq_mem (s : State) (u : UnitId) (k : BitVec 4) (a : Nat) : (s.dropReq u k a).mem = s.mem := rfl
@[simp] theorem State.dropReq_frames (s : State) (u : UnitId) (k : BitVec 4) (a : Nat) : (s.dropReq u k a).frames = s.frames := rfl
@[simp] theorem State.dropReq_cwrit (s : State) (u : UnitId) (k : BitVec 4) (a : Nat) : (s.dropReq u k a).cwrit = s.cwrit := rfl
@[simp] theorem State.dropReq_stamps (s : State) (u : UnitId) (k : BitVec 4) (a : Nat) : (s.dropReq u k a).stamps = s.stamps := rfl
@[simp] theorem State.dropReq_barrs (s : State) (u : UnitId) (k : BitVec 4) (a : Nat) : (s.dropReq u k a).barrs = s.barrs := rfl
@[simp] theorem State.dropReq_parts (s : State) (u : UnitId) (k : BitVec 4) (a : Nat) : (s.dropReq u k a).parts = s.parts := rfl
@[simp] theorem State.dropReq_imgs (s : State) (u : UnitId) (k : BitVec 4) (a : Nat) : (s.dropReq u k a).imgs = s.imgs := rfl
@[simp] theorem State.dropReq_saves (s : State) (u : UnitId) (k : BitVec 4) (a : Nat) : (s.dropReq u k a).saves = s.saves := rfl
@[simp] theorem State.dropReq_rec (s : State) (u : UnitId) (k : BitVec 4) (a : Nat) : (s.dropReq u k a).rec_ = s.rec_ := rfl
@[simp] theorem State.dropReq_phases (s : State) (u : UnitId) (k : BitVec 4) (a : Nat) : (s.dropReq u k a).phases = s.phases := rfl
@[simp] theorem State.dropReq_ueMarks (s : State) (u : UnitId) (k : BitVec 4) (a : Nat) : (s.dropReq u k a).ueMarks = s.ueMarks := rfl

/-! ### State.setQueueW -/

@[simp] theorem State.setQueueW_tb (s : State) (q i : Nat) (v : Word) : (s.setQueueW q i v).tb = s.tb := rfl
@[simp] theorem State.setQueueW_agenda (s : State) (q i : Nat) (v : Word) : (s.setQueueW q i v).agenda = s.agenda := rfl
@[simp] theorem State.setQueueW_free (s : State) (q i : Nat) (v : Word) : (s.setQueueW q i v).free = s.free := rfl
@[simp] theorem State.setQueueW_cur (s : State) (q i : Nat) (v : Word) : (s.setQueueW q i v).cur = s.cur := rfl
@[simp] theorem State.setQueueW_iss (s : State) (q i : Nat) (v : Word) : (s.setQueueW q i v).iss = s.iss := rfl
@[simp] theorem State.setQueueW_cores (s : State) (q i : Nat) (v : Word) : (s.setQueueW q i v).cores = s.cores := rfl
@[simp] theorem State.setQueueW_osqs (s : State) (q i : Nat) (v : Word) : (s.setQueueW q i v).osqs = s.osqs := rfl
@[simp] theorem State.setQueueW_dorm (s : State) (q i : Nat) (v : Word) : (s.setQueueW q i v).dorm = s.dorm := rfl
@[simp] theorem State.setQueueW_dies (s : State) (q i : Nat) (v : Word) : (s.setQueueW q i v).dies = s.dies := rfl
@[simp] theorem State.setQueueW_clus (s : State) (q i : Nat) (v : Word) : (s.setQueueW q i v).clus = s.clus := rfl
@[simp] theorem State.setQueueW_mem (s : State) (q i : Nat) (v : Word) : (s.setQueueW q i v).mem = s.mem := rfl
@[simp] theorem State.setQueueW_frames (s : State) (q i : Nat) (v : Word) : (s.setQueueW q i v).frames = s.frames := rfl
@[simp] theorem State.setQueueW_cwrit (s : State) (q i : Nat) (v : Word) : (s.setQueueW q i v).cwrit = s.cwrit := rfl
@[simp] theorem State.setQueueW_stamps (s : State) (q i : Nat) (v : Word) : (s.setQueueW q i v).stamps = s.stamps := rfl
@[simp] theorem State.setQueueW_barrs (s : State) (q i : Nat) (v : Word) : (s.setQueueW q i v).barrs = s.barrs := rfl
@[simp] theorem State.setQueueW_parts (s : State) (q i : Nat) (v : Word) : (s.setQueueW q i v).parts = s.parts := rfl
@[simp] theorem State.setQueueW_imgs (s : State) (q i : Nat) (v : Word) : (s.setQueueW q i v).imgs = s.imgs := rfl
@[simp] theorem State.setQueueW_saves (s : State) (q i : Nat) (v : Word) : (s.setQueueW q i v).saves = s.saves := rfl
@[simp] theorem State.setQueueW_rec (s : State) (q i : Nat) (v : Word) : (s.setQueueW q i v).rec_ = s.rec_ := rfl
@[simp] theorem State.setQueueW_phases (s : State) (q i : Nat) (v : Word) : (s.setQueueW q i v).phases = s.phases := rfl
@[simp] theorem State.setQueueW_ueMarks (s : State) (q i : Nat) (v : Word) : (s.setQueueW q i v).ueMarks = s.ueMarks := rfl

/-! ### State.orphan -/

@[simp] theorem State.orphan_tb (s : State) (p : FReq → Bool) : (s.orphan p).tb = s.tb := rfl
@[simp] theorem State.orphan_agenda (s : State) (p : FReq → Bool) : (s.orphan p).agenda = s.agenda := rfl
@[simp] theorem State.orphan_free (s : State) (p : FReq → Bool) : (s.orphan p).free = s.free := rfl
@[simp] theorem State.orphan_cur (s : State) (p : FReq → Bool) : (s.orphan p).cur = s.cur := rfl
@[simp] theorem State.orphan_iss (s : State) (p : FReq → Bool) : (s.orphan p).iss = s.iss := rfl
@[simp] theorem State.orphan_cores (s : State) (p : FReq → Bool) : (s.orphan p).cores = s.cores := rfl
@[simp] theorem State.orphan_osqs (s : State) (p : FReq → Bool) : (s.orphan p).osqs = s.osqs := rfl
@[simp] theorem State.orphan_dorm (s : State) (p : FReq → Bool) : (s.orphan p).dorm = s.dorm := rfl
@[simp] theorem State.orphan_dies (s : State) (p : FReq → Bool) : (s.orphan p).dies = s.dies := rfl
@[simp] theorem State.orphan_clus (s : State) (p : FReq → Bool) : (s.orphan p).clus = s.clus := rfl
@[simp] theorem State.orphan_mem (s : State) (p : FReq → Bool) : (s.orphan p).mem = s.mem := rfl
@[simp] theorem State.orphan_frames (s : State) (p : FReq → Bool) : (s.orphan p).frames = s.frames := rfl
@[simp] theorem State.orphan_cwrit (s : State) (p : FReq → Bool) : (s.orphan p).cwrit = s.cwrit := rfl
@[simp] theorem State.orphan_stamps (s : State) (p : FReq → Bool) : (s.orphan p).stamps = s.stamps := rfl
@[simp] theorem State.orphan_barrs (s : State) (p : FReq → Bool) : (s.orphan p).barrs = s.barrs := rfl
@[simp] theorem State.orphan_parts (s : State) (p : FReq → Bool) : (s.orphan p).parts = s.parts := rfl
@[simp] theorem State.orphan_imgs (s : State) (p : FReq → Bool) : (s.orphan p).imgs = s.imgs := rfl
@[simp] theorem State.orphan_saves (s : State) (p : FReq → Bool) : (s.orphan p).saves = s.saves := rfl
@[simp] theorem State.orphan_phases (s : State) (p : FReq → Bool) : (s.orphan p).phases = s.phases := rfl
@[simp] theorem State.orphan_ueMarks (s : State) (p : FReq → Bool) : (s.orphan p).ueMarks = s.ueMarks := rfl
@[simp] theorem State.orphan_rec (s : State) (p : FReq → Bool) : (s.orphan p).rec_ = s.rec_ := rfl
theorem State.orphan_none (s : State) (p : FReq → Bool) (h : s.plat.reqs = []) : (s.orphan p).plat.reqs = [] := by simp [State.orphan, h]

/-! ### State.stopCore -/

@[simp] theorem State.stopCore_tb (s : State) (c : Fin 320) (w : BitVec 8) (b : Bool) (i : Nat) : (s.stopCore c w b i).tb = s.tb := rfl
@[simp] theorem State.stopCore_agenda (s : State) (c : Fin 320) (w : BitVec 8) (b : Bool) (i : Nat) : (s.stopCore c w b i).agenda = s.agenda := rfl
@[simp] theorem State.stopCore_free (s : State) (c : Fin 320) (w : BitVec 8) (b : Bool) (i : Nat) : (s.stopCore c w b i).free = s.free := rfl
@[simp] theorem State.stopCore_cur (s : State) (c : Fin 320) (w : BitVec 8) (b : Bool) (i : Nat) : (s.stopCore c w b i).cur = s.cur := rfl
@[simp] theorem State.stopCore_iss (s : State) (c : Fin 320) (w : BitVec 8) (b : Bool) (i : Nat) : (s.stopCore c w b i).iss = s.iss := rfl
@[simp] theorem State.stopCore_osqs (s : State) (c : Fin 320) (w : BitVec 8) (b : Bool) (i : Nat) : (s.stopCore c w b i).osqs = s.osqs := rfl
@[simp] theorem State.stopCore_dorm (s : State) (c : Fin 320) (w : BitVec 8) (b : Bool) (i : Nat) : (s.stopCore c w b i).dorm = s.dorm := rfl
@[simp] theorem State.stopCore_dies (s : State) (c : Fin 320) (w : BitVec 8) (b : Bool) (i : Nat) : (s.stopCore c w b i).dies = s.dies := rfl
@[simp] theorem State.stopCore_clus (s : State) (c : Fin 320) (w : BitVec 8) (b : Bool) (i : Nat) : (s.stopCore c w b i).clus = s.clus := rfl
@[simp] theorem State.stopCore_mem (s : State) (c : Fin 320) (w : BitVec 8) (b : Bool) (i : Nat) : (s.stopCore c w b i).mem = s.mem := rfl
@[simp] theorem State.stopCore_frames (s : State) (c : Fin 320) (w : BitVec 8) (b : Bool) (i : Nat) : (s.stopCore c w b i).frames = s.frames := rfl
@[simp] theorem State.stopCore_cwrit (s : State) (c : Fin 320) (w : BitVec 8) (b : Bool) (i : Nat) : (s.stopCore c w b i).cwrit = s.cwrit := rfl
@[simp] theorem State.stopCore_stamps (s : State) (c : Fin 320) (w : BitVec 8) (b : Bool) (i : Nat) : (s.stopCore c w b i).stamps = s.stamps := rfl
@[simp] theorem State.stopCore_barrs (s : State) (c : Fin 320) (w : BitVec 8) (b : Bool) (i : Nat) : (s.stopCore c w b i).barrs = s.barrs := rfl
@[simp] theorem State.stopCore_parts (s : State) (c : Fin 320) (w : BitVec 8) (b : Bool) (i : Nat) : (s.stopCore c w b i).parts = s.parts := rfl
@[simp] theorem State.stopCore_imgs (s : State) (c : Fin 320) (w : BitVec 8) (b : Bool) (i : Nat) : (s.stopCore c w b i).imgs = s.imgs := rfl
@[simp] theorem State.stopCore_saves (s : State) (c : Fin 320) (w : BitVec 8) (b : Bool) (i : Nat) : (s.stopCore c w b i).saves = s.saves := rfl
@[simp] theorem State.stopCore_plat (s : State) (c : Fin 320) (w : BitVec 8) (b : Bool) (i : Nat) : (s.stopCore c w b i).plat = s.plat := rfl
@[simp] theorem State.stopCore_rec (s : State) (c : Fin 320) (w : BitVec 8) (b : Bool) (i : Nat) : (s.stopCore c w b i).rec_ = s.rec_ := rfl
@[simp] theorem State.stopCore_phases (s : State) (c : Fin 320) (w : BitVec 8) (b : Bool) (i : Nat) : (s.stopCore c w b i).phases = s.phases := rfl
@[simp] theorem State.stopCore_ueMarks (s : State) (c : Fin 320) (w : BitVec 8) (b : Bool) (i : Nat) : (s.stopCore c w b i).ueMarks = s.ueMarks := rfl

/-! ### State.stamp -/

@[simp] theorem State.stamp_tb (s : State) (a : Stamp) : (s.stamp a).tb = s.tb := by unfold State.stamp; split <;> rfl
@[simp] theorem State.stamp_agenda (s : State) (a : Stamp) : (s.stamp a).agenda = s.agenda := by unfold State.stamp; split <;> rfl
@[simp] theorem State.stamp_free (s : State) (a : Stamp) : (s.stamp a).free = s.free := by unfold State.stamp; split <;> rfl
@[simp] theorem State.stamp_cur (s : State) (a : Stamp) : (s.stamp a).cur = s.cur := by unfold State.stamp; split <;> rfl
@[simp] theorem State.stamp_iss (s : State) (a : Stamp) : (s.stamp a).iss = s.iss := by unfold State.stamp; split <;> rfl
@[simp] theorem State.stamp_cores (s : State) (a : Stamp) : (s.stamp a).cores = s.cores := by unfold State.stamp; split <;> rfl
@[simp] theorem State.stamp_osqs (s : State) (a : Stamp) : (s.stamp a).osqs = s.osqs := by unfold State.stamp; split <;> rfl
@[simp] theorem State.stamp_dorm (s : State) (a : Stamp) : (s.stamp a).dorm = s.dorm := by unfold State.stamp; split <;> rfl
@[simp] theorem State.stamp_dies (s : State) (a : Stamp) : (s.stamp a).dies = s.dies := by unfold State.stamp; split <;> rfl
@[simp] theorem State.stamp_clus (s : State) (a : Stamp) : (s.stamp a).clus = s.clus := by unfold State.stamp; split <;> rfl
@[simp] theorem State.stamp_mem (s : State) (a : Stamp) : (s.stamp a).mem = s.mem := by unfold State.stamp; split <;> rfl
@[simp] theorem State.stamp_frames (s : State) (a : Stamp) : (s.stamp a).frames = s.frames := by unfold State.stamp; split <;> rfl
@[simp] theorem State.stamp_cwrit (s : State) (a : Stamp) : (s.stamp a).cwrit = s.cwrit := by unfold State.stamp; split <;> rfl
@[simp] theorem State.stamp_barrs (s : State) (a : Stamp) : (s.stamp a).barrs = s.barrs := by unfold State.stamp; split <;> rfl
@[simp] theorem State.stamp_parts (s : State) (a : Stamp) : (s.stamp a).parts = s.parts := by unfold State.stamp; split <;> rfl
@[simp] theorem State.stamp_imgs (s : State) (a : Stamp) : (s.stamp a).imgs = s.imgs := by unfold State.stamp; split <;> rfl
@[simp] theorem State.stamp_saves (s : State) (a : Stamp) : (s.stamp a).saves = s.saves := by unfold State.stamp; split <;> rfl
@[simp] theorem State.stamp_plat (s : State) (a : Stamp) : (s.stamp a).plat = s.plat := by unfold State.stamp; split <;> rfl
@[simp] theorem State.stamp_rec (s : State) (a : Stamp) : (s.stamp a).rec_ = s.rec_ := by unfold State.stamp; split <;> rfl
@[simp] theorem State.stamp_phases (s : State) (a : Stamp) : (s.stamp a).phases = s.phases := by unfold State.stamp; split <;> rfl
@[simp] theorem State.stamp_ueMarks (s : State) (a : Stamp) : (s.stamp a).ueMarks = s.ueMarks := by unfold State.stamp; split <;> rfl

/-! ### State.clock -/

@[simp] theorem State.clock_tb (s : State) (c : Fin 320) : (s.clock c).tb = s.tb := rfl
@[simp] theorem State.clock_agenda (s : State) (c : Fin 320) : (s.clock c).agenda = s.agenda := rfl
@[simp] theorem State.clock_free (s : State) (c : Fin 320) : (s.clock c).free = s.free := rfl
@[simp] theorem State.clock_cur (s : State) (c : Fin 320) : (s.clock c).cur = s.cur := rfl
@[simp] theorem State.clock_iss (s : State) (c : Fin 320) : (s.clock c).iss = s.iss := rfl
@[simp] theorem State.clock_osqs (s : State) (c : Fin 320) : (s.clock c).osqs = s.osqs := rfl
@[simp] theorem State.clock_dorm (s : State) (c : Fin 320) : (s.clock c).dorm = s.dorm := rfl
@[simp] theorem State.clock_dies (s : State) (c : Fin 320) : (s.clock c).dies = s.dies := rfl
@[simp] theorem State.clock_clus (s : State) (c : Fin 320) : (s.clock c).clus = s.clus := rfl
@[simp] theorem State.clock_mem (s : State) (c : Fin 320) : (s.clock c).mem = s.mem := rfl
@[simp] theorem State.clock_frames (s : State) (c : Fin 320) : (s.clock c).frames = s.frames := rfl
@[simp] theorem State.clock_cwrit (s : State) (c : Fin 320) : (s.clock c).cwrit = s.cwrit := rfl
@[simp] theorem State.clock_stamps (s : State) (c : Fin 320) : (s.clock c).stamps = s.stamps := rfl
@[simp] theorem State.clock_barrs (s : State) (c : Fin 320) : (s.clock c).barrs = s.barrs := rfl
@[simp] theorem State.clock_parts (s : State) (c : Fin 320) : (s.clock c).parts = s.parts := rfl
@[simp] theorem State.clock_imgs (s : State) (c : Fin 320) : (s.clock c).imgs = s.imgs := rfl
@[simp] theorem State.clock_saves (s : State) (c : Fin 320) : (s.clock c).saves = s.saves := rfl
@[simp] theorem State.clock_plat (s : State) (c : Fin 320) : (s.clock c).plat = s.plat := rfl
@[simp] theorem State.clock_rec (s : State) (c : Fin 320) : (s.clock c).rec_ = s.rec_ := rfl
@[simp] theorem State.clock_phases (s : State) (c : Fin 320) : (s.clock c).phases = s.phases := rfl
@[simp] theorem State.clock_ueMarks (s : State) (c : Fin 320) : (s.clock c).ueMarks = s.ueMarks := rfl

/-! ### State.countUe -/

@[simp] theorem State.countUe_tb (s : State) (n : Nat) : (s.countUe n).tb = s.tb := rfl
@[simp] theorem State.countUe_agenda (s : State) (n : Nat) : (s.countUe n).agenda = s.agenda := rfl
@[simp] theorem State.countUe_free (s : State) (n : Nat) : (s.countUe n).free = s.free := rfl
@[simp] theorem State.countUe_cur (s : State) (n : Nat) : (s.countUe n).cur = s.cur := rfl
@[simp] theorem State.countUe_iss (s : State) (n : Nat) : (s.countUe n).iss = s.iss := rfl
@[simp] theorem State.countUe_cores (s : State) (n : Nat) : (s.countUe n).cores = s.cores := rfl
@[simp] theorem State.countUe_osqs (s : State) (n : Nat) : (s.countUe n).osqs = s.osqs := rfl
@[simp] theorem State.countUe_dorm (s : State) (n : Nat) : (s.countUe n).dorm = s.dorm := rfl
@[simp] theorem State.countUe_dies (s : State) (n : Nat) : (s.countUe n).dies = s.dies := rfl
@[simp] theorem State.countUe_clus (s : State) (n : Nat) : (s.countUe n).clus = s.clus := rfl
@[simp] theorem State.countUe_mem (s : State) (n : Nat) : (s.countUe n).mem = s.mem := rfl
@[simp] theorem State.countUe_frames (s : State) (n : Nat) : (s.countUe n).frames = s.frames := rfl
@[simp] theorem State.countUe_cwrit (s : State) (n : Nat) : (s.countUe n).cwrit = s.cwrit := rfl
@[simp] theorem State.countUe_stamps (s : State) (n : Nat) : (s.countUe n).stamps = s.stamps := rfl
@[simp] theorem State.countUe_barrs (s : State) (n : Nat) : (s.countUe n).barrs = s.barrs := rfl
@[simp] theorem State.countUe_parts (s : State) (n : Nat) : (s.countUe n).parts = s.parts := rfl
@[simp] theorem State.countUe_imgs (s : State) (n : Nat) : (s.countUe n).imgs = s.imgs := rfl
@[simp] theorem State.countUe_saves (s : State) (n : Nat) : (s.countUe n).saves = s.saves := rfl
@[simp] theorem State.countUe_rec (s : State) (n : Nat) : (s.countUe n).rec_ = s.rec_ := rfl
@[simp] theorem State.countUe_phases (s : State) (n : Nat) : (s.countUe n).phases = s.phases := rfl
@[simp] theorem State.countUe_ueMarks (s : State) (n : Nat) : (s.countUe n).ueMarks = s.ueMarks := rfl

/-! ### State.setCloak -/

@[simp] theorem State.setCloak_tb (s : State) (i : Nat) (w : BitVec 128) : (s.setCloak i w).tb = s.tb := rfl
@[simp] theorem State.setCloak_agenda (s : State) (i : Nat) (w : BitVec 128) : (s.setCloak i w).agenda = s.agenda := rfl
@[simp] theorem State.setCloak_free (s : State) (i : Nat) (w : BitVec 128) : (s.setCloak i w).free = s.free := rfl
@[simp] theorem State.setCloak_cur (s : State) (i : Nat) (w : BitVec 128) : (s.setCloak i w).cur = s.cur := rfl
@[simp] theorem State.setCloak_iss (s : State) (i : Nat) (w : BitVec 128) : (s.setCloak i w).iss = s.iss := rfl
@[simp] theorem State.setCloak_cores (s : State) (i : Nat) (w : BitVec 128) : (s.setCloak i w).cores = s.cores := rfl
@[simp] theorem State.setCloak_osqs (s : State) (i : Nat) (w : BitVec 128) : (s.setCloak i w).osqs = s.osqs := rfl
@[simp] theorem State.setCloak_dorm (s : State) (i : Nat) (w : BitVec 128) : (s.setCloak i w).dorm = s.dorm := rfl
@[simp] theorem State.setCloak_clus (s : State) (i : Nat) (w : BitVec 128) : (s.setCloak i w).clus = s.clus := rfl
@[simp] theorem State.setCloak_mem (s : State) (i : Nat) (w : BitVec 128) : (s.setCloak i w).mem = s.mem := rfl
@[simp] theorem State.setCloak_frames (s : State) (i : Nat) (w : BitVec 128) : (s.setCloak i w).frames = s.frames := rfl
@[simp] theorem State.setCloak_cwrit (s : State) (i : Nat) (w : BitVec 128) : (s.setCloak i w).cwrit = s.cwrit := rfl
@[simp] theorem State.setCloak_stamps (s : State) (i : Nat) (w : BitVec 128) : (s.setCloak i w).stamps = s.stamps := rfl
@[simp] theorem State.setCloak_barrs (s : State) (i : Nat) (w : BitVec 128) : (s.setCloak i w).barrs = s.barrs := rfl
@[simp] theorem State.setCloak_parts (s : State) (i : Nat) (w : BitVec 128) : (s.setCloak i w).parts = s.parts := rfl
@[simp] theorem State.setCloak_imgs (s : State) (i : Nat) (w : BitVec 128) : (s.setCloak i w).imgs = s.imgs := rfl
@[simp] theorem State.setCloak_saves (s : State) (i : Nat) (w : BitVec 128) : (s.setCloak i w).saves = s.saves := rfl
@[simp] theorem State.setCloak_plat (s : State) (i : Nat) (w : BitVec 128) : (s.setCloak i w).plat = s.plat := rfl
@[simp] theorem State.setCloak_rec (s : State) (i : Nat) (w : BitVec 128) : (s.setCloak i w).rec_ = s.rec_ := rfl
@[simp] theorem State.setCloak_phases (s : State) (i : Nat) (w : BitVec 128) : (s.setCloak i w).phases = s.phases := rfl
@[simp] theorem State.setCloak_ueMarks (s : State) (i : Nat) (w : BitVec 128) : (s.setCloak i w).ueMarks = s.ueMarks := rfl

/-! ### State.l2Touch -/

@[simp] theorem State.l2Touch_tb (s : State) (n l : Nat) (d : Bool) : (s.l2Touch n l d).tb = s.tb := by unfold State.l2Touch; split <;> rfl
@[simp] theorem State.l2Touch_agenda (s : State) (n l : Nat) (d : Bool) : (s.l2Touch n l d).agenda = s.agenda := by unfold State.l2Touch; split <;> rfl
@[simp] theorem State.l2Touch_free (s : State) (n l : Nat) (d : Bool) : (s.l2Touch n l d).free = s.free := by unfold State.l2Touch; split <;> rfl
@[simp] theorem State.l2Touch_cur (s : State) (n l : Nat) (d : Bool) : (s.l2Touch n l d).cur = s.cur := by unfold State.l2Touch; split <;> rfl
@[simp] theorem State.l2Touch_iss (s : State) (n l : Nat) (d : Bool) : (s.l2Touch n l d).iss = s.iss := by unfold State.l2Touch; split <;> rfl
@[simp] theorem State.l2Touch_cores (s : State) (n l : Nat) (d : Bool) : (s.l2Touch n l d).cores = s.cores := by unfold State.l2Touch; split <;> rfl
@[simp] theorem State.l2Touch_osqs (s : State) (n l : Nat) (d : Bool) : (s.l2Touch n l d).osqs = s.osqs := by unfold State.l2Touch; split <;> rfl
@[simp] theorem State.l2Touch_dorm (s : State) (n l : Nat) (d : Bool) : (s.l2Touch n l d).dorm = s.dorm := by unfold State.l2Touch; split <;> rfl
@[simp] theorem State.l2Touch_dies (s : State) (n l : Nat) (d : Bool) : (s.l2Touch n l d).dies = s.dies := by unfold State.l2Touch; split <;> rfl
@[simp] theorem State.l2Touch_mem (s : State) (n l : Nat) (d : Bool) : (s.l2Touch n l d).mem = s.mem := by unfold State.l2Touch; split <;> rfl
@[simp] theorem State.l2Touch_frames (s : State) (n l : Nat) (d : Bool) : (s.l2Touch n l d).frames = s.frames := by unfold State.l2Touch; split <;> rfl
@[simp] theorem State.l2Touch_cwrit (s : State) (n l : Nat) (d : Bool) : (s.l2Touch n l d).cwrit = s.cwrit := by unfold State.l2Touch; split <;> rfl
@[simp] theorem State.l2Touch_stamps (s : State) (n l : Nat) (d : Bool) : (s.l2Touch n l d).stamps = s.stamps := by unfold State.l2Touch; split <;> rfl
@[simp] theorem State.l2Touch_barrs (s : State) (n l : Nat) (d : Bool) : (s.l2Touch n l d).barrs = s.barrs := by unfold State.l2Touch; split <;> rfl
@[simp] theorem State.l2Touch_parts (s : State) (n l : Nat) (d : Bool) : (s.l2Touch n l d).parts = s.parts := by unfold State.l2Touch; split <;> rfl
@[simp] theorem State.l2Touch_imgs (s : State) (n l : Nat) (d : Bool) : (s.l2Touch n l d).imgs = s.imgs := by unfold State.l2Touch; split <;> rfl
@[simp] theorem State.l2Touch_saves (s : State) (n l : Nat) (d : Bool) : (s.l2Touch n l d).saves = s.saves := by unfold State.l2Touch; split <;> rfl
@[simp] theorem State.l2Touch_plat (s : State) (n l : Nat) (d : Bool) : (s.l2Touch n l d).plat = s.plat := by unfold State.l2Touch; split <;> rfl
@[simp] theorem State.l2Touch_rec (s : State) (n l : Nat) (d : Bool) : (s.l2Touch n l d).rec_ = s.rec_ := by unfold State.l2Touch; split <;> rfl
@[simp] theorem State.l2Touch_phases (s : State) (n l : Nat) (d : Bool) : (s.l2Touch n l d).phases = s.phases := by unfold State.l2Touch; split <;> rfl
@[simp] theorem State.l2Touch_ueMarks (s : State) (n l : Nat) (d : Bool) : (s.l2Touch n l d).ueMarks = s.ueMarks := by unfold State.l2Touch; split <;> rfl

/-! ### State.mscTouch -/

@[simp] theorem State.mscTouch_tb (s : State) (q l : Nat) (n a : Bool) : (s.mscTouch q l n a).tb = s.tb := by unfold State.mscTouch; dsimp only; repeat' (first | rfl | split)
@[simp] theorem State.mscTouch_agenda (s : State) (q l : Nat) (n a : Bool) : (s.mscTouch q l n a).agenda = s.agenda := by unfold State.mscTouch; dsimp only; repeat' (first | rfl | split)
@[simp] theorem State.mscTouch_free (s : State) (q l : Nat) (n a : Bool) : (s.mscTouch q l n a).free = s.free := by unfold State.mscTouch; dsimp only; repeat' (first | rfl | split)
@[simp] theorem State.mscTouch_cur (s : State) (q l : Nat) (n a : Bool) : (s.mscTouch q l n a).cur = s.cur := by unfold State.mscTouch; dsimp only; repeat' (first | rfl | split)
@[simp] theorem State.mscTouch_iss (s : State) (q l : Nat) (n a : Bool) : (s.mscTouch q l n a).iss = s.iss := by unfold State.mscTouch; dsimp only; repeat' (first | rfl | split)
@[simp] theorem State.mscTouch_cores (s : State) (q l : Nat) (n a : Bool) : (s.mscTouch q l n a).cores = s.cores := by unfold State.mscTouch; dsimp only; repeat' (first | rfl | split)
@[simp] theorem State.mscTouch_osqs (s : State) (q l : Nat) (n a : Bool) : (s.mscTouch q l n a).osqs = s.osqs := by unfold State.mscTouch; dsimp only; repeat' (first | rfl | split)
@[simp] theorem State.mscTouch_dorm (s : State) (q l : Nat) (n a : Bool) : (s.mscTouch q l n a).dorm = s.dorm := by unfold State.mscTouch; dsimp only; repeat' (first | rfl | split)
@[simp] theorem State.mscTouch_clus (s : State) (q l : Nat) (n a : Bool) : (s.mscTouch q l n a).clus = s.clus := by unfold State.mscTouch; dsimp only; repeat' (first | rfl | split)
@[simp] theorem State.mscTouch_mem (s : State) (q l : Nat) (n a : Bool) : (s.mscTouch q l n a).mem = s.mem := by unfold State.mscTouch; dsimp only; repeat' (first | rfl | split)
@[simp] theorem State.mscTouch_frames (s : State) (q l : Nat) (n a : Bool) : (s.mscTouch q l n a).frames = s.frames := by unfold State.mscTouch; dsimp only; repeat' (first | rfl | split)
@[simp] theorem State.mscTouch_cwrit (s : State) (q l : Nat) (n a : Bool) : (s.mscTouch q l n a).cwrit = s.cwrit := by unfold State.mscTouch; dsimp only; repeat' (first | rfl | split)
@[simp] theorem State.mscTouch_stamps (s : State) (q l : Nat) (n a : Bool) : (s.mscTouch q l n a).stamps = s.stamps := by unfold State.mscTouch; dsimp only; repeat' (first | rfl | split)
@[simp] theorem State.mscTouch_barrs (s : State) (q l : Nat) (n a : Bool) : (s.mscTouch q l n a).barrs = s.barrs := by unfold State.mscTouch; dsimp only; repeat' (first | rfl | split)
@[simp] theorem State.mscTouch_parts (s : State) (q l : Nat) (n a : Bool) : (s.mscTouch q l n a).parts = s.parts := by unfold State.mscTouch; dsimp only; repeat' (first | rfl | split)
@[simp] theorem State.mscTouch_imgs (s : State) (q l : Nat) (n a : Bool) : (s.mscTouch q l n a).imgs = s.imgs := by unfold State.mscTouch; dsimp only; repeat' (first | rfl | split)
@[simp] theorem State.mscTouch_saves (s : State) (q l : Nat) (n a : Bool) : (s.mscTouch q l n a).saves = s.saves := by unfold State.mscTouch; dsimp only; repeat' (first | rfl | split)
@[simp] theorem State.mscTouch_plat (s : State) (q l : Nat) (n a : Bool) : (s.mscTouch q l n a).plat = s.plat := by unfold State.mscTouch; dsimp only; repeat' (first | rfl | split)
@[simp] theorem State.mscTouch_rec (s : State) (q l : Nat) (n a : Bool) : (s.mscTouch q l n a).rec_ = s.rec_ := by unfold State.mscTouch; dsimp only; repeat' (first | rfl | split)
@[simp] theorem State.mscTouch_phases (s : State) (q l : Nat) (n a : Bool) : (s.mscTouch q l n a).phases = s.phases := by unfold State.mscTouch; dsimp only; repeat' (first | rfl | split)
@[simp] theorem State.mscTouch_ueMarks (s : State) (q l : Nat) (n a : Bool) : (s.mscTouch q l n a).ueMarks = s.ueMarks := by unfold State.mscTouch; dsimp only; repeat' (first | rfl | split)

/-! ### Cores and contexts after an update -/

@[simp] theorem State.core_setCore (s : State) (c : Fin 320) (k : Core) : (s.setCore c k).core c = k := by simp [State.core, State.setCore]
theorem State.core_setCore_ne (s : State) (c d : Fin 320) (k : Core) (h : d ≠ c) : (s.setCore c k).core d = s.core d := by
  have : c.val ≠ d.val := fun e => h (Fin.ext e.symm)
  simp [State.core, State.setCore, this]
@[simp] theorem State.core_modCore (s : State) (c : Fin 320) (f : Core → Core) : (s.modCore c f).core c = f (s.core c) := by simp [State.modCore]
theorem State.core_modCore_ne (s : State) (c d : Fin 320) (f : Core → Core) (h : d ≠ c) : (s.modCore c f).core d = s.core d := by
  simp [State.modCore, State.core_setCore_ne s c d _ h]
@[simp] theorem State.core_setCtx (s : State) (q : Fin 16) (x : Ctx) (c : Fin 320) : (s.setCtx q x).core c = s.core c := rfl
@[simp] theorem State.core_modCtx (s : State) (q : Fin 16) (f : Ctx → Ctx) (c : Fin 320) : (s.modCtx q f).core c = s.core c := by
  unfold State.modCtx; split <;> rfl
@[simp] theorem State.ctx_setCore (s : State) (c : Fin 320) (k : Core) (q : Fin 16) : (s.setCore c k).ctx q = s.ctx q := rfl
@[simp] theorem State.ctx_modCore (s : State) (c : Fin 320) (f : Core → Core) (q : Fin 16) : (s.modCore c f).ctx q = s.ctx q := rfl
@[simp] theorem State.ctx_setCtx (s : State) (q : Fin 16) (x : Ctx) : (s.setCtx q x).ctx q = some x := by simp [State.ctx, State.setCtx]
theorem State.ctx_setCtx_ne (s : State) (q r : Fin 16) (x : Ctx) (h : r ≠ q) : (s.setCtx q x).ctx r = s.ctx r := by
  have : q.val ≠ r.val := fun e => h (Fin.ext e.symm)
  simp [State.ctx, State.setCtx, this]
theorem State.modCtx_of_ctx {s : State} {q : Fin 16} {x : Ctx} (h : s.ctx q = some x) (f : Ctx → Ctx) : s.modCtx q f = s.setCtx q (f x) := by
  simp [State.modCtx, h]
theorem State.modCtx_of_none {s : State} {q : Fin 16} (h : s.ctx q = none) (f : Ctx → Ctx) : s.modCtx q f = s := by simp [State.modCtx, h]
@[simp] theorem State.ctx_modCtx (s : State) (q : Fin 16) (f : Ctx → Ctx) : (s.modCtx q f).ctx q = (s.ctx q).map f := by
  cases h : s.ctx q with
  | none => rw [State.modCtx_of_none h, h]; rfl
  | some x => rw [State.modCtx_of_ctx h]; simp

/-! ### State.askSpill (R336) -/

@[simp] theorem State.askSpill_tb (s : State) (d : Fin 4) : (s.askSpill d).tb = s.tb := rfl
@[simp] theorem State.askSpill_agenda (s : State) (d : Fin 4) : (s.askSpill d).agenda = s.agenda := rfl
@[simp] theorem State.askSpill_free (s : State) (d : Fin 4) : (s.askSpill d).free = s.free := rfl
@[simp] theorem State.askSpill_cur (s : State) (d : Fin 4) : (s.askSpill d).cur = s.cur := rfl
@[simp] theorem State.askSpill_iss (s : State) (d : Fin 4) : (s.askSpill d).iss = s.iss := rfl
@[simp] theorem State.askSpill_cores (s : State) (d : Fin 4) : (s.askSpill d).cores = s.cores := rfl
@[simp] theorem State.askSpill_osqs (s : State) (d : Fin 4) : (s.askSpill d).osqs = s.osqs := rfl
@[simp] theorem State.askSpill_dorm (s : State) (d : Fin 4) : (s.askSpill d).dorm = s.dorm := rfl
@[simp] theorem State.askSpill_dies (s : State) (d : Fin 4) : (s.askSpill d).dies = s.dies := rfl
@[simp] theorem State.askSpill_clus (s : State) (d : Fin 4) : (s.askSpill d).clus = s.clus := rfl
@[simp] theorem State.askSpill_mem (s : State) (d : Fin 4) : (s.askSpill d).mem = s.mem := rfl
@[simp] theorem State.askSpill_frames (s : State) (d : Fin 4) : (s.askSpill d).frames = s.frames := rfl
@[simp] theorem State.askSpill_cwrit (s : State) (d : Fin 4) : (s.askSpill d).cwrit = s.cwrit := rfl
@[simp] theorem State.askSpill_stamps (s : State) (d : Fin 4) : (s.askSpill d).stamps = s.stamps := rfl
@[simp] theorem State.askSpill_barrs (s : State) (d : Fin 4) : (s.askSpill d).barrs = s.barrs := rfl
@[simp] theorem State.askSpill_parts (s : State) (d : Fin 4) : (s.askSpill d).parts = s.parts := rfl
@[simp] theorem State.askSpill_imgs (s : State) (d : Fin 4) : (s.askSpill d).imgs = s.imgs := rfl
@[simp] theorem State.askSpill_saves (s : State) (d : Fin 4) : (s.askSpill d).saves = s.saves := rfl
@[simp] theorem State.askSpill_rec (s : State) (d : Fin 4) : (s.askSpill d).rec_ = s.rec_ := rfl
@[simp] theorem State.askSpill_phases (s : State) (d : Fin 4) : (s.askSpill d).phases = s.phases := rfl
@[simp] theorem State.askSpill_ueMarks (s : State) (d : Fin 4) : (s.askSpill d).ueMarks = s.ueMarks := rfl

/-! ### State.modPort (R424, R425) -/

@[simp] theorem State.modPort_tb (s : State) (p : Fin 16) (f : Port → Port) : (s.modPort p f).tb = s.tb := rfl
@[simp] theorem State.modPort_agenda (s : State) (p : Fin 16) (f : Port → Port) : (s.modPort p f).agenda = s.agenda := rfl
@[simp] theorem State.modPort_free (s : State) (p : Fin 16) (f : Port → Port) : (s.modPort p f).free = s.free := rfl
@[simp] theorem State.modPort_cur (s : State) (p : Fin 16) (f : Port → Port) : (s.modPort p f).cur = s.cur := rfl
@[simp] theorem State.modPort_iss (s : State) (p : Fin 16) (f : Port → Port) : (s.modPort p f).iss = s.iss := rfl
@[simp] theorem State.modPort_cores (s : State) (p : Fin 16) (f : Port → Port) : (s.modPort p f).cores = s.cores := rfl
@[simp] theorem State.modPort_osqs (s : State) (p : Fin 16) (f : Port → Port) : (s.modPort p f).osqs = s.osqs := rfl
@[simp] theorem State.modPort_dorm (s : State) (p : Fin 16) (f : Port → Port) : (s.modPort p f).dorm = s.dorm := rfl
@[simp] theorem State.modPort_dies (s : State) (p : Fin 16) (f : Port → Port) : (s.modPort p f).dies = s.dies := rfl
@[simp] theorem State.modPort_clus (s : State) (p : Fin 16) (f : Port → Port) : (s.modPort p f).clus = s.clus := rfl
@[simp] theorem State.modPort_mem (s : State) (p : Fin 16) (f : Port → Port) : (s.modPort p f).mem = s.mem := rfl
@[simp] theorem State.modPort_frames (s : State) (p : Fin 16) (f : Port → Port) : (s.modPort p f).frames = s.frames := rfl
@[simp] theorem State.modPort_cwrit (s : State) (p : Fin 16) (f : Port → Port) : (s.modPort p f).cwrit = s.cwrit := rfl
@[simp] theorem State.modPort_stamps (s : State) (p : Fin 16) (f : Port → Port) : (s.modPort p f).stamps = s.stamps := rfl
@[simp] theorem State.modPort_barrs (s : State) (p : Fin 16) (f : Port → Port) : (s.modPort p f).barrs = s.barrs := rfl
@[simp] theorem State.modPort_parts (s : State) (p : Fin 16) (f : Port → Port) : (s.modPort p f).parts = s.parts := rfl
@[simp] theorem State.modPort_imgs (s : State) (p : Fin 16) (f : Port → Port) : (s.modPort p f).imgs = s.imgs := rfl
@[simp] theorem State.modPort_saves (s : State) (p : Fin 16) (f : Port → Port) : (s.modPort p f).saves = s.saves := rfl
@[simp] theorem State.modPort_rec (s : State) (p : Fin 16) (f : Port → Port) : (s.modPort p f).rec_ = s.rec_ := rfl
@[simp] theorem State.modPort_phases (s : State) (p : Fin 16) (f : Port → Port) : (s.modPort p f).phases = s.phases := rfl
@[simp] theorem State.modPort_ueMarks (s : State) (p : Fin 16) (f : Port → Port) : (s.modPort p f).ueMarks = s.ueMarks := rfl

/-! ### State.logWatch (R414) -/

@[simp] theorem State.logWatch_tb (s : State) (c : Fin 320) (r : List Byte) : (s.logWatch c r).tb = s.tb := rfl
@[simp] theorem State.logWatch_agenda (s : State) (c : Fin 320) (r : List Byte) : (s.logWatch c r).agenda = s.agenda := rfl
@[simp] theorem State.logWatch_free (s : State) (c : Fin 320) (r : List Byte) : (s.logWatch c r).free = s.free := rfl
@[simp] theorem State.logWatch_cur (s : State) (c : Fin 320) (r : List Byte) : (s.logWatch c r).cur = s.cur := rfl
@[simp] theorem State.logWatch_iss (s : State) (c : Fin 320) (r : List Byte) : (s.logWatch c r).iss = s.iss := rfl
@[simp] theorem State.logWatch_cores (s : State) (c : Fin 320) (r : List Byte) : (s.logWatch c r).cores = s.cores := rfl
@[simp] theorem State.logWatch_osqs (s : State) (c : Fin 320) (r : List Byte) : (s.logWatch c r).osqs = s.osqs := rfl
@[simp] theorem State.logWatch_dorm (s : State) (c : Fin 320) (r : List Byte) : (s.logWatch c r).dorm = s.dorm := rfl
@[simp] theorem State.logWatch_dies (s : State) (c : Fin 320) (r : List Byte) : (s.logWatch c r).dies = s.dies := rfl
@[simp] theorem State.logWatch_clus (s : State) (c : Fin 320) (r : List Byte) : (s.logWatch c r).clus = s.clus := rfl
@[simp] theorem State.logWatch_mem (s : State) (c : Fin 320) (r : List Byte) : (s.logWatch c r).mem = s.mem := rfl
@[simp] theorem State.logWatch_frames (s : State) (c : Fin 320) (r : List Byte) : (s.logWatch c r).frames = s.frames := rfl
@[simp] theorem State.logWatch_cwrit (s : State) (c : Fin 320) (r : List Byte) : (s.logWatch c r).cwrit = s.cwrit := rfl
@[simp] theorem State.logWatch_stamps (s : State) (c : Fin 320) (r : List Byte) : (s.logWatch c r).stamps = s.stamps := rfl
@[simp] theorem State.logWatch_barrs (s : State) (c : Fin 320) (r : List Byte) : (s.logWatch c r).barrs = s.barrs := rfl
@[simp] theorem State.logWatch_parts (s : State) (c : Fin 320) (r : List Byte) : (s.logWatch c r).parts = s.parts := rfl
@[simp] theorem State.logWatch_imgs (s : State) (c : Fin 320) (r : List Byte) : (s.logWatch c r).imgs = s.imgs := rfl
@[simp] theorem State.logWatch_saves (s : State) (c : Fin 320) (r : List Byte) : (s.logWatch c r).saves = s.saves := rfl
@[simp] theorem State.logWatch_rec (s : State) (c : Fin 320) (r : List Byte) : (s.logWatch c r).rec_ = s.rec_ := rfl
@[simp] theorem State.logWatch_phases (s : State) (c : Fin 320) (r : List Byte) : (s.logWatch c r).phases = s.phases := rfl
@[simp] theorem State.logWatch_ueMarks (s : State) (c : Fin 320) (r : List Byte) : (s.logWatch c r).ueMarks = s.ueMarks := rfl

/-! ### State.haltCores (R416) -/

@[simp] theorem State.haltCores_tb (s : State) (all : Bool) : (s.haltCores all).tb = s.tb := rfl
@[simp] theorem State.haltCores_agenda (s : State) (all : Bool) : (s.haltCores all).agenda = s.agenda := rfl
@[simp] theorem State.haltCores_free (s : State) (all : Bool) : (s.haltCores all).free = s.free := rfl
@[simp] theorem State.haltCores_cur (s : State) (all : Bool) : (s.haltCores all).cur = s.cur := rfl
@[simp] theorem State.haltCores_iss (s : State) (all : Bool) : (s.haltCores all).iss = s.iss := rfl
@[simp] theorem State.haltCores_osqs (s : State) (all : Bool) : (s.haltCores all).osqs = s.osqs := rfl
@[simp] theorem State.haltCores_dorm (s : State) (all : Bool) : (s.haltCores all).dorm = s.dorm := rfl
@[simp] theorem State.haltCores_dies (s : State) (all : Bool) : (s.haltCores all).dies = s.dies := rfl
@[simp] theorem State.haltCores_clus (s : State) (all : Bool) : (s.haltCores all).clus = s.clus := rfl
@[simp] theorem State.haltCores_mem (s : State) (all : Bool) : (s.haltCores all).mem = s.mem := rfl
@[simp] theorem State.haltCores_frames (s : State) (all : Bool) : (s.haltCores all).frames = s.frames := rfl
@[simp] theorem State.haltCores_cwrit (s : State) (all : Bool) : (s.haltCores all).cwrit = s.cwrit := rfl
@[simp] theorem State.haltCores_stamps (s : State) (all : Bool) : (s.haltCores all).stamps = s.stamps := rfl
@[simp] theorem State.haltCores_barrs (s : State) (all : Bool) : (s.haltCores all).barrs = s.barrs := rfl
@[simp] theorem State.haltCores_parts (s : State) (all : Bool) : (s.haltCores all).parts = s.parts := rfl
@[simp] theorem State.haltCores_imgs (s : State) (all : Bool) : (s.haltCores all).imgs = s.imgs := rfl
@[simp] theorem State.haltCores_saves (s : State) (all : Bool) : (s.haltCores all).saves = s.saves := rfl
@[simp] theorem State.haltCores_plat (s : State) (all : Bool) : (s.haltCores all).plat = s.plat := rfl
@[simp] theorem State.haltCores_rec (s : State) (all : Bool) : (s.haltCores all).rec_ = s.rec_ := rfl
@[simp] theorem State.haltCores_phases (s : State) (all : Bool) : (s.haltCores all).phases = s.phases := rfl
@[simp] theorem State.haltCores_ueMarks (s : State) (all : Bool) : (s.haltCores all).ueMarks = s.ueMarks := rfl

/-! ### State.openPhase (R107) -/

@[simp] theorem State.openPhase_tb (s : State) (c : Fin 320) : (s.openPhase c).tb = s.tb := rfl
@[simp] theorem State.openPhase_agenda (s : State) (c : Fin 320) : (s.openPhase c).agenda = s.agenda := rfl
@[simp] theorem State.openPhase_free (s : State) (c : Fin 320) : (s.openPhase c).free = s.free := rfl
@[simp] theorem State.openPhase_cur (s : State) (c : Fin 320) : (s.openPhase c).cur = s.cur := rfl
@[simp] theorem State.openPhase_iss (s : State) (c : Fin 320) : (s.openPhase c).iss = s.iss := rfl
@[simp] theorem State.openPhase_osqs (s : State) (c : Fin 320) : (s.openPhase c).osqs = s.osqs := rfl
@[simp] theorem State.openPhase_dorm (s : State) (c : Fin 320) : (s.openPhase c).dorm = s.dorm := rfl
@[simp] theorem State.openPhase_dies (s : State) (c : Fin 320) : (s.openPhase c).dies = s.dies := rfl
@[simp] theorem State.openPhase_clus (s : State) (c : Fin 320) : (s.openPhase c).clus = s.clus := rfl
@[simp] theorem State.openPhase_mem (s : State) (c : Fin 320) : (s.openPhase c).mem = s.mem := rfl
@[simp] theorem State.openPhase_frames (s : State) (c : Fin 320) : (s.openPhase c).frames = s.frames := rfl
@[simp] theorem State.openPhase_cwrit (s : State) (c : Fin 320) : (s.openPhase c).cwrit = s.cwrit := rfl
@[simp] theorem State.openPhase_stamps (s : State) (c : Fin 320) : (s.openPhase c).stamps = s.stamps := rfl
@[simp] theorem State.openPhase_barrs (s : State) (c : Fin 320) : (s.openPhase c).barrs = s.barrs := rfl
@[simp] theorem State.openPhase_parts (s : State) (c : Fin 320) : (s.openPhase c).parts = s.parts := rfl
@[simp] theorem State.openPhase_imgs (s : State) (c : Fin 320) : (s.openPhase c).imgs = s.imgs := rfl
@[simp] theorem State.openPhase_saves (s : State) (c : Fin 320) : (s.openPhase c).saves = s.saves := rfl
@[simp] theorem State.openPhase_plat (s : State) (c : Fin 320) : (s.openPhase c).plat = s.plat := rfl
@[simp] theorem State.openPhase_rec (s : State) (c : Fin 320) : (s.openPhase c).rec_ = s.rec_ := rfl
@[simp] theorem State.openPhase_ueMarks (s : State) (c : Fin 320) : (s.openPhase c).ueMarks = s.ueMarks := rfl

/-! ### State.logRec (R419) -/

@[simp] theorem State.logRec_tb (s : State) (t r : BitVec 8) (l : List Byte) : (s.logRec t r l).tb = s.tb := by unfold State.logRec; split <;> rfl
@[simp] theorem State.logRec_agenda (s : State) (t r : BitVec 8) (l : List Byte) : (s.logRec t r l).agenda = s.agenda := by unfold State.logRec; split <;> rfl
@[simp] theorem State.logRec_free (s : State) (t r : BitVec 8) (l : List Byte) : (s.logRec t r l).free = s.free := by unfold State.logRec; split <;> rfl
@[simp] theorem State.logRec_cur (s : State) (t r : BitVec 8) (l : List Byte) : (s.logRec t r l).cur = s.cur := by unfold State.logRec; split <;> rfl
@[simp] theorem State.logRec_iss (s : State) (t r : BitVec 8) (l : List Byte) : (s.logRec t r l).iss = s.iss := by unfold State.logRec; split <;> rfl
@[simp] theorem State.logRec_cores (s : State) (t r : BitVec 8) (l : List Byte) : (s.logRec t r l).cores = s.cores := by unfold State.logRec; split <;> rfl
@[simp] theorem State.logRec_osqs (s : State) (t r : BitVec 8) (l : List Byte) : (s.logRec t r l).osqs = s.osqs := by unfold State.logRec; split <;> rfl
@[simp] theorem State.logRec_dorm (s : State) (t r : BitVec 8) (l : List Byte) : (s.logRec t r l).dorm = s.dorm := by unfold State.logRec; split <;> rfl
@[simp] theorem State.logRec_dies (s : State) (t r : BitVec 8) (l : List Byte) : (s.logRec t r l).dies = s.dies := by unfold State.logRec; split <;> rfl
@[simp] theorem State.logRec_clus (s : State) (t r : BitVec 8) (l : List Byte) : (s.logRec t r l).clus = s.clus := by unfold State.logRec; split <;> rfl
@[simp] theorem State.logRec_mem (s : State) (t r : BitVec 8) (l : List Byte) : (s.logRec t r l).mem = s.mem := by unfold State.logRec; split <;> rfl
@[simp] theorem State.logRec_frames (s : State) (t r : BitVec 8) (l : List Byte) : (s.logRec t r l).frames = s.frames := by unfold State.logRec; split <;> rfl
@[simp] theorem State.logRec_cwrit (s : State) (t r : BitVec 8) (l : List Byte) : (s.logRec t r l).cwrit = s.cwrit := by unfold State.logRec; split <;> rfl
@[simp] theorem State.logRec_stamps (s : State) (t r : BitVec 8) (l : List Byte) : (s.logRec t r l).stamps = s.stamps := by unfold State.logRec; split <;> rfl
@[simp] theorem State.logRec_barrs (s : State) (t r : BitVec 8) (l : List Byte) : (s.logRec t r l).barrs = s.barrs := by unfold State.logRec; split <;> rfl
@[simp] theorem State.logRec_parts (s : State) (t r : BitVec 8) (l : List Byte) : (s.logRec t r l).parts = s.parts := by unfold State.logRec; split <;> rfl
@[simp] theorem State.logRec_imgs (s : State) (t r : BitVec 8) (l : List Byte) : (s.logRec t r l).imgs = s.imgs := by unfold State.logRec; split <;> rfl
@[simp] theorem State.logRec_saves (s : State) (t r : BitVec 8) (l : List Byte) : (s.logRec t r l).saves = s.saves := by unfold State.logRec; split <;> rfl
@[simp] theorem State.logRec_rec (s : State) (t r : BitVec 8) (l : List Byte) : (s.logRec t r l).rec_ = s.rec_ := by unfold State.logRec; split <;> rfl
@[simp] theorem State.logRec_phases (s : State) (t r : BitVec 8) (l : List Byte) : (s.logRec t r l).phases = s.phases := by unfold State.logRec; split <;> rfl
@[simp] theorem State.logRec_ueMarks (s : State) (t r : BitVec 8) (l : List Byte) : (s.logRec t r l).ueMarks = s.ueMarks := by unfold State.logRec; split <;> rfl

/-! ### State.raiseFuse (R446) -/

@[simp] theorem State.raiseFuse_tb (s : State) (v : BitVec 32) : (s.raiseFuse v).tb = s.tb := by unfold State.raiseFuse; split <;> rfl
@[simp] theorem State.raiseFuse_agenda (s : State) (v : BitVec 32) : (s.raiseFuse v).agenda = s.agenda := by unfold State.raiseFuse; split <;> rfl
@[simp] theorem State.raiseFuse_free (s : State) (v : BitVec 32) : (s.raiseFuse v).free = s.free := by unfold State.raiseFuse; split <;> rfl
@[simp] theorem State.raiseFuse_cur (s : State) (v : BitVec 32) : (s.raiseFuse v).cur = s.cur := by unfold State.raiseFuse; split <;> rfl
@[simp] theorem State.raiseFuse_iss (s : State) (v : BitVec 32) : (s.raiseFuse v).iss = s.iss := by unfold State.raiseFuse; split <;> rfl
@[simp] theorem State.raiseFuse_cores (s : State) (v : BitVec 32) : (s.raiseFuse v).cores = s.cores := by unfold State.raiseFuse; split <;> rfl
@[simp] theorem State.raiseFuse_osqs (s : State) (v : BitVec 32) : (s.raiseFuse v).osqs = s.osqs := by unfold State.raiseFuse; split <;> rfl
@[simp] theorem State.raiseFuse_dorm (s : State) (v : BitVec 32) : (s.raiseFuse v).dorm = s.dorm := by unfold State.raiseFuse; split <;> rfl
@[simp] theorem State.raiseFuse_dies (s : State) (v : BitVec 32) : (s.raiseFuse v).dies = s.dies := by unfold State.raiseFuse; split <;> rfl
@[simp] theorem State.raiseFuse_clus (s : State) (v : BitVec 32) : (s.raiseFuse v).clus = s.clus := by unfold State.raiseFuse; split <;> rfl
@[simp] theorem State.raiseFuse_mem (s : State) (v : BitVec 32) : (s.raiseFuse v).mem = s.mem := by unfold State.raiseFuse; split <;> rfl
@[simp] theorem State.raiseFuse_frames (s : State) (v : BitVec 32) : (s.raiseFuse v).frames = s.frames := by unfold State.raiseFuse; split <;> rfl
@[simp] theorem State.raiseFuse_cwrit (s : State) (v : BitVec 32) : (s.raiseFuse v).cwrit = s.cwrit := by unfold State.raiseFuse; split <;> rfl
@[simp] theorem State.raiseFuse_stamps (s : State) (v : BitVec 32) : (s.raiseFuse v).stamps = s.stamps := by unfold State.raiseFuse; split <;> rfl
@[simp] theorem State.raiseFuse_barrs (s : State) (v : BitVec 32) : (s.raiseFuse v).barrs = s.barrs := by unfold State.raiseFuse; split <;> rfl
@[simp] theorem State.raiseFuse_parts (s : State) (v : BitVec 32) : (s.raiseFuse v).parts = s.parts := by unfold State.raiseFuse; split <;> rfl
@[simp] theorem State.raiseFuse_imgs (s : State) (v : BitVec 32) : (s.raiseFuse v).imgs = s.imgs := by unfold State.raiseFuse; split <;> rfl
@[simp] theorem State.raiseFuse_saves (s : State) (v : BitVec 32) : (s.raiseFuse v).saves = s.saves := by unfold State.raiseFuse; split <;> rfl
@[simp] theorem State.raiseFuse_rec (s : State) (v : BitVec 32) : (s.raiseFuse v).rec_ = s.rec_ := by unfold State.raiseFuse; split <;> rfl
@[simp] theorem State.raiseFuse_phases (s : State) (v : BitVec 32) : (s.raiseFuse v).phases = s.phases := by unfold State.raiseFuse; split <;> rfl
@[simp] theorem State.raiseFuse_ueMarks (s : State) (v : BitVec 32) : (s.raiseFuse v).ueMarks = s.ueMarks := by unfold State.raiseFuse; split <;> rfl

end Sys2Proof.Machine
end

