-- ==== Sys2Proof/Laws/Ops.lean ====
section
/-! SUPPORT. What the shared operations of a slot can do, said once: the outcome of a slot, reading a scalar register, a result in flight. -/

namespace Sys2Proof.Laws

open Sys2Proof.Machine Sys2Proof.Safety

/-! ## The outcome of a slot -/

theorem slotDo_ok {g : Guard} {f : State → Eff} {s t : State} (h : Issues g s) (e : f s = .ok t) : slotDo g f s = .next t := by
  simp [slotDo, h.bundle, h.noTrap, h.noStall, h.enabled, e]
theorem slotDo_trap {g : Guard} {f : State → Eff} {s : State} {t : Trap} (h : Issues g s) (e : f s = .trap t) :
    slotDo g f s = .next (withTrap s t) := by
  simp [slotDo, h.bundle, h.noTrap, h.noStall, h.enabled, e, withTrap]
theorem slotDo_stall {g : Guard} {f : State → Eff} {s : State} {r d : BitVec 8} (h : Issues g s) (e : f s = .stall r d) :
    slotDo g f s = .next (withStall s r d) := by
  simp [slotDo, h.bundle, h.noTrap, h.noStall, h.enabled, e, withStall]
theorem slotDo_off {g : Guard} {f : State → Eff} {s : State} (h : s.enabled g = false) : slotDo g f s = .next s := by
  simp [slotDo, h]
/-- A slot after one that stalled or trapped leaves everything but what is reported (R83, R411). -/
theorem slotDo_more {g : Guard} {f : State → Eff} {s : State} (e : s.enabled g = true) (h : (s.iss.trap.isSome || s.iss.stall.isSome) = true) :
    slotDo g f s = .next { s with iss := s.iss.more (f s) } := by
  simp [slotDo, e, h]
@[simp] theorem more_ok (i : Issue) (t : State) : i.more (.ok t) = i := rfl
theorem more_lower {i : Issue} {r d : BitVec 8} {x : BitVec 8 × BitVec 8} (hi : i.stall = some x) (ha : stallActs (r, d) = false) (hr : r < x.1) :
    i.more (.stall r d) = { i with stall := some (r, d), send := none } := by
  simp [Issue.more, hi, ha, hr]
theorem more_higher {i : Issue} {r d : BitVec 8} {x : BitVec 8 × BitVec 8} (hi : i.stall = some x) (hn : i.acts = false) (hr : ¬ r < x.1) :
    i.more (.stall r d) = i := by
  simp [Issue.more, hi, hn, hr]
theorem traps_noStall {i : Issue} (h : i.stall = none) : i.traps = i.trap := by simp [Issue.traps, h]
theorem traps_stall {i : Issue} {x : BitVec 8 × BitVec 8} (h : i.stall = some x) (ha : i.acts = false) : i.traps = none := by simp [Issue.traps, h, ha]
theorem slotDo_ok_alone {g : Guard} {f : State → Eff} {s t : State} (h : Alone g s) (e : f s = .ok t) : slotDo g f s = .next t.finish1 := by
  simp [slotDo, h.idle, Issue.idle, h.enabled, e]
theorem slotDo_trap_alone {g : Guard} {f : State → Eff} {s : State} {t : Trap} (h : Alone g s) (e : f s = .trap t) :
    slotDo g f s = .next (s.raise t) := by
  simp [slotDo, h.idle, Issue.idle, h.enabled, e]

/-- Every slot answers a next state. -/
theorem slotDo_next (g : Guard) (f : State → Eff) (s : State) : ∃ t, slotDo g f s = .next t := by
  unfold slotDo
  repeat' (first | exact ⟨_, rfl⟩ | split)

/-! ## Scalar registers -/

@[simp] theorem getS_eq (s : State) (r : BitVec 6) : s.front.getS r = (val s r, psn s r) := by
  unfold Front.getS val psn; split <;> rfl
@[simp] theorem getP_eq (s : State) (r : BitVec 4) : s.front.getP r = pval s r := by
  unfold Front.getP pval; rfl

@[simp] theorem val_zero (s : State) : val s 0 = 0 := rfl
@[simp] theorem psn_zero (s : State) : psn s 0 = false := rfl
@[simp] theorem pval_zero (s : State) : pval s 0 = true := rfl
theorem clear_zero (s : State) : Clear s 0 := by simp [Clear, State.waits]

theorem withS_clear {r : BitVec 6} {s : State} {k : Word → Bool → Eff} (h : Clear s r) : withS r s k = k (val s r) (psn s r) := by
  simp only [Clear] at h; simp [withS, h]
theorem withS_wait {r : BitVec 6} {s : State} {k : Word → Bool → Eff} (h : s.waits r = true) : withS r s k = .stall 1 0 := by
  simp [withS, h]
theorem withC_clean {slot : BitVec 2} {r : BitVec 6} {s : State} {k : Word → Eff} (h : Clean s r) : withC slot r s k = k (val s r) := by
  simp [withC, withS_clear h.1, h.2]
theorem withC_poison {slot : BitVec 2} {r : BitVec 6} {s : State} {k : Word → Eff} (h : Clear s r) (p : psn s r = true) :
    withC slot r s k = .trap (poisonTrap slot r) := by
  simp [withC, withS_clear h, p]

theorem putS_zero (f : Front) (v : Word) (p : Bool) : f.putS 0 v p = f := by simp [Front.putS]
theorem getS_putS_same (f : Front) (r : BitVec 6) (v : Word) (p : Bool) (h : r ≠ 0) : (f.putS r v p).getS r = (v, p) := by
  have hl : r.toNat < 64 := r.isLt
  simp only [Front.putS, Front.getS, if_neg h]
  cases p <;> simp [hl]
theorem getS_putS_ne (f : Front) (r q : BitVec 6) (v : Word) (p : Bool) (h : q ≠ r) : (f.putS r v p).getS q = f.getS q := by
  unfold Front.putS
  split
  · rfl
  · have hn : r.toNat ≠ q.toNat := fun e => h (BitVec.eq_of_toNat_eq e.symm)
    have hq : q.toNat < 64 := q.isLt
    have hr : r.toNat < 64 := r.isLt
    simp only [Front.getS]
    split
    · rfl
    · have hv : (f.s.set r.toFin v)[q.toFin] = f.s[q.toFin] := by
        simp only [Fin.getElem_fin]
        exact Vector.getElem_set_ne r.toFin.isLt q.toFin.isLt hn
      rw [hv]
      cases p <;> simp [hq]
      · intro hb
        by_cases hlt : q.toNat < r.toNat
        · exact Or.inl hlt
        · right; omega
      · intro hle heq
        exfalso; omega

/-! ## Results in flight -/

/-- Adding a result in flight is the one change `withFlight` spells out. -/
theorem fly_eq (s : State) (l : Nat) (d : Dest) : s.fly l d = withFlight s l d := by
  unfold State.fly withFlight State.setFront State.front
  cases h : s.cur with
  | core c => simp only [State.modCore, State.setCore, State.core, withCore]
  | seq q =>
    simp only [State.modCtx, State.setCtx, State.ctx]
    cases hx : (s.osqs[q]).ctx with
    | none => rfl
    | some x =>
      cases he : x.exp with
      | none =>
        have hxe : { x with exp := none } = x := by cases x; simp_all
        have ho : ({ ctx := some x, snap := (s.osqs[q]).snap, trace := (s.osqs[q]).trace } : Osq) = s.osqs[q] := by rw [← hx]
        simp only [he, Option.map_none, hxe, ho]
        have hset : s.osqs.set q.val s.osqs[q] = s.osqs := by simp
        rw [hset]
      | some e => simp [he, h]

@[simp] theorem withFlight_iss (s : State) (l : Nat) (d : Dest) : (withFlight s l d).iss = s.iss := by simp [← fly_eq]
@[simp] theorem withFlight_mem (s : State) (l : Nat) (d : Dest) : (withFlight s l d).mem = s.mem := by simp [← fly_eq]
@[simp] theorem withFlight_cur (s : State) (l : Nat) (d : Dest) : (withFlight s l d).cur = s.cur := by simp [← fly_eq]

theorem flyS_eq (s : State) (l : Nat) (r : BitVec 6) (v : Word) (p : Bool) : s.flyS l r v p = withFlight s l (.s r v p) := fly_eq s l _

/-! ## The scalar operand forms -/

theorem alu1_eq {f : SA} {op : Word → Word} {s : State} (ha : Clear s f.a) :
    alu1 f op s = .ok (withFlight s 1 (.s f.d (op (val s f.a)) (psn s f.a))) := by
  simp [alu1, withS_clear ha, flyS_eq]
theorem alu2_eq {l : Nat} {f : SA} {op : Word → Word → Word} {s : State} (ha : Clear s f.a) (hb : Clear s f.b) :
    alu2 l f op s = .ok (withFlight s l (.s f.d (op (val s f.a) (val s f.b)) (psn s f.a || psn s f.b))) := by
  simp [alu2, withS_clear ha, withS_clear hb, flyS_eq]
theorem alu3_eq {l : Nat} {f : SA} {op : Word → Word → Word → Word} {s : State} (ha : Clear s f.a) (hb : Clear s f.b) (hc : Clear s f.c) :
    alu3 l f op s = .ok (withFlight s l (.s f.d (op (val s f.a) (val s f.b) (val s f.c)) (psn s f.a || psn s f.b || psn s f.c))) := by
  simp [alu3, withS_clear ha, withS_clear hb, withS_clear hc, flyS_eq]
theorem aluI_eq {f : SI} {op : Word → Word → Word} {s : State} (ha : Clear s f.a) :
    aluI f op s = .ok (withFlight s 1 (.s f.d (op (val s f.a) (f.imm.signExtend 64)) (psn s f.a))) := by
  simp [aluI, withS_clear ha, flyS_eq, sx32]
theorem withAddr_eq {f : SM} {s : State} {k : Nat → Eff} (ha : Clean s f.a) :
    withAddr f s k = k (val s f.a + f.imm.signExtend 64).toNat := by
  simp [withAddr, withC_clean ha, sx28]

/-! ## Spill tables (R336): an access either fits and acts, or waits and leaves the request alone -/

@[simp] theorem State.spillOver_self (s : State) : s.spillOver s = none := by simp [State.spillOver]
theorem spillWait_fits {s t : State} {e : Eff} (h : s.spillOver t = none) : spillWait s t e = e := by simp [spillWait, h]
theorem spillWait_full {s t : State} {e : Eff} {d : Fin 4} (h : s.spillOver t = some d) :
    spillWait s t e = .stall 0xF1 (BitVec.ofNat 8 d.val) := by simp [spillWait, h]
theorem State.spillOr_fits {s t : State} (h : s.spillOver t = none) : s.spillOr t = t := by simp [State.spillOr, h]
theorem State.spillOr_full {s t : State} {d : Fin 4} (h : s.spillOver t = some d) : s.spillOr t = s.askSpill d := by simp [State.spillOr, h]
theorem State.spillVal_fits {s t : State} {v : Nat} (h : s.spillOver t = none) : s.spillVal t v = .val v t := by simp [State.spillVal, h]

/-- Ending a process that owns no context changes nothing (R377). -/
theorem State.endProcess_none {s : State} {p : Nat} (hl : ∀ q x, s.ctx q = some x → x.proc ≠ p) (hd : ∀ x ∈ s.dorm, x.proc ≠ p) : s.endProcess p = s := by
  have live : (List.finRange 16).filter (fun q => (s.ctx q).any (fun x => x.proc == p)) = [] := by
    refine List.filter_eq_nil_iff.2 fun q _ => ?_
    cases h : s.ctx q with
    | none => simp
    | some x => simp [hl q x h]
  have gone : s.dorm.filter (fun x => x.proc == p) = [] := List.filter_eq_nil_iff.2 fun x hx => by simp [hd x hx]
  have stay : s.dorm.filter (fun x => !(x.proc == p)) = s.dorm := List.filter_eq_self.2 fun x hx => by simp [hd x hx]
  have nil (l : List Nat) : l.filter (fun _ => false) = [] := List.filter_eq_nil_iff.2 fun _ _ => by simp
  simp [State.endProcess, live, gone, stay, nil]

end Sys2Proof.Laws
end

