-- ==== Sys2Proof/Laws/PerInstr.lean ====
section
/-! SUPPORT. A law of each instruction as syntax, one lemma per constructor: no instruction has two encodings, one in a slot of a bundle and one in Vanik bytes. -/

namespace Sys2Proof.Laws.OneEncoding

/-- R64, R225: a form that is guarded lies in a slot of a bundle, and has no Vanik bytes. -/
def Statement (i : Instr) : Prop := i.guard? = none ∨ encVanik i = []

theorem add (g : Guard) (f : SA) : Statement (.add g f) := Or.inr rfl
theorem sub (g : Guard) (f : SA) : Statement (.sub g f) := Or.inr rfl
theorem mul (g : Guard) (f : SA) : Statement (.mul g f) := Or.inr rfl
theorem mulh (g : Guard) (f : SA) : Statement (.mulh g f) := Or.inr rfl
theorem mulhu (g : Guard) (f : SA) : Statement (.mulhu g f) := Or.inr rfl
theorem div (g : Guard) (f : SA) : Statement (.div g f) := Or.inr rfl
theorem divu (g : Guard) (f : SA) : Statement (.divu g f) := Or.inr rfl
theorem rem (g : Guard) (f : SA) : Statement (.rem g f) := Or.inr rfl
theorem remu (g : Guard) (f : SA) : Statement (.remu g f) := Or.inr rfl
theorem andR (g : Guard) (f : SA) : Statement (.andR g f) := Or.inr rfl
theorem orR (g : Guard) (f : SA) : Statement (.orR g f) := Or.inr rfl
theorem xorR (g : Guard) (f : SA) : Statement (.xorR g f) := Or.inr rfl
theorem andn (g : Guard) (f : SA) : Statement (.andn g f) := Or.inr rfl
theorem shl (g : Guard) (f : SA) : Statement (.shl g f) := Or.inr rfl
theorem shr (g : Guard) (f : SA) : Statement (.shr g f) := Or.inr rfl
theorem sra (g : Guard) (f : SA) : Statement (.sra g f) := Or.inr rfl
theorem minR (g : Guard) (f : SA) : Statement (.minR g f) := Or.inr rfl
theorem maxR (g : Guard) (f : SA) : Statement (.maxR g f) := Or.inr rfl
theorem minu (g : Guard) (f : SA) : Statement (.minu g f) := Or.inr rfl
theorem maxu (g : Guard) (f : SA) : Statement (.maxu g f) := Or.inr rfl
theorem clz (g : Guard) (f : SA) : Statement (.clz g f) := Or.inr rfl
theorem ctz (g : Guard) (f : SA) : Statement (.ctz g f) := Or.inr rfl
theorem popc (g : Guard) (f : SA) : Statement (.popc g f) := Or.inr rfl
theorem ext (g : Guard) (f : SA) : Statement (.ext g f) := Or.inr rfl
theorem sel (g : Guard) (f : SA) : Statement (.sel g f) := Or.inr rfl
theorem cmp (g : Guard) (f : SA) : Statement (.cmp g f) := Or.inr rfl
theorem plog (g : Guard) (f : SA) : Statement (.plog g f) := Or.inr rfl
theorem maddr (g : Guard) (f : SA) : Statement (.maddr g f) := Or.inr rfl
theorem addi (g : Guard) (f : SI) : Statement (.addi g f) := Or.inr rfl
theorem andi (g : Guard) (f : SI) : Statement (.andi g f) := Or.inr rfl
theorem ori (g : Guard) (f : SI) : Statement (.ori g f) := Or.inr rfl
theorem xori (g : Guard) (f : SI) : Statement (.xori g f) := Or.inr rfl
theorem shli (g : Guard) (f : SI) : Statement (.shli g f) := Or.inr rfl
theorem shri (g : Guard) (f : SI) : Statement (.shri g f) := Or.inr rfl
theorem srai (g : Guard) (f : SI) : Statement (.srai g f) := Or.inr rfl
theorem cmpi (g : Guard) (f : SI) : Statement (.cmpi g f) := Or.inr rfl
theorem li (g : Guard) (f : SI) : Statement (.li g f) := Or.inr rfl
theorem lih (g : Guard) (f : SI) : Statement (.lih g f) := Or.inr rfl
theorem movk (g : Guard) (f : SI) : Statement (.movk g f) := Or.inr rfl
theorem br (g : Guard) (f : SC) : Statement (.br g f) := Or.inr rfl
theorem jmp (g : Guard) (f : SC) : Statement (.jmp g f) := Or.inr rfl
theorem call (g : Guard) (f : SC) : Statement (.call g f) := Or.inr rfl
theorem ret (g : Guard) (f : SC) : Statement (.ret g f) := Or.inr rfl
theorem mark (g : Guard) (f : SC) : Statement (.mark g f) := Or.inr rfl
theorem lset (g : Guard) (f : SC) : Statement (.lset g f) := Or.inr rfl
theorem lstr (g : Guard) (f : SC) : Statement (.lstr g f) := Or.inr rfl
theorem exitE (g : Guard) (f : SC) : Statement (.exitE g f) := Or.inr rfl
theorem exitS (g : Guard) (f : SC) : Statement (.exitS g f) := Or.inr rfl
theorem exitN (g : Guard) (f : SC) : Statement (.exitN g f) := Or.inr rfl
theorem trap (g : Guard) (f : SC) : Statement (.trap g f) := Or.inr rfl
theorem brk (g : Guard) (f : SC) : Statement (.brk g f) := Or.inr rfl
theorem hret (g : Guard) (f : SC) : Statement (.hret g f) := Or.inr rfl
theorem hretSkip (g : Guard) (f : SC) : Statement (.hretSkip g f) := Or.inr rfl
theorem phase (g : Guard) (f : SC) : Statement (.phase g f) := Or.inr rfl
theorem preempt (g : Guard) (f : SC) : Statement (.preempt g f) := Or.inr rfl
theorem gait (g : Guard) (f : SC) : Statement (.gait g f) := Or.inr rfl
theorem chk (g : Guard) (f : SC) : Statement (.chk g f) := Or.inr rfl
theorem cinch (f : SK) : Statement (.cinch f) := Or.inr rfl
theorem cinchZ (g : Guard) (f : SC) : Statement (.cinchZ g f) := Or.inr rfl
theorem ld (g : Guard) (f : SM) : Statement (.ld g f) := Or.inr rfl
theorem ldS (g : Guard) (f : SM) : Statement (.ldS g f) := Or.inr rfl
theorem st (g : Guard) (f : SM) : Statement (.st g f) := Or.inr rfl
theorem ldsp (g : Guard) (f : SM) : Statement (.ldsp g f) := Or.inr rfl
theorem stsp (g : Guard) (f : SM) : Statement (.stsp g f) := Or.inr rfl
theorem advc (g : Guard) (f : SM) : Statement (.advc g f) := Or.inr rfl
theorem advp (g : Guard) (f : SM) : Statement (.advp g f) := Or.inr rfl
theorem waitc (g : Guard) (f : SM) : Statement (.waitc g f) := Or.inr rfl
theorem waitp (g : Guard) (f : SM) : Statement (.waitp g f) := Or.inr rfl
theorem hset (g : Guard) (f : SM) : Statement (.hset g f) := Or.inr rfl
theorem hget (g : Guard) (f : SM) : Statement (.hget g f) := Or.inr rfl
theorem amoSwap (g : Guard) (f : SY) : Statement (.amoSwap g f) := Or.inr rfl
theorem amoAdd (g : Guard) (f : SY) : Statement (.amoAdd g f) := Or.inr rfl
theorem amoAnd (g : Guard) (f : SY) : Statement (.amoAnd g f) := Or.inr rfl
theorem amoOr (g : Guard) (f : SY) : Statement (.amoOr g f) := Or.inr rfl
theorem amoXor (g : Guard) (f : SY) : Statement (.amoXor g f) := Or.inr rfl
theorem amoMin (g : Guard) (f : SY) : Statement (.amoMin g f) := Or.inr rfl
theorem amoMax (g : Guard) (f : SY) : Statement (.amoMax g f) := Or.inr rfl
theorem amoMinu (g : Guard) (f : SY) : Statement (.amoMinu g f) := Or.inr rfl
theorem amoMaxu (g : Guard) (f : SY) : Statement (.amoMaxu g f) := Or.inr rfl
theorem amoFadd (g : Guard) (f : SY) : Statement (.amoFadd g f) := Or.inr rfl
theorem cas (g : Guard) (f : SY) : Statement (.cas g f) := Or.inr rfl
theorem cupdAdd (g : Guard) (f : SY) : Statement (.cupdAdd g f) := Or.inr rfl
theorem cupdFadd (g : Guard) (f : SY) : Statement (.cupdFadd g f) := Or.inr rfl
theorem cupdMin (g : Guard) (f : SY) : Statement (.cupdMin g f) := Or.inr rfl
theorem cupdMax (g : Guard) (f : SY) : Statement (.cupdMax g f) := Or.inr rfl
theorem cupdOr (g : Guard) (f : SY) : Statement (.cupdOr g f) := Or.inr rfl
theorem fence (g : Guard) (f : SY) : Statement (.fence g f) := Or.inr rfl
theorem barcfg (g : Guard) (f : SY) : Statement (.barcfg g f) := Or.inr rfl
theorem bararr (g : Guard) (f : SY) : Statement (.bararr g f) := Or.inr rfl
theorem barwait (g : Guard) (f : SY) : Statement (.barwait g f) := Or.inr rfl
theorem sstep (g : Guard) (f : SY) : Statement (.sstep g f) := Or.inr rfl
theorem srd (g : Guard) (f : SY) : Statement (.srd g f) := Or.inr rfl
theorem swr (g : Guard) (f : SY) : Statement (.swr g f) := Or.inr rfl
theorem wlnr (g : Guard) (f : SA) : Statement (.wlnr g f) := Or.inr rfl
theorem rgalloc (g : Guard) (f : SA) : Statement (.rgalloc g f) := Or.inr rfl
theorem rgfree (g : Guard) (f : SA) : Statement (.rgfree g f) := Or.inr rfl
theorem sbwait (g : Guard) (f : SA) : Statement (.sbwait g f) := Or.inr rfl
theorem sbpub (g : Guard) (f : SA) : Statement (.sbpub g f) := Or.inr rfl
theorem trec (g : Guard) (f : SA) : Statement (.trec g f) := Or.inr rfl
theorem hlatArm (g : Guard) (f : SA) : Statement (.hlatArm g f) := Or.inr rfl
theorem hlatCnt (g : Guard) (f : SA) : Statement (.hlatCnt g f) := Or.inr rfl
theorem hlatPre (g : Guard) (f : SA) : Statement (.hlatPre g f) := Or.inr rfl
theorem hlatOut (g : Guard) (f : SA) : Statement (.hlatOut g f) := Or.inr rfl
theorem hlatTot (g : Guard) (f : SA) : Statement (.hlatTot g f) := Or.inr rfl
theorem opendDone (g : Guard) (f : SA) : Statement (.opendDone g f) := Or.inr rfl
theorem opendCancel (g : Guard) (f : SA) : Statement (.opendCancel g f) := Or.inr rfl
theorem opendRepeat (g : Guard) (f : SA) : Statement (.opendRepeat g f) := Or.inr rfl
theorem vadd (g : Guard) (f : VA) : Statement (.vadd g f) := Or.inr rfl
theorem vsub (g : Guard) (f : VA) : Statement (.vsub g f) := Or.inr rfl
theorem vmul (g : Guard) (f : VA) : Statement (.vmul g f) := Or.inr rfl
theorem vfma (g : Guard) (f : VA) : Statement (.vfma g f) := Or.inr rfl
theorem vfms (g : Guard) (f : VA) : Statement (.vfms g f) := Or.inr rfl
theorem vfnma (g : Guard) (f : VA) : Statement (.vfnma g f) := Or.inr rfl
theorem vmin (g : Guard) (f : VA) : Statement (.vmin g f) := Or.inr rfl
theorem vmax (g : Guard) (f : VA) : Statement (.vmax g f) := Or.inr rfl
theorem vabs (g : Guard) (f : VA) : Statement (.vabs g f) := Or.inr rfl
theorem vneg (g : Guard) (f : VA) : Statement (.vneg g f) := Or.inr rfl
theorem vdiv (g : Guard) (f : VA) : Statement (.vdiv g f) := Or.inr rfl
theorem vsqrt (g : Guard) (f : VA) : Statement (.vsqrt g f) := Or.inr rfl
theorem vrsq (g : Guard) (f : VA) : Statement (.vrsq g f) := Or.inr rfl
theorem vexp2 (g : Guard) (f : VA) : Statement (.vexp2 g f) := Or.inr rfl
theorem vlog2 (g : Guard) (f : VA) : Statement (.vlog2 g f) := Or.inr rfl
theorem vcvt (g : Guard) (f : VA) : Statement (.vcvt g f) := Or.inr rfl
theorem vpack (g : Guard) (f : VA) : Statement (.vpack g f) := Or.inr rfl
theorem vunpk (g : Guard) (f : VA) : Statement (.vunpk g f) := Or.inr rfl
theorem vand (g : Guard) (f : VA) : Statement (.vand g f) := Or.inr rfl
theorem vor (g : Guard) (f : VA) : Statement (.vor g f) := Or.inr rfl
theorem vxor (g : Guard) (f : VA) : Statement (.vxor g f) := Or.inr rfl
theorem vshl (g : Guard) (f : VA) : Statement (.vshl g f) := Or.inr rfl
theorem vshr (g : Guard) (f : VA) : Statement (.vshr g f) := Or.inr rfl
theorem vsra (g : Guard) (f : VA) : Statement (.vsra g f) := Or.inr rfl
theorem vcmp (g : Guard) (f : VA) : Statement (.vcmp g f) := Or.inr rfl
theorem vsel (g : Guard) (f : VA) : Statement (.vsel g f) := Or.inr rfl
theorem vred (g : Guard) (f : VA) : Statement (.vred g f) := Or.inr rfl
theorem vscan (g : Guard) (f : VA) : Statement (.vscan g f) := Or.inr rfl
theorem vclass (g : Guard) (f : VA) : Statement (.vclass g f) := Or.inr rfl
theorem vterm (g : Guard) (f : VA) : Statement (.vterm g f) := Or.inr rfl
theorem vqsc (g : Guard) (f : VA) : Statement (.vqsc g f) := Or.inr rfl
theorem vqscEnc (g : Guard) (f : VA) : Statement (.vqscEnc g f) := Or.inr rfl
theorem vbcst (g : Guard) (f : VA) : Statement (.vbcst g f) := Or.inr rfl
theorem vbcstLane (g : Guard) (f : VA) : Statement (.vbcstLane g f) := Or.inr rfl
theorem vmovs (g : Guard) (f : VA) : Statement (.vmovs g f) := Or.inr rfl
theorem vins (g : Guard) (f : VA) : Statement (.vins g f) := Or.inr rfl
theorem viota (g : Guard) (f : VA) : Statement (.viota g f) := Or.inr rfl
theorem vshuf (g : Guard) (f : VA) : Statement (.vshuf g f) := Or.inr rfl
theorem vrot (g : Guard) (f : VA) : Statement (.vrot g f) := Or.inr rfl
theorem vmskLog (g : Guard) (f : VA) : Statement (.vmskLog g f) := Or.inr rfl
theorem vmskSet (g : Guard) (f : VA) : Statement (.vmskSet g f) := Or.inr rfl
theorem vmskFirst (g : Guard) (f : VA) : Statement (.vmskFirst g f) := Or.inr rfl
theorem vmskGet (g : Guard) (f : VA) : Statement (.vmskGet g f) := Or.inr rfl
theorem vchk (g : Guard) (f : VA) : Statement (.vchk g f) := Or.inr rfl
theorem vldh (g : Guard) (f : VR) : Statement (.vldh g f) := Or.inr rfl
theorem vsth (g : Guard) (f : VR) : Statement (.vsth g f) := Or.inr rfl
theorem vlds (g : Guard) (f : VS) : Statement (.vlds g f) := Or.inr rfl
theorem vsts (g : Guard) (f : VS) : Statement (.vsts g f) := Or.inr rfl
theorem mldw (g : Guard) (f : MF) : Statement (.mldw g f) := Or.inr rfl
theorem mswap (g : Guard) (f : MF) : Statement (.mswap g f) := Or.inr rfl
theorem mpush (g : Guard) (f : MF) : Statement (.mpush g f) := Or.inr rfl
theorem mdrain (g : Guard) (f : MF) : Statement (.mdrain g f) := Or.inr rfl
theorem mzero (g : Guard) (f : MF) : Statement (.mzero g f) := Or.inr rfl
theorem mhem (g : Guard) (f : MF) : Statement (.mhem g f) := Or.inr rfl
theorem mtclr (g : Guard) (f : MF) : Statement (.mtclr g f) := Or.inr rfl
theorem mlu (g : Guard) (f : MF) : Statement (.mlu g f) := Or.inr rfl
theorem mchol (g : Guard) (f : MF) : Statement (.mchol g f) := Or.inr rfl
theorem mqr (g : Guard) (f : MF) : Statement (.mqr g f) := Or.inr rfl
theorem mtrsm (g : Guard) (f : MF) : Statement (.mtrsm g f) := Or.inr rfl
theorem mperm (g : Guard) (f : MF) : Statement (.mperm g f) := Or.inr rfl
theorem mres (g : Guard) (f : MF) : Statement (.mres g f) := Or.inr rfl
theorem mfwait (g : Guard) (f : MF) : Statement (.mfwait g f) := Or.inr rfl
theorem xcopy (g : Guard) (f : XF) : Statement (.xcopy g f) := Or.inr rfl
theorem xcopys (g : Guard) (f : XF) : Statement (.xcopys g f) := Or.inr rfl
theorem xstore (g : Guard) (f : XF) : Statement (.xstore g f) := Or.inr rfl
theorem xpub (g : Guard) (f : XF) : Statement (.xpub g f) := Or.inr rfl
theorem xpubNow (g : Guard) (f : XF) : Statement (.xpubNow g f) := Or.inr rfl
theorem xdrop (g : Guard) (f : XF) : Statement (.xdrop g f) := Or.inr rfl
theorem xwld (g : Guard) (f : XF) : Statement (.xwld g f) := Or.inr rfl
theorem xgath (g : Guard) (f : XF) : Statement (.xgath g f) := Or.inr rfl
theorem xpermTr (g : Guard) (f : XF) : Statement (.xpermTr g f) := Or.inr rfl
theorem xpermIdx (g : Guard) (f : XF) : Statement (.xpermIdx g f) := Or.inr rfl
theorem xftl (g : Guard) (f : XF) : Statement (.xftl g f) := Or.inr rfl
theorem xfte (g : Guard) (f : XF) : Statement (.xfte g f) := Or.inr rfl
theorem xqnt (g : Guard) (f : XF) : Statement (.xqnt g f) := Or.inr rfl
theorem xqntFix (g : Guard) (f : XF) : Statement (.xqntFix g f) := Or.inr rfl
theorem xhist (g : Guard) (f : XF) : Statement (.xhist g f) := Or.inr rfl
theorem xhlat (g : Guard) (f : XF) : Statement (.xhlat g f) := Or.inr rfl
theorem xdfnc (g : Guard) (f : XF) : Statement (.xdfnc g f) := Or.inr rfl
theorem xwait (g : Guard) (f : XF) : Statement (.xwait g f) := Or.inr rfl
theorem xfill (g : Guard) (f : XF) : Statement (.xfill g f) := Or.inr rfl
theorem wsload (d s : BitVec 8) : Statement (.wsload d s) := Or.inl rfl
theorem matmul (y x w : BitVec 8) (acc : Bool) (e : BitVec 4) : Statement (.matmul y x w acc e) := Or.inl rfl
theorem matmulGrp (y x w : BitVec 8) (acc : Bool) (e : BitVec 4) : Statement (.matmulGrp y x w acc e) := Or.inl rfl
theorem ewise (y a c : BitVec 8) (op : BitVec 4) : Statement (.ewise y a c op) := Or.inl rfl
theorem unary (y x : BitVec 8) (fn : BitVec 4) (table : SOp) : Statement (.unary y x fn table) := Or.inl rfl
theorem norm (y x g : BitVec 8) (rms : Bool) (bt : Option (BitVec 8)) (eps : SOp) : Statement (.norm y x g rms bt eps) := Or.inl rfl
theorem softmax (y x : BitVec 8) (log : Bool) : Statement (.softmax y x log) := Or.inl rfl
theorem reduce (y x : BitVec 8) (op axis : BitVec 3) : Statement (.reduce y x op axis) := Or.inl rfl
theorem attn (o q k v : BitVec 8) (causal : Bool) (scale : SOp) : Statement (.attn o q k v causal scale) := Or.inl rfl
theorem gather (y x i : BitVec 8) (axis : BitVec 3) (zfill : Bool) : Statement (.gather y x i axis zfill) := Or.inl rfl
theorem scatter (y x i : BitVec 8) (axis : BitVec 3) (mode : BitVec 2) (skip : Bool) : Statement (.scatter y x i axis mode skip) := Or.inl rfl
theorem topk (v i x : BitVec 8) (k : SOp) : Statement (.topk v i x k) := Or.inl rfl
theorem route (p x : BitVec 8) (e : BitVec 4) : Statement (.route p x e) := Or.inl rfl
theorem castT (y x : BitVec 8) : Statement (.castT y x) := Or.inl rfl
theorem quant (y x : BitVec 8) : Statement (.quant y x) := Or.inl rfl
theorem quantFix (y x : BitVec 8) (scale : SOp) : Statement (.quantFix y x scale) := Or.inl rfl
theorem dequant (y x : BitVec 8) : Statement (.dequant y x) := Or.inl rfl
theorem transp (y x : BitVec 8) (perm : BitVec 18) : Statement (.transp y x perm) := Or.inl rfl
theorem concat (y a c : BitVec 8) (axis : BitVec 3) : Statement (.concat y a c axis) := Or.inl rfl
theorem copyT (y x : BitVec 8) : Statement (.copyT y x) := Or.inl rfl
theorem fillT (y : BitVec 8) (v : SOp) : Statement (.fillT y v) := Or.inl rfl
theorem luf (a p g : BitVec 8) (rep : Option SOp) : Statement (.luf a p g rep) := Or.inl rfl
theorem cholf (a g : BitVec 8) (rep : Option SOp) : Statement (.cholf a g rep) := Or.inl rfl
theorem qrf (a tau g : BitVec 8) : Statement (.qrf a tau g) := Or.inl rfl
theorem trsm (x l : BitVec 8) (low unit trn : Bool) : Statement (.trsm x l low unit trn) := Or.inl rfl
theorem allred (y x : BitVec 8) (op : BitVec 2) : Statement (.allred y x op) := Or.inl rfl
theorem allgath (y x : BitVec 8) : Statement (.allgath y x) := Or.inl rfl
theorem redscat (y x : BitVec 8) (op : BitVec 2) : Statement (.redscat y x op) := Or.inl rfl
theorem alltoall (y x : BitVec 8) : Statement (.alltoall y x) := Or.inl rfl
theorem sendT (x : BitVec 8) (peer : SOp) (tag : BitVec 16) : Statement (.sendT x peer tag) := Or.inl rfl
theorem recv (y : BitVec 8) (peer : SOp) (tag : BitVec 16) : Statement (.recv y peer tag) := Or.inl rfl
theorem signalSet (addr v : SOp) : Statement (.signalSet addr v) := Or.inl rfl
theorem signalAdd (addr v : SOp) : Statement (.signalAdd addr v) := Or.inl rfl
theorem waitsig (cc : BitVec 3) (d : BitVec 6) (addr v : SOp) : Statement (.waitsig cc d addr v) := Or.inl rfl
theorem opfence (scope : BitVec 4) : Statement (.opfence scope) := Or.inl rfl
theorem opx (x : BitVec 8) (no : BitVec 4) (ts : List (BitVec 8)) (ns : List SOp) : Statement (.opx x no ts ns) := Or.inl rfl
theorem bundle (w : BitVec 256) : Statement (.bundle w) := Or.inl rfl
theorem nop (slot : BitVec 2) : Statement (.nop slot) := Or.inl rfl
theorem loadReturn (u : UnitId) (k : Nat) : Statement (.loadReturn u k) := Or.inl rfl
theorem mldwExecute (c : Fin 320) : Statement (.mldwExecute c) := Or.inl rfl
theorem beat (c : Fin 320) : Statement (.beat c) := Or.inl rfl
theorem mdrainExecute (c : Fin 320) : Statement (.mdrainExecute c) := Or.inl rfl
theorem factorisationStep (c : Fin 320) : Statement (.factorisationStep c) := Or.inl rfl
theorem asyncTrapDelivery (c : Fin 320) : Statement (.asyncTrapDelivery c) := Or.inl rfl
theorem latchContribution (q : Fin 16) (k : Nat) : Statement (.latchContribution q k) := Or.inl rfl
theorem engineDispatch (c : Fin 320) : Statement (.engineDispatch c) := Or.inl rfl
theorem engineUnit (c : Fin 320) (cls : Fin 9) (second : Bool) : Statement (.engineUnit c cls second) := Or.inl rfl
theorem engineWatchReport (c : Fin 320) : Statement (.engineWatchReport c) := Or.inl rfl
theorem engineCommandComplete (c : Fin 320) (cls : Fin 9) : Statement (.engineCommandComplete c cls) := Or.inl rfl
theorem gend : Statement (.gend) := Or.inl rfl
theorem gjmp (off : Word) : Statement (.gjmp off) := Or.inl rfl
theorem gbr (g : BitVec 3) (inv : Bool) (off : Word) : Statement (.gbr g inv off) := Or.inl rfl
theorem gcall (off : Word) : Statement (.gcall off) := Or.inl rfl
theorem gret : Statement (.gret) := Or.inl rfl
theorem gloop (c : BitVec 6) (count : SOp) (exit : Word) : Statement (.gloop c count exit) := Or.inl rfl
theorem gendl : Statement (.gendl) := Or.inl rfl
theorem traph (off : Word) : Statement (.traph off) := Or.inl rfl
theorem trapretRvpc : Statement (.trapretRvpc) := Or.inl rfl
theorem trapretReexec : Statement (.trapretReexec) := Or.inl rfl
theorem trapretTarget (target : SOp) : Statement (.trapretTarget target) := Or.inl rfl
theorem fmtset (i : BitVec 4) (v : Word) : Statement (.fmtset i v) := Or.inl rfl
theorem fmtloop (lvl : BitVec 3) (en : Bool) (base : BitVec 4) : Statement (.fmtloop lvl en base) := Or.inl rfl
theorem nli (d : BitVec 6) (imm : Word) : Statement (.nli d imm) := Or.inl rfl
theorem naluAdd (d : BitVec 6) (a b : SOp) : Statement (.naluAdd d a b) := Or.inl rfl
theorem naluSub (d : BitVec 6) (a b : SOp) : Statement (.naluSub d a b) := Or.inl rfl
theorem naluMul (d : BitVec 6) (a b : SOp) : Statement (.naluMul d a b) := Or.inl rfl
theorem naluFloordiv (d : BitVec 6) (a b : SOp) : Statement (.naluFloordiv d a b) := Or.inl rfl
theorem naluCeildiv (d : BitVec 6) (a b : SOp) : Statement (.naluCeildiv d a b) := Or.inl rfl
theorem naluMin (d : BitVec 6) (a b : SOp) : Statement (.naluMin d a b) := Or.inl rfl
theorem naluMax (d : BitVec 6) (a b : SOp) : Statement (.naluMax d a b) := Or.inl rfl
theorem naluAnd (d : BitVec 6) (a b : SOp) : Statement (.naluAnd d a b) := Or.inl rfl
theorem naluOr (d : BitVec 6) (a b : SOp) : Statement (.naluOr d a b) := Or.inl rfl
theorem naluShl (d : BitVec 6) (a b : SOp) : Statement (.naluShl d a b) := Or.inl rfl
theorem naluShr (d : BitVec 6) (a b : SOp) : Statement (.naluShr d a b) := Or.inl rfl
theorem ncmp (cc : BitVec 3) (g : BitVec 3) (a b : SOp) : Statement (.ncmp cc g a b) := Or.inl rfl
theorem nld (d : BitVec 6) (sx : Bool) (sz : BitVec 2) (hw : Option (BitVec 8)) (addr : SOp) : Statement (.nld d sx sz hw addr) := Or.inl rfl
theorem nst (sz : BitVec 2) (addr v : SOp) : Statement (.nst sz addr v) := Or.inl rfl
theorem ndim (d : BitVec 6) (dim : BitVec 3) (sel : BitVec 2) (t : BitVec 8) : Statement (.ndim d dim sel t) := Or.inl rfl
theorem ndimCsw (d : BitVec 6) : Statement (.ndimCsw d) := Or.inl rfl
theorem nmb (i : BitVec 3) (v : SOp) : Statement (.nmb i v) := Or.inl rfl
theorem tdecl (t : BitVec 8) (rel : Bool) (addr : SOp) : Statement (.tdecl t rel addr) := Or.inl rfl
theorem tview (v s : BitVec 8) (d : BitVec 3) (start len : SOp) : Statement (.tview v s d start len) := Or.inl rfl
theorem talloc (t : BitVec 8) : Statement (.talloc t) := Or.inl rfl
theorem tfree (t : BitVec 8) : Statement (.tfree t) := Or.inl rfl
theorem rfence (t : BitVec 8) : Statement (.rfence t) := Or.inl rfl
theorem rfenceAll : Statement (.rfenceAll) := Or.inl rfl
theorem kload (d : BitVec 6) (addr : SOp) : Statement (.kload d addr) := Or.inl rfl
theorem kbind (key : BitVec 9) (sig : BitVec 32) (img : SOp) : Statement (.kbind key sig img) := Or.inl rfl
theorem fuse (keep : Bool) : Statement (.fuse keep) := Or.inl rfl
theorem fusend : Statement (.fusend) := Or.inl rfl
theorem waitsigWake (q : Fin 16) : Statement (.waitsigWake q) := Or.inl rfl
theorem chunkDispatch (q : Fin 16) : Statement (.chunkDispatch q) := Or.inl rfl
theorem energyWindow : Statement (.energyWindow) := Or.inl rfl
theorem invocationComplete (q : Fin 16) (k : Nat) : Statement (.invocationComplete q k) := Or.inl rfl
theorem kernelFaultDelivery (q : Fin 16) : Statement (.kernelFaultDelivery q) := Or.inl rfl
theorem watchdog (c : Fin 320) : Statement (.watchdog c) := Or.inl rfl
theorem wsRefresh : Statement (.wsRefresh) := Or.inl rfl
theorem shootdown (slot : BitVec 6) (va len : BitVec 48) : Statement (.shootdown slot va len) := Or.inl rfl
theorem uncorrectableError (e : ErrSite) : Statement (.uncorrectableError e) := Or.inl rfl
theorem correctableError (code : Fin 12) : Statement (.correctableError code) := Or.inl rfl
theorem preemptionRequest (q : Fin 16) : Statement (.preemptionRequest q) := Or.inl rfl
theorem hardPreemption (c : Fin 320) : Statement (.hardPreemption c) := Or.inl rfl
theorem taskResume (q : Fin 16) (area : BitVec 52) : Statement (.taskResume q area) := Or.inl rfl
theorem servingContextWake (q : Fin 16) : Statement (.servingContextWake q) := Or.inl rfl
theorem flitReceive (p : Fin 16) (flit : BitVec 576) : Statement (.flitReceive p flit) := Or.inl rfl
theorem linkReplay (p : Fin 16) (seq : BitVec 12) : Statement (.linkReplay p seq) := Or.inl rfl
theorem linkRetrain (p : Fin 16) : Statement (.linkRetrain p) := Or.inl rfl
theorem fabricTimeout (k : Nat) : Statement (.fabricTimeout k) := Or.inl rfl
theorem peerRead (r : Req) : Statement (.peerRead r) := Or.inl rfl
theorem peerWrite (r : Req) : Statement (.peerWrite r) := Or.inl rfl
theorem remoteAtomic (r : Req) : Statement (.remoteAtomic r) := Or.inl rfl
theorem enqueue (r : Req) : Statement (.enqueue r) := Or.inl rfl
theorem response (k : Nat) (data : BitVec 512) : Statement (.response k data) := Or.inl rfl
theorem refusal (k : Nat) (reason : BitVec 2) : Statement (.refusal k reason) := Or.inl rfl
theorem hostRead (r : Req) : Statement (.hostRead r) := Or.inl rfl
theorem hostWrite (r : Req) : Statement (.hostWrite r) := Or.inl rfl
theorem ethernetFrame (port : Fin 8) (frame : List Byte) (enq : Option Req) : Statement (.ethernetFrame port frame enq) := Or.inl rfl
theorem getVersion (req : List Byte) : Statement (.getVersion req) := Or.inl rfl
theorem getCapabilities (req : List Byte) : Statement (.getCapabilities req) := Or.inl rfl
theorem negotiateAlgorithms (req : List Byte) : Statement (.negotiateAlgorithms req) := Or.inl rfl
theorem getDigests (req : List Byte) : Statement (.getDigests req) := Or.inl rfl
theorem getCertificate (req : List Byte) : Statement (.getCertificate req) := Or.inl rfl
theorem challenge (req : List Byte) : Statement (.challenge req) := Or.inl rfl
theorem getMeasurements (req : List Byte) : Statement (.getMeasurements req) := Or.inl rfl
theorem dbgStop (c : Fin 320) : Statement (.dbgStop c) := Or.inl rfl
theorem dbgResume (c : Fin 320) : Statement (.dbgResume c) := Or.inl rfl
theorem dbgStep (c : Fin 320) : Statement (.dbgStep c) := Or.inl rfl
theorem stopWindowWrite (c : Fin 320) (off : BitVec 20) (v : Word) : Statement (.stopWindowWrite c off v) := Or.inl rfl
theorem sample (c : Fin 320) : Statement (.sample c) := Or.inl rfl
theorem fire : Statement (.fire) := Or.inl rfl
theorem haltNEdge : Statement (.haltNEdge) := Or.inl rfl
theorem halterRearm : Statement (.halterRearm) := Or.inl rfl
theorem halterLatch : Statement (.halterLatch) := Or.inl rfl
theorem replayArrival (source : BitVec 8) (payload : List Byte) : Statement (.replayArrival source payload) := Or.inl rfl
theorem powerOnReset (cfg : BootCfg) : Statement (.powerOnReset cfg) := Or.inl rfl
theorem upd (image : List Byte) : Statement (.upd image) := Or.inl rfl
theorem reinHb (k : Fin 6) : Statement (.reinHb k) := Or.inl rfl
theorem updateRollback : Statement (.updateRollback) := Or.inl rfl
theorem reinRestart (k : Fin 6) : Statement (.reinRestart k) := Or.inl rfl
theorem queueBlockApply (q : Fin 64) (block : BitVec 52) : Statement (.queueBlockApply q block) := Or.inl rfl
theorem platClkWrite (v : Word) : Statement (.platClkWrite v) := Or.inl rfl
theorem thermalTrip (d : Fin 5) : Statement (.thermalTrip d) := Or.inl rfl
theorem rasClear (ue : Bool) (code : Fin 12) (v : Word) : Statement (.rasClear ue code v) := Or.inl rfl
theorem spillWrite (d : Fin 4) (size : Bool) (v : Word) : Statement (.spillWrite d size v) := Or.inl rfl
theorem cloakEntryWrite (d : Fin 4) (i : Fin 8192) (high : Bool) (v : Word) : Statement (.cloakEntryWrite d i high v) := Or.inl rfl
theorem exposureWrite (e : Fin 256) (high : Bool) (v : Word) : Statement (.exposureWrite e high v) := Or.inl rfl
theorem peerSlotWrite (slot : Fin 256) (v : Word) : Statement (.peerSlotWrite slot v) := Or.inl rfl
theorem fabIdWrite (v : Word) : Statement (.fabIdWrite v) := Or.inl rfl
theorem fabPortenWrite (v : Word) : Statement (.fabPortenWrite v) := Or.inl rfl
theorem routeWrite (dev : Fin 4094) (v : Word) : Statement (.routeWrite dev v) := Or.inl rfl
theorem queueW0Write (q : Fin 64) (v : Word) : Statement (.queueW0Write q v) := Or.inl rfl
theorem registerWrite (addr : BitVec 52) (v : Word) : Statement (.registerWrite addr v) := Or.inl rfl
theorem mSlotEntryExecute (c : Fin 320) : Statement (.mSlotEntryExecute c) := Or.inl rfl
theorem pageResolved (u : UnitId) : Statement (.pageResolved u) := Or.inl rfl
theorem contextCreate (cfg : CtxCfg) : Statement (.contextCreate cfg) := Or.inl rfl
theorem contextActivate (q : Fin 16) (tag : BitVec 16) : Statement (.contextActivate q tag) := Or.inl rfl
theorem teamChange (q : Fin 16) (map : BitVec 40) : Statement (.teamChange q map) := Or.inl rfl
theorem preemptionWithdraw (q : Fin 16) : Statement (.preemptionWithdraw q) := Or.inl rfl
theorem haltNRelease : Statement (.haltNRelease) := Or.inl rfl
theorem linkTrainingDone (p : Fin 16) (up : Bool) : Statement (.linkTrainingDone p up) := Or.inl rfl
theorem unassignedOpcode (b : BitVec 8) : Statement (.unassignedOpcode b) := Or.inl rfl
theorem vbcFetch (info : Word) : Statement (.vbcFetch info) := Or.inl rfl

end Sys2Proof.Laws.OneEncoding
end

