-- ==== Sys2Proof/Tests/Slice0.lean ====
section
/-! SUPPORT. The modeller's own tests: ill-formed terms refused, words written out from the spec's encodings, one small step each of a few forms, and for
every statement a state and operands that meet its hypotheses together. -/

namespace Sys2Proof.Tests

open Sys2Proof.Machine Sys2Proof.Safety

set_option Elab.async false

/-! ## Decoding: words written out field by field from the encoding tables (R65 to R79, R217, R225 to R230, R256) -/

/-- Each word of the list decodes to the instruction beside it. -/
def reads {n : Nat} (d : BitVec n → Option Instr) (l : List (BitVec n × Instr)) : Bool := l.all (fun p => decide (d p.1 = some p.2))

/-- Each list of bytes decodes, whole, to the instruction beside it, bytes of another following or not. -/
noncomputable def vanik (l : List (List Byte × Instr)) : Bool :=
  l.all (fun p => (match decodeVanik (p.1 ++ [0x55]) with
    | .ok (i, n) => decide (i = p.2) && n == p.1.length
    | .error _ => false))

/-- Guard `(!p3)`: PD 3, PN 1. -/
def g : Guard := ⟨3, true, 0, 0⟩

/-- The S-slot values that the manual writes out. -/
theorem test_decode_manual_S : reads (fun w => decS w 0 0)
   [(0x0C28A301, .add ⟨3, false, 0, 0⟩ { fn := 0, c := 0, b := 6, a := 5, d := 5 }), (0x648184027, .cmpi ⟨0, false, 0, 0⟩ { imm := 100, fn := 4, a := 3, d := 2 }),
    (0xFFFFFFFD0000130, .br ⟨1, false, 0, 0⟩ { imm := 0xFFFFFFFD, fn := 0, b := 0, a := 0 }), (0x24000034, .mark ⟨0, false, 0, 0⟩ { imm := 2, fn := 2, b := 0, a := 0 }),
    (0x1D3A5C070000C40, .cinch { q := 0, lvl := 0, count := 12, crc := 0x1D3A5C07 }), (0x100C30A050, .ld ⟨0, false, 0, 0⟩ { imm := 16, h := 0, sx := true, sz := 2, a := 6, d := 5 }),
    (0x806312052, .st ⟨0, false, 0, 0⟩ { imm := 8, h := 0, sx := false, sz := 3, a := 6, d := 9 }),
    (0xFFFFFF806312052, .st ⟨0, false, 0, 0⟩ { imm := 0xFFFFFF8, h := 0, sx := false, sz := 3, a := 6, d := 9 }),
    (0x6A200E308060, .amoAdd ⟨0, false, 0, 0⟩ { sys := 0, sz := 3, scope := 5, aop := 1, c := 0, b := 7, a := 6, d := 4 }),
    (0x1000000000A068, .srd ⟨0, false, 0, 0⟩ { sys := 0x10, sz := 0, scope := 0, aop := 0, c := 0, b := 0, a := 0, d := 5 }),
    (0x400020A071, .rgalloc ⟨0, false, 0, 0⟩ { fn := 2, c := 0, b := 0, a := 4, d := 5 }), (0x4000000077, .opendRepeat ⟨0, false, 0, 0⟩ { fn := 2, c := 0, b := 0, a := 0, d := 0 }),
    (0, .nop 0)] = true := by decide +kernel

/-- The V-slot values that the manual writes out. -/
theorem test_decode_manual_V : reads (fun w => decV w 0 0)
   [(0x0000924004086001, .vadd ⟨0, false, 0, 0⟩ { fn := 0, swz := true, part := 2, ty := 2, msk := 2, c := 0, b := 2, a := 1, d := 3 }),
    (0x00001F000028C010, .vcvt ⟨0, false, 0, 0⟩ { fn := 0, swz := false, part := 3, ty := 7, msk := 0, c := 0, b := 0, a := 5, d := 6 }),
    (0x000803600008801C, .vscan ⟨0, false, 0, 0⟩ { fn := 8, swz := false, part := 0, ty := 3, msk := 3, c := 0, b := 0, a := 1, d := 4 }),
    (0x000100200020E032, .vlds ⟨0, false, 0, 0⟩ { imm := 256, msk := 1, a := 4, d := 7 }), (0, .nop 1)] = true := by decide +kernel

/-- The M-slot and X-slot values that the manual writes out. -/
theorem test_decode_manual_M : reads (fun w => decM w 0 0)
   [(0x000000C001, .mldw ⟨0, false, 0, 0⟩ { aux := 0, row := 0, t := false, b := 0, a := 6 }), (0x0216046003, .mpush ⟨0, false, 0, 0⟩ { aux := 1, row := 5, t := true, b := 0, a := 0x23 }),
    (0x0600004004, .mdrain ⟨0, false, 0, 0⟩ { aux := 3, row := 0, t := false, b := 0, a := 2 }), (0x0200000006, .mhem ⟨0, false, 0, 0⟩ { aux := 1, row := 0, t := false, b := 0, a := 0 }),
    (0x00003FE007, .mtclr ⟨0, false, 0, 0⟩ { aux := 0, row := 0, t := false, b := 7, a := 63 }), (0x0A02008012, .mqr ⟨0, false, 0, 0⟩ { aux := 5, row := 0, t := true, b := 0, a := 4 }),
    (0x0600288013, .mtrsm ⟨0, false, 0, 0⟩ { aux := 3, row := 0, t := false, b := 5, a := 4 }), (0x0200012015, .mres ⟨0, false, 0, 0⟩ { aux := 1, row := 0, t := false, b := 0, a := 9 }),
    (0, .nop 2)] = true := by decide +kernel

theorem test_decode_manual_X : reads (fun w => decX w 0 0)
   [(0x0000188018000C004001, .xcopy ⟨0, false, 0, 0⟩ { imm := 3, tag := 1, fn := 0, fmt := 3, c := 0, b := 0, a := 6, ofs := 0, h := 2 }),
    (0x0000010000001002A003, .xstore ⟨0, false, 0, 0⟩ { imm := 0, tag := 2, fn := 0, fmt := 0, c := 0, b := 0, a := 8, ofs := 1, h := 5 }),
    (0, .nop 3), (0x00000900000A0000400A, .xfte ⟨0, false, 0, 0⟩ { imm := 1, tag := 2, fn := 0, fmt := 0, c := 0, b := 20, a := 0, ofs := 0, h := 2 }),
    (0x0000100000000000000F, .xwait ⟨0, false, 0, 0⟩ { imm := 2, tag := 0, fn := 0, fmt := 0, c := 0, b := 0, a := 0, ofs := 0, h := 0 })] = true := by decide +kernel

theorem test_decode_SA_1 : reads (fun w => decS w 0 0)
   [(0xE30B301, .add g { fn := 0, c := 0, b := 7, a := 6, d := 5 }), (0xE30B302, .sub g { fn := 0, c := 0, b := 7, a := 6, d := 5 }),
    (0xE30B303, .mul g { fn := 0, c := 0, b := 7, a := 6, d := 5 }), (0xE30B304, .mulh g { fn := 0, c := 0, b := 7, a := 6, d := 5 }),
    (0xE30B305, .mulhu g { fn := 0, c := 0, b := 7, a := 6, d := 5 }), (0xE30B306, .div g { fn := 0, c := 0, b := 7, a := 6, d := 5 }),
    (0xE30B307, .divu g { fn := 0, c := 0, b := 7, a := 6, d := 5 }), (0xE30B308, .rem g { fn := 0, c := 0, b := 7, a := 6, d := 5 }),
    (0xE30B309, .remu g { fn := 0, c := 0, b := 7, a := 6, d := 5 }), (0xE30B30A, .andR g { fn := 0, c := 0, b := 7, a := 6, d := 5 }),
    (0xE30B30B, .orR g { fn := 0, c := 0, b := 7, a := 6, d := 5 }), (0xE30B30C, .xorR g { fn := 0, c := 0, b := 7, a := 6, d := 5 }),
    (0xE30B30D, .andn g { fn := 0, c := 0, b := 7, a := 6, d := 5 }), (0xE30B30E, .shl g { fn := 0, c := 0, b := 7, a := 6, d := 5 }),
    (0xE30B30F, .shr g { fn := 0, c := 0, b := 7, a := 6, d := 5 }), (0xE30B310, .sra g { fn := 0, c := 0, b := 7, a := 6, d := 5 }),
    (0xE30B311, .minR g { fn := 0, c := 0, b := 7, a := 6, d := 5 }), (0xE30B312, .maxR g { fn := 0, c := 0, b := 7, a := 6, d := 5 }),
    (0xE30B313, .minu g { fn := 0, c := 0, b := 7, a := 6, d := 5 }), (0xE30B314, .maxu g { fn := 0, c := 0, b := 7, a := 6, d := 5 }),
    (0x30B315, .clz g { fn := 0, c := 0, b := 0, a := 6, d := 5 }), (0x30B316, .ctz g { fn := 0, c := 0, b := 0, a := 6, d := 5 }),
    (0x30B317, .popc g { fn := 0, c := 0, b := 0, a := 6, d := 5 }), (0xA00E30B318, .ext g { fn := 5, c := 0, b := 7, a := 6, d := 5 })] = true := by decide +kernel

theorem test_decode_SA_2 : reads (fun w => decS w 0 0)
   [(0x48E30B319, .sel g { fn := 0, c := 9, b := 7, a := 6, d := 5 }), (0xA00E30B31A, .cmp g { fn := 5, c := 0, b := 7, a := 6, d := 5 }),
    (0xA00E30B31B, .plog g { fn := 5, c := 0, b := 7, a := 6, d := 5 }), (0x48E30B31C, .maddr g { fn := 0, c := 9, b := 7, a := 6, d := 5 }),
    (0x30B370, .wlnr g { fn := 0, c := 0, b := 0, a := 6, d := 5 }), (0xA00030B371, .rgalloc g { fn := 5, c := 0, b := 0, a := 6, d := 5 }),
    (0xA000001372, .rgfree g { fn := 5, c := 0, b := 0, a := 0, d := 0 }), (0xA000001373, .sbwait g { fn := 5, c := 0, b := 0, a := 0, d := 0 }),
    (0xA000001374, .sbpub g { fn := 5, c := 0, b := 0, a := 0, d := 0 }), (0xA000301375, .trec g { fn := 5, c := 0, b := 0, a := 6, d := 0 }),
    (0xA000301376, .hlatArm g { fn := 5, c := 0, b := 0, a := 6, d := 0 }), (0x2800E00B376, .hlatCnt g { fn := 20, c := 0, b := 7, a := 0, d := 5 }),
    (0x4A00E00B376, .hlatPre g { fn := 37, c := 0, b := 7, a := 0, d := 5 }), (0x6A00000B376, .hlatOut g { fn := 53, c := 0, b := 0, a := 0, d := 5 }),
    (0x8A00000B376, .hlatTot g { fn := 69, c := 0, b := 0, a := 0, d := 5 }), (0x1377, .opendDone g { fn := 0, c := 0, b := 0, a := 0, d := 0 }),
    (0x2000001377, .opendCancel g { fn := 1, c := 0, b := 0, a := 0, d := 0 }),
    (0x4000001377, .opendRepeat g { fn := 2, c := 0, b := 0, a := 0, d := 0 })] = true := by decide +kernel

theorem test_decode_SI : reads (fun w => decS w 0 0)
   [(0x5030B320, .addi g { imm := 5, fn := 0, a := 6, d := 5 }), (0x5030B321, .andi g { imm := 5, fn := 0, a := 6, d := 5 }),
    (0x5030B322, .ori g { imm := 5, fn := 0, a := 6, d := 5 }), (0x5030B323, .xori g { imm := 5, fn := 0, a := 6, d := 5 }),
    (0x5030B324, .shli g { imm := 5, fn := 0, a := 6, d := 5 }), (0x5030B325, .shri g { imm := 5, fn := 0, a := 6, d := 5 }),
    (0x5030B326, .srai g { imm := 5, fn := 0, a := 6, d := 5 }), (0x5A30B327, .cmpi g { imm := 5, fn := 5, a := 6, d := 5 }),
    (0x5000B328, .li g { imm := 5, fn := 0, a := 0, d := 5 }), (0x5030B329, .lih g { imm := 5, fn := 0, a := 6, d := 5 }),
    (0x5630B32A, .movk g { imm := 5, fn := 3, a := 6, d := 5 })] = true := by decide +kernel

theorem test_decode_SC : reads (fun w => decS w 0 0)
   [(0x50001330, .br g { imm := 5, fn := 0, b := 0, a := 0 }), (0x5000D331, .jmp g { imm := 5, fn := 0, b := 0, a := 6 }),
    (0x50001332, .call g { imm := 5, fn := 0, b := 0, a := 0 }), (0x1333, .ret g { imm := 0, fn := 0, b := 0, a := 0 }),
    (0x5A001334, .mark g { imm := 5, fn := 5, b := 0, a := 0 }), (0x5A381335, .lset g { imm := 5, fn := 5, b := 7, a := 0 }),
    (0x5A38D336, .lstr g { imm := 5, fn := 5, b := 7, a := 6 }), (0x1337, .exitE g { imm := 0, fn := 0, b := 0, a := 0 }),
    (0x52001337, .exitS g { imm := 5, fn := 1, b := 0, a := 0 }), (0x54001337, .exitN g { imm := 5, fn := 2, b := 0, a := 0 }),
    (0x50001338, .trap g { imm := 5, fn := 0, b := 0, a := 0 }), (0x50001339, .brk g { imm := 5, fn := 0, b := 0, a := 0 }),
    (0x133A, .hret g { imm := 0, fn := 0, b := 0, a := 0 }), (0x200133A, .hretSkip g { imm := 0, fn := 1, b := 0, a := 0 }),
    (0x133B, .phase g { imm := 0, fn := 0, b := 0, a := 0 }), (0x5000133C, .preempt g { imm := 5, fn := 0, b := 0, a := 0 }),
    (0x5000133D, .gait g { imm := 5, fn := 0, b := 0, a := 0 }), (0xD33E, .chk g { imm := 0, fn := 0, b := 0, a := 6 }),
    (0x1341, .cinchZ g { imm := 0, fn := 0, b := 0, a := 0 })] = true := by decide +kernel

theorem test_decode_SM : reads (fun w => decS w 0 0)
   [(0x50C30B350, .ld g { imm := 5, h := 0, sx := true, sz := 2, a := 6, d := 5 }),
    (0x50C30B351, .ldS g { imm := 5, h := 0, sx := true, sz := 2, a := 6, d := 5 }),
    (0x50630B352, .st g { imm := 5, h := 0, sx := false, sz := 3, a := 6, d := 5 }),
    (0x50C30B353, .ldsp g { imm := 5, h := 0, sx := true, sz := 2, a := 6, d := 5 }),
    (0x50630B354, .stsp g { imm := 5, h := 0, sx := false, sz := 3, a := 6, d := 5 }),
    (0x5B0001355, .advc g { imm := 5, h := 11, sx := false, sz := 0, a := 0, d := 0 }),
    (0x5B0001356, .advp g { imm := 5, h := 11, sx := false, sz := 0, a := 0, d := 0 }),
    (0x5B0001357, .waitc g { imm := 5, h := 11, sx := false, sz := 0, a := 0, d := 0 }),
    (0x5B0001358, .waitp g { imm := 5, h := 11, sx := false, sz := 0, a := 0, d := 0 }),
    (0xB0301359, .hset g { imm := 0, h := 11, sx := false, sz := 0, a := 6, d := 0 }),
    (0xB000B35A, .hget g { imm := 0, h := 11, sx := false, sz := 0, a := 0, d := 5 })] = true := by decide +kernel

theorem test_decode_SY : reads (fun w => decS w 0 0)
   [(0x6A000E30B360, .amoSwap g { sys := 0, sz := 3, scope := 5, aop := 0, c := 0, b := 7, a := 6, d := 5 }),
    (0x6A200E30B360, .amoAdd g { sys := 0, sz := 3, scope := 5, aop := 1, c := 0, b := 7, a := 6, d := 5 }),
    (0x6A400E30B360, .amoAnd g { sys := 0, sz := 3, scope := 5, aop := 2, c := 0, b := 7, a := 6, d := 5 }),
    (0x6A600E30B360, .amoOr g { sys := 0, sz := 3, scope := 5, aop := 3, c := 0, b := 7, a := 6, d := 5 }),
    (0x6A800E30B360, .amoXor g { sys := 0, sz := 3, scope := 5, aop := 4, c := 0, b := 7, a := 6, d := 5 }),
    (0x6AA00E30B360, .amoMin g { sys := 0, sz := 3, scope := 5, aop := 5, c := 0, b := 7, a := 6, d := 5 }),
    (0x6AC00E30B360, .amoMax g { sys := 0, sz := 3, scope := 5, aop := 6, c := 0, b := 7, a := 6, d := 5 }),
    (0x6AE00E30B360, .amoMinu g { sys := 0, sz := 3, scope := 5, aop := 7, c := 0, b := 7, a := 6, d := 5 }),
    (0x6B000E30B360, .amoMaxu g { sys := 0, sz := 3, scope := 5, aop := 8, c := 0, b := 7, a := 6, d := 5 }),
    (0x4B200E30B360, .amoFadd g { sys := 0, sz := 2, scope := 5, aop := 9, c := 0, b := 7, a := 6, d := 5 }),
    (0x6A048E30B361, .cas g { sys := 0, sz := 3, scope := 5, aop := 0, c := 9, b := 7, a := 6, d := 5 }),
    (0x60000E301362, .cupdAdd g { sys := 0, sz := 3, scope := 0, aop := 0, c := 0, b := 7, a := 6, d := 0 }),
    (0x40200E301362, .cupdFadd g { sys := 0, sz := 2, scope := 0, aop := 1, c := 0, b := 7, a := 6, d := 0 }),
    (0x60400E301362, .cupdMin g { sys := 0, sz := 3, scope := 0, aop := 2, c := 0, b := 7, a := 6, d := 0 }),
    (0x60600E301362, .cupdMax g { sys := 0, sz := 3, scope := 0, aop := 3, c := 0, b := 7, a := 6, d := 0 }),
    (0x60800E301362, .cupdOr g { sys := 0, sz := 3, scope := 0, aop := 4, c := 0, b := 7, a := 6, d := 0 }),
    (0xA0000001363, .fence g { sys := 0, sz := 0, scope := 5, aop := 0, c := 0, b := 0, a := 0, d := 0 }),
    (0x75080480001364, .barcfg g { sys := 117, sz := 0, scope := 4, aop := 0, c := 9, b := 0, a := 0, d := 0 }),
    (0x480001365, .bararr g { sys := 0, sz := 0, scope := 0, aop := 0, c := 9, b := 0, a := 0, d := 0 }),
    (0x480001366, .barwait g { sys := 0, sz := 0, scope := 0, aop := 0, c := 9, b := 0, a := 0, d := 0 }),
    (0x1367, .sstep g { sys := 0, sz := 0, scope := 0, aop := 0, c := 0, b := 0, a := 0, d := 0 }),
    (0x7500000000B368, .srd g { sys := 117, sz := 0, scope := 0, aop := 0, c := 0, b := 0, a := 0, d := 5 }),
    (0x75000000301369, .swr g { sys := 117, sz := 0, scope := 0, aop := 0, c := 0, b := 0, a := 6, d := 0 })] = true := by decide +kernel

theorem test_decode_VA_1 : reads (fun w => decV w 0 0)
   [(0x195600E30B301, .vadd g { fn := 1, swz := true, part := 2, ty := 5, msk := 3, c := 0, b := 7, a := 6, d := 5 }),
    (0x195600E30B302, .vsub g { fn := 1, swz := true, part := 2, ty := 5, msk := 3, c := 0, b := 7, a := 6, d := 5 }),
    (0x91600E30B303, .vmul g { fn := 0, swz := true, part := 2, ty := 1, msk := 3, c := 0, b := 7, a := 6, d := 5 }),
    (0x91648E30B304, .vfma g { fn := 0, swz := true, part := 2, ty := 1, msk := 3, c := 9, b := 7, a := 6, d := 5 }),
    (0x91648E30B305, .vfms g { fn := 0, swz := true, part := 2, ty := 1, msk := 3, c := 9, b := 7, a := 6, d := 5 }),
    (0x91648E30B306, .vfnma g { fn := 0, swz := true, part := 2, ty := 1, msk := 3, c := 9, b := 7, a := 6, d := 5 }),
    (0x195600E30B307, .vmin g { fn := 1, swz := true, part := 2, ty := 5, msk := 3, c := 0, b := 7, a := 6, d := 5 }),
    (0x195600E30B308, .vmax g { fn := 1, swz := true, part := 2, ty := 5, msk := 3, c := 0, b := 7, a := 6, d := 5 }),
    (0x115600030B309, .vabs g { fn := 1, swz := false, part := 2, ty := 5, msk := 3, c := 0, b := 0, a := 6, d := 5 }),
    (0x115600030B30A, .vneg g { fn := 1, swz := false, part := 2, ty := 5, msk := 3, c := 0, b := 0, a := 6, d := 5 }),
    (0x91600E30B30B, .vdiv g { fn := 0, swz := true, part := 2, ty := 1, msk := 3, c := 0, b := 7, a := 6, d := 5 }),
    (0x11600030B30C, .vsqrt g { fn := 0, swz := false, part := 2, ty := 1, msk := 3, c := 0, b := 0, a := 6, d := 5 }),
    (0x11600030B30D, .vrsq g { fn := 0, swz := false, part := 2, ty := 1, msk := 3, c := 0, b := 0, a := 6, d := 5 }),
    (0x11600030B30E, .vexp2 g { fn := 0, swz := false, part := 2, ty := 1, msk := 3, c := 0, b := 0, a := 6, d := 5 }),
    (0x11600030B30F, .vlog2 g { fn := 0, swz := false, part := 2, ty := 1, msk := 3, c := 0, b := 0, a := 6, d := 5 }),
    (0x513600030B310, .vcvt g { fn := 5, swz := false, part := 2, ty := 3, msk := 3, c := 0, b := 0, a := 6, d := 5 }),
    (0x207600E30B311, .vpack g { fn := 2, swz := false, part := 0, ty := 7, msk := 3, c := 0, b := 7, a := 6, d := 5 }),
    (0x501600030B312, .vunpk g { fn := 5, swz := false, part := 0, ty := 1, msk := 3, c := 0, b := 0, a := 6, d := 5 }),
    (0x91600E30B313, .vand g { fn := 0, swz := true, part := 2, ty := 1, msk := 3, c := 0, b := 7, a := 6, d := 5 }),
    (0x91600E30B314, .vor g { fn := 0, swz := true, part := 2, ty := 1, msk := 3, c := 0, b := 7, a := 6, d := 5 }),
    (0x91600E30B315, .vxor g { fn := 0, swz := true, part := 2, ty := 1, msk := 3, c := 0, b := 7, a := 6, d := 5 }),
    (0x95600E30B316, .vshl g { fn := 0, swz := true, part := 2, ty := 5, msk := 3, c := 0, b := 7, a := 6, d := 5 }),
    (0x95600E30B317, .vshr g { fn := 0, swz := true, part := 2, ty := 5, msk := 3, c := 0, b := 7, a := 6, d := 5 }),
    (0x95600E30B318, .vsra g { fn := 0, swz := true, part := 2, ty := 5, msk := 3, c := 0, b := 7, a := 6, d := 5 })] = true := by decide +kernel

theorem test_decode_VA_2 : reads (fun w => decV w 0 0)
   [(0x591600E30B319, .vcmp g { fn := 5, swz := true, part := 2, ty := 1, msk := 3, c := 0, b := 7, a := 6, d := 5 }),
    (0x91608E30B31A, .vsel g { fn := 0, swz := true, part := 2, ty := 1, msk := 3, c := 1, b := 7, a := 6, d := 5 }),
    (0x515600030B31B, .vred g { fn := 5, swz := false, part := 2, ty := 5, msk := 3, c := 0, b := 0, a := 6, d := 5 }),
    (0x515600030B31C, .vscan g { fn := 5, swz := false, part := 2, ty := 5, msk := 3, c := 0, b := 0, a := 6, d := 5 }),
    (0x11600030B31D, .vclass g { fn := 0, swz := false, part := 2, ty := 1, msk := 3, c := 0, b := 0, a := 6, d := 5 }),
    (0x11600030B31E, .vterm g { fn := 0, swz := false, part := 2, ty := 1, msk := 3, c := 0, b := 0, a := 6, d := 5 }),
    (0x207600030B31F, .vqsc g { fn := 2, swz := false, part := 0, ty := 7, msk := 3, c := 0, b := 0, a := 6, d := 5 }),
    (0x90F600E30B31F, .vqscEnc g { fn := 9, swz := false, part := 1, ty := 7, msk := 3, c := 0, b := 7, a := 6, d := 5 }),
    (0x11600030B320, .vbcst g { fn := 0, swz := false, part := 2, ty := 1, msk := 3, c := 0, b := 0, a := 6, d := 5 }),
    (0x111600E30B320, .vbcstLane g { fn := 1, swz := false, part := 2, ty := 1, msk := 3, c := 0, b := 7, a := 6, d := 5 }),
    (0x111000E30B321, .vmovs g { fn := 1, swz := false, part := 2, ty := 1, msk := 0, c := 0, b := 7, a := 6, d := 5 }),
    (0x11000E30B322, .vins g { fn := 0, swz := false, part := 2, ty := 1, msk := 0, c := 0, b := 7, a := 6, d := 5 }),
    (0x115600E30B323, .viota g { fn := 1, swz := false, part := 2, ty := 5, msk := 3, c := 0, b := 7, a := 6, d := 5 }),
    (0x103648E30B324, .vshuf g { fn := 1, swz := false, part := 0, ty := 3, msk := 3, c := 9, b := 7, a := 6, d := 5 }),
    (0x103600E30B325, .vrot g { fn := 1, swz := false, part := 0, ty := 3, msk := 3, c := 0, b := 7, a := 6, d := 5 }),
    (0x500000E30B326, .vmskLog g { fn := 5, swz := false, part := 0, ty := 0, msk := 0, c := 0, b := 7, a := 6, d := 5 }),
    (0x8030B326, .vmskSet g { fn := 0, swz := false, part := 0, ty := 0, msk := 0, c := 1, b := 0, a := 6, d := 5 }),
    (0x10030B326, .vmskFirst g { fn := 0, swz := false, part := 0, ty := 0, msk := 0, c := 2, b := 0, a := 6, d := 5 }),
    (0x18030B326, .vmskGet g { fn := 0, swz := false, part := 0, ty := 0, msk := 0, c := 3, b := 0, a := 6, d := 5 }),
    (0x6000301327, .vchk g { fn := 0, swz := false, part := 0, ty := 0, msk := 3, c := 0, b := 0, a := 6, d := 0 })] = true := by decide +kernel

theorem test_decode_VR : reads (fun w => decV w 0 0)
   [(0x501600AD0B330, .vldh g { fn := 5, swz := false, part := 0, ty := 1, msk := 3, rs := 346, d := 5 }),
    (0x501600AD0B331, .vsth g { fn := 5, swz := false, part := 0, ty := 1, msk := 3, rs := 346, d := 5 })] = true := by decide +kernel

theorem test_decode_VS : reads (fun w => decV w 0 0)
   [(0x5600030B332, .vlds g { imm := 5, msk := 3, a := 6, d := 5 }), (0x5600030B333, .vsts g { imm := 5, msk := 3, a := 6, d := 5 })] = true := by decide +kernel

theorem test_decode_MF : reads (fun w => decM w 0 0)
   [(0xD301, .mldw g { aux := 0, row := 0, t := false, b := 0, a := 6 }), (0x1302, .mswap g { aux := 0, row := 0, t := false, b := 0, a := 0 }),
    (0x62638D303, .mpush g { aux := 3, row := 9, t := true, b := 7, a := 6 }),
    (0x2A2638D304, .mdrain g { aux := 21, row := 9, t := true, b := 7, a := 6 }),
    (0x2001305, .mzero g { aux := 0, row := 0, t := true, b := 0, a := 0 }), (0x200001306, .mhem g { aux := 1, row := 0, t := false, b := 0, a := 0 }),
    (0x38D307, .mtclr g { aux := 0, row := 0, t := false, b := 7, a := 6 }), (0x200D310, .mlu g { aux := 0, row := 0, t := true, b := 0, a := 6 }),
    (0x200D311, .mchol g { aux := 0, row := 0, t := true, b := 0, a := 6 }), (0x60200D312, .mqr g { aux := 3, row := 0, t := true, b := 0, a := 6 }),
    (0x60238D313, .mtrsm g { aux := 3, row := 0, t := true, b := 7, a := 6 }), (0x2001314, .mperm g { aux := 0, row := 0, t := true, b := 0, a := 0 }),
    (0x20000D315, .mres g { aux := 1, row := 0, t := false, b := 0, a := 6 }), (0x1316, .mfwait g { aux := 0, row := 0, t := false, b := 0, a := 0 })] = true := by decide +kernel

theorem test_decode_XF : reads (fun w => decX w 0 0)
   [(0x2B0818000C097301, .xcopy g { imm := 5, tag := 6, fn := 1, fmt := 3, c := 0, b := 0, a := 6, ofs := 4, h := 11 }),
    (0x2B0819238C097302, .xcopys g { imm := 5, tag := 6, fn := 1, fmt := 3, c := 9, b := 7, a := 6, ofs := 4, h := 11 }),
    (0x2B0018000C097303, .xstore g { imm := 5, tag := 6, fn := 0, fmt := 3, c := 0, b := 0, a := 6, ofs := 4, h := 11 }),
    (0x30000000C001304, .xpub g { imm := 0, tag := 6, fn := 0, fmt := 0, c := 0, b := 0, a := 6, ofs := 0, h := 0 }),
    (0x30800000C001304, .xpubNow g { imm := 0, tag := 6, fn := 1, fmt := 0, c := 0, b := 0, a := 6, ofs := 0, h := 0 }),
    (0x30000000C001305, .xdrop g { imm := 0, tag := 6, fn := 0, fmt := 0, c := 0, b := 0, a := 6, ofs := 0, h := 0 }),
    (0x30019238C001306, .xwld g { imm := 0, tag := 6, fn := 0, fmt := 3, c := 9, b := 7, a := 6, ofs := 0, h := 0 }),
    (0x30019200C097307, .xgath g { imm := 0, tag := 6, fn := 0, fmt := 3, c := 9, b := 0, a := 6, ofs := 4, h := 11 }),
    (0x2B0018000C097308, .xpermTr g { imm := 5, tag := 6, fn := 0, fmt := 3, c := 0, b := 0, a := 6, ofs := 4, h := 11 }),
    (0x2B0818000C097308, .xpermIdx g { imm := 5, tag := 6, fn := 1, fmt := 3, c := 0, b := 0, a := 6, ofs := 4, h := 11 }),
    (0x31800000C001309, .xftl g { imm := 0, tag := 6, fn := 3, fmt := 0, c := 0, b := 0, a := 6, ofs := 0, h := 0 }),
    (0x2B1800038009730A, .xfte g { imm := 5, tag := 6, fn := 3, fmt := 0, c := 0, b := 7, a := 0, ofs := 4, h := 11 }),
    (0x2B0000038009730B, .xqnt g { imm := 5, tag := 6, fn := 0, fmt := 0, c := 0, b := 7, a := 0, ofs := 4, h := 11 }),
    (0x2B0800038C09730B, .xqntFix g { imm := 5, tag := 6, fn := 1, fmt := 0, c := 0, b := 7, a := 6, ofs := 4, h := 11 }),
    (0x30018038009730C, .xhist g { imm := 0, tag := 6, fn := 0, fmt := 3, c := 0, b := 7, a := 0, ofs := 4, h := 11 }),
    (0x32800000000130D, .xhlat g { imm := 0, tag := 6, fn := 5, fmt := 0, c := 0, b := 0, a := 0, ofs := 0, h := 0 }),
    (0x30000038C00130E, .xdfnc g { imm := 0, tag := 6, fn := 0, fmt := 0, c := 0, b := 7, a := 6, ofs := 0, h := 0 }),
    (0x280000000000130F, .xwait g { imm := 5, tag := 0, fn := 0, fmt := 0, c := 0, b := 0, a := 0, ofs := 0, h := 0 }),
    (0x2B0818000C097310, .xfill g { imm := 5, tag := 6, fn := 1, fmt := 3, c := 0, b := 0, a := 6, ofs := 4, h := 11 })] = true := by decide +kernel
theorem test_decode_vanik_control : vanik
   [([0x00], .gend), ([0x01, 0x7F], .gjmp (-64)), ([0x02, 0x0B, 0x08], .gbr 3 true 4), ([0x03, 0x80, 0x01], .gcall 64), ([0x04], .gret),
    ([0x05, 0x09, 0x0A, 0x10], .gloop 9 (.reg 10) 8), ([0x06], .gendl), ([0x07, 0x10], .traph 8), ([0x08, 0x00], .trapretRvpc),
    ([0x08, 0x01], .trapretReexec), ([0x08, 0x02, 0x05], .trapretTarget (.reg 5)), ([0x09, 0x0C, 0x81, 0x02], .fmtset 12 257),
    ([0x0A, 0x5B], .fmtloop 3 true 5)] = true := by decide +kernel

theorem test_decode_vanik_shape : vanik
   [([0x10, 0x3F, 0x03], .nli 63 (-2)), ([0x11, 0x00, 1, 2, 3], .naluAdd 1 (.reg 2) (.reg 3)), ([0x11, 0x01, 1, 2, 0x80, 0x05], .naluSub 1 (.reg 2) (.imm (-3))),
    ([0x11, 0x02, 1, 2, 3], .naluMul 1 (.reg 2) (.reg 3)), ([0x11, 0x03, 1, 2, 3], .naluFloordiv 1 (.reg 2) (.reg 3)),
    ([0x11, 0x04, 1, 2, 3], .naluCeildiv 1 (.reg 2) (.reg 3)), ([0x11, 0x05, 1, 2, 3], .naluMin 1 (.reg 2) (.reg 3)),
    ([0x11, 0x06, 1, 2, 3], .naluMax 1 (.reg 2) (.reg 3)), ([0x11, 0x07, 1, 2, 3], .naluAnd 1 (.reg 2) (.reg 3)),
    ([0x11, 0x08, 1, 2, 3], .naluOr 1 (.reg 2) (.reg 3)), ([0x11, 0x09, 1, 2, 3], .naluShl 1 (.reg 2) (.reg 3)),
    ([0x11, 0x0A, 1, 2, 3], .naluShr 1 (.reg 2) (.reg 3)), ([0x12, 0x2B, 6, 7], .ncmp 3 5 (.reg 6) (.reg 7)),
    ([0x13, 0x49, 0x02, 4], .nld 9 true 2 none (.reg 4)), ([0x13, 0x09, 0x07, 0xC8, 4], .nld 9 false 3 (some 200) (.reg 4)),
    ([0x14, 0x01, 4, 5], .nst 1 (.reg 4) (.reg 5)), ([0x15, 0x07, 0x0A, 0x63], .ndim 7 2 1 0x63), ([0x15, 0x07, 0x1F, 0x00], .ndimCsw 7),
    ([0x16, 0x06, 0x04], .nmb 6 (.reg 4))] = true := by decide +kernel

theorem test_decode_vanik_handles : vanik
   [([0x20, 0x11, 0x01, 3], .tdecl 0x11 true (.reg 3)), ([0x21, 0x12, 0x11, 0x02, 3, 4], .tview 0x12 0x11 2 (.reg 3) (.reg 4)), ([0x22, 0x11], .talloc 0x11),
    ([0x23, 0x11], .tfree 0x11), ([0x24, 0x00, 0x11], .rfence 0x11), ([0x24, 0x01], .rfenceAll), ([0x25, 0x12, 0x11], .wsload 0x12 0x11),
    ([0x26, 0x05, 0x06], .kload 5 (.reg 6)), ([0x27, 0x40, 0xFF, 0xFF, 0xFF, 0xFF, 0x0F, 7], .kbind 0x40 0xFFFFFFFF (.reg 7)),
    ([0x30, 0x01], .fuse true), ([0x31], .fusend), ([0x90, 0x00, 3, 4], .signalSet (.reg 3) (.reg 4)), ([0x90, 0x01, 3, 4], .signalAdd (.reg 3) (.reg 4)),
    ([0x91, 0x02, 0x09, 3, 4], .waitsig 2 9 (.reg 3) (.reg 4)), ([0x92, 0x05], .opfence 5)] = true := by decide +kernel

theorem test_decode_vanik_operators : vanik
   [([0x40, 1, 2, 3, 0x01], .matmul 1 2 3 true 0), ([0x40, 1, 2, 3, 0x72], .matmulGrp 1 2 3 false 7), ([0x41, 1, 2, 3, 0x05], .ewise 1 2 3 5),
    ([0x42, 1, 2, 0x0D], .unary 1 2 13 (.imm 0)), ([0x42, 1, 2, 0x0F, 6], .unary 1 2 15 (.reg 6)), ([0x43, 1, 2, 3, 0x01, 4, 6], .norm 1 2 3 true (some 4) (.reg 6)),
    ([0x43, 1, 2, 3, 0x02, 6], .norm 1 2 3 false none (.reg 6)), ([0x44, 1, 2, 0x01], .softmax 1 2 true), ([0x45, 1, 2, 0x2B], .reduce 1 2 3 5),
    ([0x46, 1, 2, 3, 4, 0x01, 6], .attn 1 2 3 4 true (.reg 6)), ([0x47, 1, 2, 3, 0x0D], .gather 1 2 3 5 true), ([0x48, 1, 2, 3, 0x35], .scatter 1 2 3 5 2 true),
    ([0x49, 1, 2, 3, 6], .topk 1 2 3 (.reg 6)), ([0x4A, 1, 2, 0x09], .route 1 2 9), ([0x4B, 1, 2], .castT 1 2), ([0x4C, 1, 2, 0x00], .quant 1 2),
    ([0x4C, 1, 2, 0x01, 6], .quantFix 1 2 (.reg 6)), ([0x4D, 1, 2], .dequant 1 2), ([0x4E, 1, 2, 0x88, 0x01], .transp 1 2 0x88), ([0x4F, 1, 2, 3, 0x05], .concat 1 2 3 5),
    ([0x50, 1, 2], .copyT 1 2), ([0x51, 1, 6], .fillT 1 (.reg 6)), ([0x52, 1, 2, 3, 0x01, 6], .luf 1 2 3 (some (.reg 6))), ([0x53, 1, 2, 0x00], .cholf 1 2 none),
    ([0x54, 1, 2, 3], .qrf 1 2 3), ([0x55, 1, 2, 0x05], .trsm 1 2 true false true)] = true := by decide +kernel

theorem test_decode_vanik_collectives : vanik
   [([0x80, 1, 2, 0x02], .allred 1 2 2), ([0x81, 1, 2], .allgath 1 2), ([0x82, 1, 2, 0x01], .redscat 1 2 1), ([0x83, 1, 2], .alltoall 1 2),
    ([0x84, 1, 6, 0xFF, 0xFF, 0x03], .sendT 1 (.reg 6) 0xFFFF), ([0x85, 1, 6, 0x07], .recv 1 (.reg 6) 7),
    ([0xFF, 0x21, 0x23, 0x01, 1, 2, 3, 5, 0x80, 0x01], .opx 0x21 1 [1, 2, 3] [.reg 5, .imm (-1)])] = true := by decide +kernel

/-- R227: where decoding stops: an unassigned opcode, a reserved field value, an overlong immediate, bytes that end early, the 32-byte limit. -/
theorem test_decode_vanik_refuses :
    decodeVanik [0x0B] = .error (.illegal 0 false) ∧ decodeVanik [0x08, 0x03] = .error (.illegal 1 false) ∧ decodeVanik [0x01, 0x80, 0x00] = .error (.illegal 2 false) ∧
    decodeVanik [0x11, 0x0B] = .error (.illegal 1 false) ∧ decodeVanik [0x40, 1, 2] = .error (.short 3) ∧
    decodeVanik (0xFF :: 0 :: 0x48 :: 0 :: (List.replicate 8 0 ++ List.replicate 10 0x80 ++ 0x01 :: List.replicate 10 0x80)) = .error (.illegal 32 true) :=
  ⟨rfl, rfl, rfl, rfl, rfl, rfl⟩

/-! ## Well-formedness: an ill-formed term for each check -/

/-- A field that the form leaves zero, a reserved FN, an immediate beyond its field's values, a level beyond 5 or without a qualifier (R64 to R69). -/
theorem test_wf_refuses_S : [.add g { fn := 1, c := 0, b := 7, a := 6, d := 5 }, .add g { fn := 0, c := 1, b := 7, a := 6, d := 5 }, .clz g { fn := 0, c := 0, b := 1, a := 6, d := 5 },
    .ext g { fn := 128, c := 0, b := 7, a := 6, d := 5 }, .sel g { fn := 0, c := 16, b := 7, a := 6, d := 5 }, .cmp g { fn := 6, c := 0, b := 7, a := 6, d := 5 },
    .cmp g { fn := 5, c := 0, b := 7, a := 6, d := 16 }, .plog g { fn := 16, c := 0, b := 7, a := 6, d := 5 }, .shli g { imm := 64, fn := 0, a := 6, d := 5 },
    .movk g { imm := 65536, fn := 0, a := 6, d := 5 }, .movk g { imm := 0, fn := 4, a := 6, d := 5 }, .mark g { imm := 65, fn := 1, b := 0, a := 0 }, .mark g { imm := 0, fn := 1, b := 0, a := 0 },
    .mark g { imm := 1, fn := 7, b := 0, a := 0 }, .lset g { imm := 0, fn := 6, b := 0, a := 6 }, .lset g { imm := 0, fn := 0, b := 9, a := 0 }, .lstr g { imm := 16, fn := 0, b := 7, a := 0 },
    .exitS g { imm := 0, fn := 0, b := 0, a := 0 }, .preempt g { imm := 65536, fn := 0, b := 0, a := 0 }, .ld g { imm := 0, h := 0, sx := true, sz := 3, a := 6, d := 5 },
    .st g { imm := 0, h := 1, sx := false, sz := 3, a := 6, d := 5 }, .amoAdd g { sys := 0, sz := 1, scope := 5, aop := 1, c := 0, b := 7, a := 6, d := 5 },
    .amoAdd g { sys := 0, sz := 3, scope := 9, aop := 1, c := 0, b := 7, a := 6, d := 5 }, .amoAdd g { sys := 0, sz := 3, scope := 5, aop := 2, c := 0, b := 7, a := 6, d := 5 },
    .cupdAdd g { sys := 0, sz := 3, scope := 1, aop := 0, c := 0, b := 7, a := 6, d := 0 }, .bararr g { sys := 0, sz := 0, scope := 0, aop := 0, c := 32, b := 0, a := 0, d := 0 },
    .rgalloc g { fn := 12, c := 0, b := 0, a := 6, d := 5 }, .hlatCnt g { fn := 0x20, c := 0, b := 7, a := 0, d := 5 }, .opendDone g { fn := 1, c := 0, b := 0, a := 0, d := 0 },
    .add ⟨3, true, 1, 6⟩ { fn := 0, c := 0, b := 7, a := 6, d := 5 }, .add ⟨3, true, 0, 1⟩ { fn := 0, c := 0, b := 7, a := 6, d := 5 }].all
    (fun i : Instr => !i.wf) = true := by decide +kernel

/-- PART above E, PART or SWZ of a 32-bit type, a type the form does not take, types that do not pair, VMSK's zero fields (R72, R149 to R160). -/
theorem test_wf_refuses_V : [.vadd g { fn := 0, swz := false, part := 3, ty := 1, msk := 3, c := 0, b := 7, a := 6, d := 5 }, .vadd g { fn := 0, swz := true, part := 0, ty := 0, msk := 3, c := 0, b := 7, a := 6, d := 5 },
    .vadd g { fn := 2, swz := false, part := 0, ty := 3, msk := 3, c := 0, b := 7, a := 6, d := 5 }, .vabs g { fn := 0, swz := true, part := 0, ty := 1, msk := 3, c := 0, b := 0, a := 6, d := 5 },
    .vdiv g { fn := 0, swz := false, part := 0, ty := 3, msk := 3, c := 0, b := 7, a := 6, d := 5 }, .vcvt g { fn := 0, swz := false, part := 0, ty := 7, msk := 3, c := 0, b := 0, a := 6, d := 5 },
    .vpack g { fn := 0, swz := false, part := 0, ty := 5, msk := 3, c := 0, b := 7, a := 6, d := 5 }, .vred g { fn := 3, swz := false, part := 1, ty := 5, msk := 3, c := 0, b := 0, a := 6, d := 5 },
    .vqscEnc g { fn := 9, swz := false, part := 2, ty := 7, msk := 3, c := 0, b := 7, a := 6, d := 5 }, .vmskSet g { fn := 0, swz := false, part := 0, ty := 0, msk := 1, c := 1, b := 0, a := 6, d := 5 },
    .vmskLog g { fn := 5, swz := false, part := 0, ty := 0, msk := 0, c := 0, b := 7, a := 8, d := 5 }, .vchk g { fn := 0, swz := false, part := 0, ty := 0, msk := 3, c := 0, b := 0, a := 6, d := 1 }].all
    (fun i : Instr => !i.wf) = true := by decide +kernel

/-- Unused M-slot and X-slot fields, reserved FN and IMM values (R74, R75, R198). -/
theorem test_wf_refuses_M_X : [.mswap g { aux := 0, row := 0, t := true, b := 0, a := 0 }, .mpush g { aux := 14, row := 9, t := true, b := 7, a := 6 }, .mdrain g { aux := 64, row := 64, t := true, b := 7, a := 6 },
    .mhem g { aux := 3, row := 0, t := false, b := 0, a := 0 }, .mtclr g { aux := 0, row := 0, t := false, b := 8, a := 6 }, .mqr g { aux := 16, row := 0, t := true, b := 0, a := 6 },
    .mtrsm g { aux := 8, row := 0, t := true, b := 7, a := 6 }, .mres g { aux := 2, row := 0, t := false, b := 0, a := 6 },
    .xcopy g { imm := 5, tag := 6, fn := 2, fmt := 3, c := 0, b := 0, a := 6, ofs := 4, h := 11 }, .xfte g { imm := 0x1005, tag := 6, fn := 3, fmt := 0, c := 0, b := 7, a := 0, ofs := 4, h := 11 },
    .xftl g { imm := 0, tag := 6, fn := 4, fmt := 0, c := 0, b := 0, a := 6, ofs := 0, h := 0 }, .xwait g { imm := 0, tag := 0, fn := 0, fmt := 0, c := 0, b := 0, a := 0, ofs := 0, h := 0 },
    .xwait g { imm := 5, tag := 1, fn := 0, fmt := 0, c := 0, b := 0, a := 0, ofs := 0, h := 0 }].all (fun i : Instr => !i.wf) = true := by decide +kernel

/-- Reserved values of the Vanik field bytes and too many operands (R230, R256), and one that is not in its 32 bytes (R226). -/
theorem test_wf_refuses_vanik : ([.ncmp 6 0 (.reg 1) (.reg 2), .ewise 1 2 3 6, .unary 1 2 14 (.imm 0), .reduce 1 2 5 0, .reduce 1 2 0 6, .scatter 1 2 3 0 3 false, .allred 1 2 3, .redscat 1 2 3, .opfence 4,
    .opfence 9, .opx 0 2 [1] [], .opx 0 0 [] [.reg 1, .reg 1, .reg 1, .reg 1, .reg 1], .opx 0 0 [1, 1, 1, 1, 1, 1, 1, 1, 1] []].all (fun i : Instr => !i.wf)) = true ∧
    (Instr.opx 0 0 [1, 1, 1, 1, 1, 1, 1, 1] [.imm (1 <<< 63), .imm (1 <<< 63)]).fits = false := by decide +kernel

/-! ## The manual's own numbers -/

/-- R54: the two worked values of the term cap, 23 and 22 under BF16 with two terms are 24, and 200 under signed p4 with one term saturates at 128. -/
theorem test_term_cap : Fmt.bf16.rnd ⟨.rne, true, 2⟩ 0 (.fin false 23 0) = 0x41C0 ∧ Fmt.bf16.rnd ⟨.rne, true, 2⟩ 0 (.fin false 22 0) = 0x41C0 ∧
    (fmtOf 0x13).map (fun f => f.rnd ⟨.rne, true, 1⟩ 0 (.fin false 200 0)) = some 0x78 := by decide +kernel

/-- R59: the worked block: scale byte 0x82, codes 0x70, 0x45, 0xA4. -/
theorem test_block_scale :
    quantScale 0x13 0 ([.fin false 500 0, .fin false 13 0, .fin true 3 (-2)] ++ List.replicate 29 (.fin false 0 0)) = 0x82 ∧
    [Val.fin false 500 0, .fin false 13 0, .fin true 3 (-2)].map (quantCode 0 0x13 true 0x82 0) = [0x70, 0x45, 0xA4] := by decide +kernel

/-- R332, R333: the worked address: die 3, switch 0, channel 29, column 0x248, pseudo-channel 1, row 0x2468, bank group 2, bank 0; set 0x2A07A of BD3. -/
theorem test_one_address_to_one_bank :
    locKey 0 0x123456EB48 / 2 ^ 31 = 3 * 64 + 0 * 32 + 29 ∧ bankOf (locKey 0 0x123456EB48 % 2 ^ 31) = (0x248, 1, 0x2468, 2, 0) ∧
    mscHome (locKey 0 0x123456EB48 / 64 * 64) = some (3, 0x2A07A) := by decide +kernel


/-! ## Witnesses: a state and operands that meet the hypotheses of each statement together -/

/-- The guard of a slot that is always enabled. -/
def on : Guard := ⟨0, false, 0, 0⟩

/-- A kernel image with bundles at offsets 64 .. 447: a task routine of NOP bundles opens at 64, another at 384 (RS set). -/
def img : Img :=
  { num := 0, code := [(20, 0xC0), (21, 0x01), (65, 0x08), (385, 0x08)], size := 448, dies := 1, ofs := 0, sysv := false }

/-- A task on core 0. -/
def task : Task :=
  { osq := 0, inv := 0, wrec := 0, ord := 0, left := 0, idx := [0, 0, 0, 0, 0, 0], entry := 64, parked := false, frozen := false, stopping := none, exiting := false,
    arrived := none }

/-- A context on sequencer 0. -/
def ctx : Ctx := Ctx.create fetchCfg

/-- An invocation of it. -/
def inv : Inv :=
  { num := 0, uid := 0, stages := [], keep := false, inter := [], opcode := 0x40, opx := 0, vpc := 0x20000, fld := 0, args := [], opnds := [], nout := 0, ft := Vector.replicate 16 0x101, ftb := 0,
    mbox := Vector.replicate 8 0, sealed := false, img := some 0, area := 0x40000000, regions := Vector.replicate 16 none, nrec := 0, reps := 0, sstep := 0, opened := false, ended := false,
    cancel := false, aborted := false, latchW := none, latchR := none, coll := none, conc := [] }

/-- Core 0 runs the task at offset 96 of the image for an invocation of the context, changed by f. -/
def at0 (f : Core → Core) : State :=
  { ((State.reset.setCtx 0 { ctx with invs := [inv] }).modCore 0 (fun k => f { k with task := some task, fr := { k.fr with img := 0, pc := 96, rtn := 64 } })) with imgs := [img] }

/-- The same with a bundle in hand. -/
def in0 (f : Core → Core) : State := { at0 f with iss := { Issue.idle with bundle := true } }

/-- Scalar r holds v, poisoned where p says. -/
def sets (r : Fin 64) (v : Word) (p : Bool) (k : Core) : Core :=
  { k with fr := { k.fr with s := k.fr.s.set r v, sp := if p then k.fr.sp ||| (1#64 <<< r.val) else k.fr.sp } }

/-- A load is outstanding to scalar r. -/
def waits (r : BitVec 6) (k : Core) : Core := { k with fr := { k.fr with outs := [{ d := r, val := 1, psn := false, hnd := false }] } }

theorem issues_in0 (f : Core → Core) (h : (in0 f).enabled on = true) : Issues on (in0 f) := ⟨rfl, rfl, rfl, h⟩
theorem alone_at0 (f : Core → Core) (h : (at0 f).enabled on = true) : Alone on (at0 f) := ⟨rfl, h⟩

/-- SA fields d 5, a 6, b 7, with FN and C. -/
def sa (fn : BitVec 8) (c : BitVec 6) : SA := { fn := fn, c := c, b := 7, a := 6, d := 5 }
def sc (imm : BitVec 32) (fn : BitVec 3) (b a : BitVec 6) : SC := { imm := imm, fn := fn, b := b, a := a }

theorem witness_ScalarFormsPutTheirResultInFlight :
    (aluSays (.add on (sa 0 0))).isSome = true ∧ Issues on (in0 id) ∧ Clear (in0 id) 6 ∧ Clear (in0 id) 7 ∧ Clear (in0 id) 0 ∧
    Issues on (in0 (waits 6)) ∧ ((in0 (waits 6)).waits 6 || (in0 (waits 6)).waits 7 || (in0 (waits 6)).waits 0) = true :=
  ⟨rfl, issues_in0 _ rfl, rfl, rfl, rfl, issues_in0 _ rfl, rfl⟩

theorem witness_DivisionForms :
    (divSays (.div on (sa 0 0))).isSome = true ∧ Issues on (in0 (sets 7 1 false)) ∧ Clear (in0 (sets 7 1 false)) 6 ∧ Clear (in0 (sets 7 1 false)) 7 ∧ val (in0 (sets 7 1 false)) 7 ≠ 0 ∧
    Issues on (in0 id) ∧ val (in0 id) 7 = 0 ∧ psn (in0 id) 6 = false ∧ psn (in0 id) 7 = false ∧
    Issues on (in0 (sets 6 9 true)) ∧ val (in0 (sets 6 9 true)) 7 = 0 ∧ psn (in0 (sets 6 9 true)) 6 = true :=
  ⟨rfl, issues_in0 _ rfl, rfl, rfl, by decide +kernel, issues_in0 _ rfl, rfl, rfl, rfl, issues_in0 _ rfl, rfl, rfl⟩

theorem witness_PredicatesSelectsAndChecks :
    Issues on (in0 id) ∧ Clean (in0 id) 6 ∧ Clean (in0 id) 7 ∧ (sa 5 0).fn.toNat < 6 ∧ Issues on (in0 (sets 6 0 true)) ∧ Clear (in0 (sets 6 0 true)) 6 ∧ psn (in0 (sets 6 0 true)) 6 = true ∧
    Issues on (in0 (sets 7 0 true)) ∧ Clean (in0 (sets 7 0 true)) 6 ∧ Clear (in0 (sets 7 0 true)) 7 ∧ psn (in0 (sets 7 0 true)) 7 = true :=
  ⟨issues_in0 _ rfl, ⟨rfl, rfl⟩, ⟨rfl, rfl⟩, by decide, issues_in0 _ rfl, rfl, rfl, issues_in0 _ rfl, ⟨rfl, rfl⟩, rfl, rfl⟩

theorem witness_ResultsLandAtTheirLatency : (at0 id).cur = .core 0 ∧ ((at0 id).core 0).fr.fl = [] ∧ 1 ≤ 12 := ⟨rfl, rfl, by decide⟩

theorem witness_DisabledSlotsDoNothing : (Instr.add ⟨0, true, 0, 0⟩ (sa 0 0)).guard? = some ⟨0, true, 0, 0⟩ ∧ (in0 id).enabled ⟨0, true, 0, 0⟩ = false := ⟨rfl, rfl⟩

/-- Targets at the first and last bundle, before the code, at a routine's opening; the return stack with 0, 1 and 8 entries, its top inside and at a routine's opening; JMP to a multiple of 32,
inside and at a routine's opening, and to none. -/
theorem witness_TransfersTakeTheirTarget :
    Issues on (in0 id) ∧ (in0 id).curImg = some img ∧ img.isBundle (96 + 32 * 10) = true ∧ img.rs (96 + 32 * 10) = false ∧ img.rs (96 - 32) = true ∧ img.isBundle (96 + 32 * 11) = false ∧
    (in0 id).front.ret.length < 8 ∧ (in0 id).front.ret = [] ∧
    (let s := in0 (fun k => { k with fr := { k.fr with ret := [416, 96, 96, 96, 96, 96, 96, 96] } })
     Issues on s ∧ 8 ≤ s.front.ret.length ∧ s.front.ret = 416 :: [96, 96, 96, 96, 96, 96, 96] ∧ img.isBundle 416 = true ∧ img.rs 416 = false) ∧
    (let s := in0 (sets 6 416 false)
     Clean s 6 ∧ (val s 6 + 32 * (sc 0 0 0 6).imm.signExtend 64).toInt % 32 = 0 ∧ (val (in0 (sets 6 417 false)) 6 + 32 * (sc 0 0 0 6).imm.signExtend 64).toInt % 32 ≠ 0) ∧
    (let s := in0 (fun k => sets 6 64 false { k with fr := { k.fr with ret := [384] } })
     Issues on s ∧ s.curImg = some img ∧ s.front.ret = 384 :: [] ∧ img.rs 384 = true ∧ Clean s 6 ∧ (val s 6 + 32 * (sc 0 0 0 6).imm.signExtend 64).toInt = 64 ∧ img.rs 64 = true) := by
  refine ⟨issues_in0 _ rfl, rfl, ?_, ?_, ?_, ?_, ?_, rfl, ⟨issues_in0 _ rfl, ?_, rfl, ?_, ?_⟩, ⟨⟨rfl, rfl⟩, ?_, ?_⟩, issues_in0 _ rfl, rfl, rfl, ?_, ⟨rfl, rfl⟩, ?_, ?_⟩ <;>
    decide +kernel

/-- A loop runs on core 0. -/
def looping (k : Core) : Core :=
  { k with loops := { k.loops with run := some { start := 96, n := 2, m := 1, trip := [4], binds := [], first := true }, lc := k.loops.lc.set 0 3 } }

theorem witness_TakenBranchEndsTheLoop :
    let s := at0 looping
    Alone on s ∧ s.cur = .core 0 ∧ (s.core 0).hs = none ∧ s.curImg = some img ∧ 0 ≤ (s.front.pc : Int) + 32 * (sc 10 0 0 0).imm.toInt ∧
    img.isBundle ((s.front.pc : Int) + 32 * (sc 10 0 0 0).imm.toInt).toNat = true ∧ img.rs ((s.front.pc : Int) + 32 * (sc 10 0 0 0).imm.toInt).toNat = false ∧ (s.core 0).loops.run ≠ none := by
  refine ⟨alone_at0 _ rfl, rfl, rfl, rfl, ?_, ?_, ?_, ?_⟩ <;> decide +kernel

/-- Twelve bindings armed. -/
def full (k : Core) : Core := { k with loops := { k.loops with binds := (List.range 12).map (fun i => ⟨0, false, 20 + i, 8⟩) } }

/-- A trip count of 2^32 - 1 and of 2^32; a binding that is armed, a free one with none and with twelve armed; MARK over all six levels, with no zero trip count and with one. -/
theorem witness_LoopArmingAndMark :
    (Issues on (in0 (sets 6 1 false)) ∧ Clean (in0 (sets 6 1 false)) 6 ∧ (val (in0 (sets 6 1 false)) 6).toNat + (sc 0xFFFFFFFE 5 0 6).imm.toNat < 2 ^ 32 ∧
      2 ^ 32 ≤ (val (in0 (sets 6 1 false)) 6).toNat + (sc 0xFFFFFFFF 5 0 6).imm.toNat ∧ Issues on (in0 full) ∧ Clean (in0 full) 7 ∧
      ((in0 full).core 0).loops.binds.any (fun x => x.lvl == 0 && x.ring == false && x.tgt == 20) = true ∧
      ((in0 full).core 0).loops.binds.any (fun x => x.lvl == 5 && x.ring == true && x.tgt == 15) = false ∧ 12 ≤ ((in0 full).core 0).loops.binds.length ∧ ((in0 id).core 0).loops.binds.length < 12) ∧
    (Alone on (at0 id) ∧ ((at0 id).core 0).loops.run = none ∧ (at0 id).curImg = some img ∧ (sc 1 6 0 0).fn.toNat = 6 ∧
      (∀ i, 1 ≤ i → i ≤ 1 + 1 → img.isBundle (96 + 32 * i) = true ∧ img.rs (96 + 32 * i) = false) ∧ 0 ∉ ((at0 id).core 0).loops.trips.take 6 ∧
      0 ∈ ((at0 (fun k => { k with loops := { k.loops with trips := [1, 1, 1, 1, 1, 0] } })).core 0).loops.trips.take 6) := by
  refine ⟨⟨issues_in0 _ rfl, ⟨rfl, rfl⟩, ?_, ?_, issues_in0 _ rfl, ⟨rfl, rfl⟩, ?_, ?_, ?_, ?_⟩, ⟨alone_at0 _ rfl, rfl, rfl, rfl, ?_, ?_, ?_⟩⟩
  case refine_7 => intro i h1 h2; obtain rfl | rfl : i = 1 ∨ i = 2 := by omega
                   all_goals decide +kernel
  all_goals decide +kernel

/-- In a handler entered at bundle 64. -/
def handling (k : Core) : Core := { k with hs := some { pc := 64, rtn := 64, fl := [], depth := 0, bank := Vector.replicate 8 7, bankp := 0 } }

theorem witness_TrapFormsAndReturn : Issues on (in0 id) ∧ Alone on (at0 handling) ∧ (∃ h, ((at0 handling).core 0).hs = some h ∧ ((at0 handling).core 0).fr.ret.length = h.depth ∧ h.fl = []) ∧
    ((at0 handling).core 0).fr.fl = [] ∧ ((at0 handling).core 0).loops.run = none ∧ Alone on (at0 id) ∧ ((at0 id).core 0).hs = none :=
  ⟨issues_in0 _ rfl, alone_at0 _ rfl, ⟨_, rfl, rfl, rfl⟩, rfl, rfl, alone_at0 _ rfl, rfl⟩

/-- CINCH over an empty segment, whose count is 0 and whose CRC is the complement of the initial value, and one that names a bundle more. -/
theorem witness_DriftAndSegmentChecks : Issues on (in0 id) ∧ ((in0 id).core 0).hs = none ∧ ((in0 handling).core 0).hs ≠ none ∧ Alone ⟨0, false, 0, 0⟩ (at0 id) ∧
    ((at0 id).core 0).cinchN % 2 ^ 20 = (0 : BitVec 20).toNat ∧ ~~~ ((at0 id).core 0).cinchC = (0 : BitVec 32) ∧ ((at0 id).core 0).cinchN % 2 ^ 20 ≠ (1 : BitVec 20).toNat ∧
    ((at0 id).core 0).loops.run = none :=
  ⟨issues_in0 _ rfl, rfl, by decide, alone_at0 _ rfl, rfl, by decide +kernel, by decide +kernel, rfl⟩

/-- A state, or nothing the model answers with. -/
noncomputable def committed (s : State) (pc : Nat) : State := match s.phaseCommit 0 pc with
  | .ok (v, _) => v
  | .error _ => s

theorem commits_of {s : State} (pc : Nat) (h : Alone on s) (hq : s.cur = .core 0) (hs : (s.core 0).hs = none) (hl : (s.core 0).loops.run = none)
    (hr : (s.core 0).phaseReady = true) (hc : (s.phaseCommit 0 (s.core 0).fr.pc).toOption.any (fun w => (s.spillOver w.1).isNone) = true)
    (hd : ((issued s 0 pc).phaseCommit 0 pc).map (·.2) = .ok none) (hk : ((committed (issued s 0 pc) pc).core 0).revoked = false) :
    Commits on s 0 pc (committed (issued s 0 pc) pc) := by
  refine ⟨h, hq, hs, hl, hr, ?_, ?_, hk⟩
  · cases e : s.phaseCommit 0 (s.core 0).fr.pc with
    | ok w => rw [e] at hc; exact ⟨w, rfl, by simpa [Except.toOption] using hc⟩
    | error t => rw [e] at hc; simp [Except.toOption] at hc
  · unfold committed
    cases e : (issued s 0 pc).phaseCommit 0 pc with
    | ok w => obtain ⟨v, o⟩ := w; rw [e] at hd; simp [Except.map] at hd; simp [hd]
    | error t => rw [e] at hd; simp [Except.map] at hd

theorem witness_PhaseCommits : Commits on (at0 id) 0 128 (committed (issued (at0 id) 0 128) 128) :=
  commits_of 128 (alone_at0 _ rfl) rfl rfl rfl rfl rfl rfl rfl

/-- A request for pre-emption stands. -/
def asked : State := (at0 id).setCtx 0 { ctx with invs := [inv], preReq := some 0 }

/-- The core at the chunk's last iteration, at one with another to come, and under a request; the target opens a routine. -/
theorem witness_ExitAndPreemptForms :
    (let v := committed (issued (at0 id) 0 96) 96
     Commits on (at0 id) 0 96 v ∧ (v.core 0).task = some task ∧ (at0 id).curImg = some img ∧ (v.core 0).quiet = true ∧ task.left = 0 ∧
     0 ≤ ((at0 id).front.pc : Int) + 32 * (sc 9 1 0 0).imm.toInt ∧ img.isTask (((at0 id).front.pc : Int) + 32 * (sc 9 1 0 0).imm.toInt).toNat = true ∧
     (v.ctx 0).any (fun x => x.preReq.isSome) = false) ∧
    Issues on (in0 id) ∧ ((in0 id).core 0).hs = none ∧ ((in0 id).ctx (in0 id).curSeq).any (fun x => x.preReq.isSome) = false ∧
    (let v := committed (issued asked 0 128) 128
     Commits on asked 0 128 v ∧ (asked.ctx asked.curSeq).any (fun x => x.preReq.isSome) = true ∧ (v.core 0).task = some task) := by
  refine ⟨⟨commits_of 96 (alone_at0 _ rfl) rfl rfl rfl rfl rfl rfl rfl, rfl, rfl, rfl, rfl, ?_, ?_, rfl⟩, issues_in0 _ rfl, rfl, rfl,
    ⟨commits_of 128 ⟨rfl, rfl⟩ rfl rfl rfl rfl rfl rfl rfl, rfl, rfl⟩⟩ <;> decide +kernel

theorem witness_MemoryLaws : Mem.wf [] = true ∧ Mem.wf [(7, 1)] = true ∧ Mem.get [(7, 1)] 7 = 1 := ⟨rfl, rfl, rfl⟩

/-- The first and the last byte of HBM under each scheme. -/
theorem witness_PlacementIsOneToOne : isHbm 0 = true ∧ isHbm (2 ^ 39 - 1) = true ∧ (∀ ilv, ilv < 8 → hbmLoc ilv 0 = hbmLoc ilv 0) := ⟨rfl, rfl, fun _ _ => rfl⟩

/-! ### Memory of a core -/

/-- Extent 0 maps the 4 KiB page at virtual address 0x40000000 to physical address 0x100000, readable and writable. -/
def ext : BitVec 128 := 0x0000000000000100#64 ++ 0xE000000040000000#64

/-- Core 0 with that extent; s6 holds an address in it, s7 a value. -/
def mapped (va : Word) (k : Core) : Core :=
  let k := sets 6 va false (sets 7 5 false k)
  { k with e := k.e.set 0 ext }

def sm (sz : BitVec 2) (imm : BitVec 28) (d : BitVec 6) : SM := { imm := imm, h := 0, sx := true, sz := sz, a := 6, d := d }

theorem plain_in0 (f : Core → Core) : Plain (in0 f) := ⟨rfl, fun d => match d with | 0 => rfl | 1 => rfl | 2 => rfl | 3 => rfl, rfl⟩

theorem reaches_of {s : State} {va n : Nat} {need : Need} {e : BitVec 128} {pa : Nat} (h : decide (va % n = 0 ∧ s.exCheck 0 va n need = none ∧
    s.exOf 0 va = (e, pa) ∧ pa % n = 0 ∧ isWin pa = false) = true) : Reaches s 0 va n need e pa :=
  have h := of_decide_eq_true h
  ⟨h.1, h.2.1, h.2.2.1, h.2.2.2.1, h.2.2.2.2⟩

/-- The page of extent 0 is exposed to doorbells. -/
def doored (s : State) : State := { s with plat := { s.plat with expo := [(0, 0x010000FD0000000F), (1, 0x0000000100000000)] } }
theorem plain_doored {s : State} (h : Plain s) : Plain (doored s) := ⟨h.1, h.2, h.3⟩

/-- The last eight bytes of the page, the page a device's own and one of doorbells; an address that is no multiple of the size, one in no extent, one in an extent
without the right to read; a load outstanding. -/
theorem witness_LoadsTakeTheBytesOfMemory :
    (let s := in0 (mapped 0x40000000)
     Issues on s ∧ s.cur = .core 0 ∧ Clean s 6 ∧ Reaches s 0 (val s 6 + (sm 3 0xFF8 5).imm.signExtend 64).toNat 8 .read ext 0x100FF8 ∧ Plain s ∧
     NothingOwn s 0 (0x100FF8 / 64) ∧ RaceFree s 0 0 (exIlv ext) 0x100FF8 0 ∧ (val s 6 + (sm 3 0xFFC 5).imm.signExtend 64).toNat % 8 ≠ 0 ∧
     s.wsBusy 0x100FF8 = false ∧ (s.coreRead 0 0 0x40000FF8 8 true).toOption.any (fun r => (s.spillOver r.2).isNone) = true ∧ s.isDoor 0x100FF8 = false) ∧
    (let s := doored (in0 (mapped 0x40000FF8))
     s.cur = .core 0 ∧ Clean s 6 ∧ Reaches s 0 (val s 6).toNat 8 .read ext 0x100FF8 ∧ Plain s ∧ NothingOwn s 0 (0x100FF8 / 64) ∧
     RaceFree s 0 0 (exIlv ext) 0x100FF8 0 ∧ s.wsBusy 0x100FF8 = false ∧ (s.coreRead 0 0 0x40000FF8 8 true).toOption.any (fun r => (s.spillOver r.2).isNone) = true ∧
     s.isDoor 0x100FF8 = true) ∧
    (in0 (mapped 0x40001000)).exCheck 0 0x40001000 8 .read = some (.extentMiss, 0, 0x40001000) ∧
    (in0 (fun k => { k with e := k.e.set 0 (0x0000000000000100#64 ++ 0xA000000040000000#64) })).exCheck 0 0x40000FF8 8 .read = some (.extentPerm, 0, 0x40000FF8) ∧
    ((in0 (waits 6)).core 0).fr.outs = [{ d := 6, val := 1, psn := false, hnd := false }] ∧ ((in0 (waits 6)).core 0).hs = none := by
  refine ⟨⟨issues_in0 _ rfl, rfl, ⟨rfl, rfl⟩, reaches_of (by decide +kernel), plain_in0 _, ⟨?_, ?_, ?_, rfl⟩, fun _ _ => rfl, by decide +kernel,
    by decide +kernel, by decide +kernel, by decide +kernel⟩, ⟨rfl, ⟨rfl, rfl⟩, reaches_of (by decide +kernel), plain_doored (plain_in0 _), ⟨?_, ?_, ?_, rfl⟩, fun _ _ => rfl,
    by decide +kernel, by decide +kernel, by decide +kernel⟩, by decide +kernel, by decide +kernel, rfl, rfl⟩ <;>
    exact fun x h => nomatch h

theorem unwatched_of (s : State) (h : (s.core 0).resumed (some 0x10) = true) : Unwatched s 0 := fun _ _ _ => if_pos h

/-- The core goes on after a watch stop, so that its watchpoints are quiet for this bundle. -/
def quietly (k : Core) : Core := { k with dbg := { k.dbg with supp := some (0x10, 96, k.fr.scyc, k.hs.isSome) } }

theorem witness_StoresEnterTheBuffer :
    let s := in0 (fun k => quietly (mapped 0x40000000 k))
    Issues on s ∧ s.cur = .core 0 ∧ Clean s 6 ∧ Clean s 7 ∧ Reaches s 0 (val s 6 + (sm 0 0xFFF 7).imm.signExtend 64).toNat 1 .write ext 0x100FFF ∧ Unwatched s 0 ∧
    NothingOwn s 0 (0x100FFF / 64) ∧ (s.core 0).sbUsed < 256 := by
  refine ⟨issues_in0 _ rfl, rfl, ⟨rfl, rfl⟩, ⟨rfl, rfl⟩, reaches_of (by decide +kernel), unwatched_of _ rfl, ⟨?_, ?_, ?_, rfl⟩, by decide +kernel⟩ <;>
    exact fun x h => nomatch h

/-- One buffered byte. -/
def entry : SbEnt := { line := 0x100FC0 / 64, mask := 1#64 <<< 63, data := 0, va := 0x40000FC0 / 64, ilv := 0 }
def buffered (k : Core) : Core := { (quietly k) with ph := { k.ph with sb := [entry] } }

theorem witness_CommitStoresTheBufferedBytes :
    let s := at0 buffered
    MemOk s ∧ (s.core 0).ph.sb = [entry] ∧ (s.core 0).ph.enrol = [] ∧ Plain s ∧ entry.ilv < 8 ∧ isHbm (entry.line * 64) = true ∧ s.isDoor (entry.line * 64) = false ∧
    (s.phaseCommit 0 128).map (·.2) = .ok none := by
  refine ⟨rfl, rfl, rfl, ⟨rfl, fun d => match d with | 0 => rfl | 1 => rfl | 2 => rfl | 3 => rfl, rfl⟩, by decide, by decide +kernel, by decide +kernel, rfl⟩

/-- An invocation with granules 0 and 1 in its region 0. -/
def invR : Inv := { inv with regions := Vector.replicate 16 none |>.set 0 (some (0, 2)) }
def in0R (f : Core → Core) : State := (in0 f).setCtx 0 { ctx with invs := [invR] }

/-- The last eight bytes of a region. -/
theorem witness_ScratchpadAccesses :
    let s := in0R (sets 6 8184 false)
    Issues on s ∧ s.cur = .core 0 ∧ Clean s 6 ∧ (val s 6 + (sm 3 0 7).imm.signExtend 64).toNat % 8 = 0 ∧ s.grantedRange 0 (val s 6 + (sm 3 0 7).imm.signExtend 64).toNat 8 = true ∧
    Mem.wf (s.core 0).scr = true ∧ Clean s 7 := by
  refine ⟨⟨rfl, rfl, rfl, rfl⟩, rfl, ⟨rfl, rfl⟩, ?_, ?_, rfl, ⟨rfl, rfl⟩⟩ <;> decide +kernel

def sy (scope sz : BitVec 4) (c : BitVec 6) : SY := { sys := 2, scope := scope, aop := 0, sz := sz.truncate 2, c := c, b := 7, a := 6, d := 5 }

/-- The least and the greatest scope, a word of four bytes and one of eight; a page of doorbells. -/
theorem witness_AtomicsAtTheHome :
    let s := in0 (fun k => quietly (mapped 0x40000FF8 k))
    s.cur = .core 0 ∧ Plain s ∧ Unwatched s 0 ∧ NothingOwn s 0 (0x100FF8 / 64) ∧ amoSays (.amoFadd on (sy 1 2 0)) ≠ none ∧ Issues on s ∧ Clean s 6 ∧ Clean s 7 ∧ Clean s 8 ∧
    Reaches s 0 (val s 6).toNat 4 .atomic ext 0x100FF8 ∧ Reaches s 0 (val s 6).toNat 8 .atomic ext 0x100FF8 ∧ 1 ≤ (sy 1 2 0).scope.toNat ∧ (sy 5 3 8).scope.toNat ≤ 5 ∧
    amoCode (.amoFadd on (sy 1 2 0)) = some (on, sy 1 2 0, 9) ∧ s.isDoor 0x100FF8 = false ∧
    (∃ a, s.accOf 0 3 (exIlv ext) 0x100FF8 1 = some a ∧ s.rivals a = [] ∧ s.spillOver (s.atomAt 0 9 ext 0x100FF8 4 5 0 a).2 = none) ∧
    (∃ a, s.accOf 0 3 (exIlv ext) 0x100FF8 5 = some a ∧ s.rivals a = [] ∧ s.spillOver (s.atomAt 0 15 ext 0x100FF8 8 5 0 a).2 = none) ∧
    (let d := doored s
     d.cur = .core 0 ∧ Plain d ∧ Unwatched d 0 ∧ NothingOwn d 0 (0x100FF8 / 64) ∧ Reaches d 0 (val d 6).toNat 8 .atomic ext 0x100FF8 ∧ d.isDoor 0x100FF8 = true ∧
     ∃ a, d.accOf 0 3 (exIlv ext) 0x100FF8 5 = some a ∧ d.rivals a = []) := by
  refine ⟨rfl, plain_in0 _, unwatched_of _ rfl, ⟨?_, ?_, ?_, rfl⟩, by decide, issues_in0 _ rfl, ⟨rfl, rfl⟩, ⟨rfl, rfl⟩, ⟨rfl, rfl⟩, reaches_of (by decide +kernel),
    reaches_of (by decide +kernel), by decide, by decide, rfl, by decide +kernel, ⟨_, rfl, rfl, by decide +kernel⟩, ⟨_, rfl, rfl, by decide +kernel⟩,
    rfl, plain_doored (plain_in0 _), unwatched_of _ rfl, ⟨?_, ?_, ?_, rfl⟩, reaches_of (by decide +kernel), by decide +kernel, ⟨_, rfl, rfl⟩⟩ <;> exact fun x h => nomatch h

/-- A partial of the word that the core holds. -/
def partial_ : Upd := { word := 0x100FF8, op := 0, n := 4, val := 1, va := 0x40000FF8, ilv := 0, inSb := false }

theorem witness_UpdatesMakePartials :
    let s := in0 (fun k => quietly (mapped 0x40000FF8 k))
    let t := in0 (fun k => let k := quietly (mapped 0x40000FF8 k); { k with ph := { k.ph with upds := [partial_] } })
    cupdSays (.cupdAdd on (sy 0 2 0)) = some (on, sy 0 2 0, 0) ∧ Issues on s ∧ s.cur = .core 0 ∧ (s.core 0).hs = none ∧ Clean s 6 ∧ Clean s 7 ∧ Unwatched s 0 ∧
    Reaches s 0 (val s 6).toNat 4 .update ext 0x100FF8 ∧ (∀ u ∈ (s.core 0).ph.upds, u.word ≠ 0x100FF8) ∧ s.isDoor 0x100FF8 = false ∧
    Issues on (doored s) ∧ Unwatched (doored s) 0 ∧ Reaches (doored s) 0 (val s 6).toNat 4 .update ext 0x100FF8 ∧ (doored s).isDoor 0x100FF8 = true ∧
    Issues on t ∧ Unwatched t 0 ∧ Reaches t 0 (val t 6).toNat 4 .update ext 0x100FF8 ∧ (t.core 0).ph.upds = [partial_] ∧ partial_.n = 2 ^ (sy 0 2 0).sz.toNat :=
  ⟨rfl, issues_in0 _ rfl, rfl, rfl, ⟨rfl, rfl⟩, ⟨rfl, rfl⟩, unwatched_of _ rfl, reaches_of (by decide +kernel), (fun _ h => nomatch h), by decide +kernel, ⟨rfl, rfl, rfl, rfl⟩,
    unwatched_of _ rfl, reaches_of (by decide +kernel), by decide +kernel, issues_in0 _ rfl, unwatched_of _ rfl, reaches_of (by decide +kernel), rfl, rfl⟩


/-! ### Rings, fences, barriers, supersteps, system registers -/

/-- A handle with EN set, untyped, four slots of 64 bytes at byte 0, with CONS 3, FILL n and PROD (3 + n) mod 4. -/
def hdl (n : Nat) (ph : Bool) : Word := BitVec.ofNat 64 ((if ph then 2 ^ 55 else 0) + 2 ^ 54 + n * 2 ^ 45 + 3 * 2 ^ 37 + (3 + n) % 4 * 2 ^ 29 + 3 * 2 ^ 21)

/-- Ring 0 of core 0 holds h. -/
def ring (h : Word) (k : Core) : Core := { k with rings := k.rings.set 0 { k.rings[0] with h := h } }

/-- A queued MPUSH from ring 0. -/
def pushes : MEnt := { op := .mpush 0 0 false 0 false 0x20 false, run := false, phase := 0, fail := false, seq := 0 }

/-- A ring full, half full and empty; a disabled one; HSET of a handle over the two granted granules, of one beyond them, of a disabled one, and of a ring that a
queued push names. -/
theorem witness_RingForms :
    (let s := in0R (fun k => sets 6 (hdl 4 true) false (ring (hdl 2 true) k))
     let n (i : BitVec 28) := (sm 3 i 5).imm.toNat
     Issues on s ∧ s.cur = .core 0 ∧ s.ringAt 0 = (s.core 0).rings[0] ∧ (s.core 0).hs = none ∧ hEn (s.core 0).rings[0].h = true ∧ n 2 ≤ hFill (hdl 2 true) ∧
     hFill (hdl 2 true) < n 3 ∧ hFill (hdl 2 true) + n 2 ≤ hSlots (hdl 2 true) ∧ hSlots (hdl 2 true) < hFill (hdl 2 true) + n 3 ∧ n 4 ≤ hSlots (hdl 2 true) ∧ hSlots (hdl 2 true) < n 5 ∧ Clean s 6 ∧
     (s.core 0).ringBusy 0 = false ∧ hEn (val s 6) = true ∧ s.ringOk 0 (val s 6) = true) ∧
    (let s := in0R id
     Issues on s ∧ s.ringAt 0 = (s.core 0).rings[0] ∧ hEn (s.core 0).rings[0].h = false ∧ Clean s 6 ∧ (s.core 0).ringBusy 0 = false ∧ hEn (val s 6) = false) ∧
    (let s := in0R (fun k => sets 6 (hdl 4 true) false { k with arr := { k.arr with queue := [pushes] } })
     Issues on s ∧ Clean s 6 ∧ (s.core 0).ringBusy 0 = true) ∧
    (let s := in0 (sets 6 (hdl 4 true) false)
     Issues on s ∧ Clean s 6 ∧ hEn (val s 6) = true ∧ s.ringOk 0 (val s 6) = false) := by
  refine ⟨⟨⟨rfl, rfl, rfl, rfl⟩, rfl, rfl, rfl, ?_, ?_, ?_, ?_, ?_, ?_, ?_, ⟨rfl, rfl⟩, ?_, ?_, ?_⟩, ⟨⟨rfl, rfl, rfl, rfl⟩, rfl, ?_, ⟨rfl, rfl⟩, ?_, ?_⟩,
    ⟨⟨rfl, rfl, rfl, rfl⟩, ⟨rfl, rfl⟩, ?_⟩, ⟨rfl, rfl, rfl, rfl⟩, ⟨rfl, rfl⟩, ?_, ?_⟩ <;> decide +kernel

theorem witness_AdvancesKeepTheHandleSound :
    let h := hdl 4 true
    hProd h < hSlots h ∧ hCons h < hSlots h ∧ hFill h ≤ hSlots h ∧ hProd h = (hCons h + hFill h) % hSlots h ∧ 4 ≤ hFill h ∧ hFill h + 0 ≤ hSlots h := by decide

/-- Barrier 4 of cluster 0, and the highest barrier, 31, of which core 0 has arrived in generation 0. -/
def barr (b arr gen : Nat) : Barr := { slot := b, own := 0, conf := 2, n := 2, arr := arr, gen := gen, pkg := false }
def barred (b arr gen : Nat) : State := { (in0 (fun k => { k with gens := [(b, 0, 0)] })) with barrs := [barr b arr gen] }

theorem issues_barred (b arr gen : Nat) : Issues on (barred b arr gen) := ⟨rfl, rfl, rfl, rfl⟩

theorem witness_FencesAndBarriers :
    Issues on (in0 id) ∧ (in0 id).cur = .core 0 ∧ ((in0 id).core 0).hs = none ∧ ((in0 id).core 0).fr.outs = [] ∧ (in0 id).plat.reqs = [] ∧
    4 ≤ (sy 3 3 4).c.toNat % 32 ∧ (in0 id).barrOf 0 4 = none ∧
    Issues on (barred 4 0 0) ∧ (barred 4 0 0).barrs = [barr 4 0 0] ∧ (barred 4 0 0).barrOf 0 4 = some (barr 4 0 0) ∧ (barred 4 1 0).barrOf 0 4 = some (barr 4 1 0) ∧
    (sy 3 3 31).c.toNat % 32 = 31 ∧ ((barred 31 0 1).core 0).gens.find? (fun e => e.1 == 31) = some (31, 0, 0) ∧
    (barred 31 0 1).barrs.find? (fun x => x.slot == 31 && x.own == 0) = some (barr 31 0 1) ∧ (barred 31 0 0).barrs.find? (fun x => x.slot == 31 && x.own == 0) = some (barr 31 0 0) :=
  ⟨issues_in0 _ rfl, rfl, rfl, rfl, rfl, by decide, rfl, issues_barred _ _ _, rfl, rfl, rfl, by decide, rfl, rfl, rfl⟩

theorem commit_ok {s : State} {pc : Nat} (h : (s.phaseCommit 0 pc).map (·.2) = .ok none) : s.phaseCommit 0 pc = .ok (committed s pc, none) := by
  unfold committed
  cases e : s.phaseCommit 0 pc with
  | ok w => obtain ⟨v, o⟩ := w; rw [e] at h; simp [Except.map] at h; simp [h]
  | error t => rw [e] at h; simp [Except.map] at h

/-- The invocation in superstep n, and a task that arrived in the first, 0. -/
def arrived (n : Nat) : State :=
  ((at0 id).modCore 0 (fun k => { k with task := some { task with arrived := some 0 } })).setCtx 0 { ctx with invs := [{ inv with sstep := n }] }

/-- A task that has not arrived, with a load outstanding and with none; one that has, alone, behind another core's and in a superstep that is over. -/
theorem witness_SstepCompletes : Alone on (arrived 1) ∧ (arrived 1).cur = .core 0 ∧ ((arrived 1).core 0).hs = none ∧ ((arrived 1).core 0).loops.run = none ∧
    ((arrived 1).core 0).task = some { task with arrived := some 0 } ∧ (arrived 1).taskInv 0 = some { inv with sstep := 1 } ∧ 0 < ({ inv with sstep := 1 } : Inv).sstep ∧
    Alone on (arrived 0) ∧ (arrived 0).taskInv 0 = some { inv with sstep := 0 } ∧ (arrived 0).stepOver 0 0 0 = true ∧ (arrived 0).parts = [] ∧
    (let s := (arrived 0).modCore 1 (fun k => { k with task := some task })
     Alone on s ∧ s.taskInv 0 = some { inv with sstep := 0 } ∧ s.stepOver 0 0 0 = false) ∧
    task.arrived = none ∧ (at0 id).taskInv 0 = some inv ∧ ((at0 (waits 6)).core 0).phaseReady = false ∧ (at0 (waits 6)).taskInv 0 = some inv ∧ Alone on (at0 id) ∧
    ((at0 id).core 0).phaseReady = true ∧ (at0 id).phaseCommit 0 96 = .ok (committed (at0 id) 96, none) ∧ (at0 id).spillOver (committed (at0 id) 96) = none ∧
    ((committed (at0 id) 96).core 0).revoked = false :=
  ⟨⟨rfl, rfl⟩, rfl, rfl, rfl, rfl, rfl, by decide, ⟨rfl, rfl⟩, rfl, by decide +kernel, rfl, ⟨⟨rfl, rfl⟩, rfl, by decide +kernel⟩, rfl, rfl, by decide +kernel, rfl, alone_at0 _ rfl,
    by decide +kernel, commit_ok rfl, by decide +kernel, by decide +kernel⟩

def sys (n : BitVec 12) : SY := { sys := n, scope := 0, aop := 0, sz := 3, c := 0, b := 0, a := 6, d := 5 }

/-- The image with the system flag. -/
def sysImg (s : State) : State := { s with imgs := [{ img with sysv := true }] }

/-- SCYC, a hole, a watchpoint under either view, a register the user view may not write, k7, e0 and e15's last word; the values of HEM.TOL at which R30's cases meet. -/
theorem witness_SystemRegisterForms :
    (Issues on (in0 id) ∧ (in0 id).cur = .core 0 ∧ ((in0 id).readSys 0 (sys 3).sys.toNat).isSome = true ∧ sysHidden 3 = false ∧
      (sysImg (in0 id)).sysView = true ∧ ((in0 id).readSys 0 0x040).isSome = true ∧ (in0 id).readSys 0 0x016 = none ∧ sysHidden 0x016 = false ∧ Clean (in0 id) 6 ∧
      sysWritable 2 (in0 id).sysView = false ∧ ((in0 id).readSys 0 2).isSome = true) ∧
    (let s := sysImg (at0 id)
     Alone on s ∧ Clean s 6 ∧ (s.core 0).hs = none ∧ (s.core 0).loops.run = none ∧ s.sysView = true ∧ (sys 0x077).sys.toNat = 0x077 ∧
       0x080 ≤ (sys 0x080).sys.toNat ∧ (sys 0x08F).sys.toNat ≤ 0x08F) ∧
    Regs.wf (State.reset.core 0).sys = true ∧ (0x7F800000#64).toNat % 2 ^ 31 ≤ 0x7F800000 ∧ 0x7F800000 < (0x7F800001#64).toNat % 2 ^ 31 := by
  refine ⟨⟨issues_in0 _ rfl, rfl, ?_, rfl, ?_, ?_, ?_, rfl, ⟨rfl, rfl⟩, ?_, ?_⟩, ⟨⟨rfl, rfl⟩, ⟨rfl, rfl⟩, rfl, rfl, ?_, ?_, ?_, ?_⟩, ?_, ?_, ?_⟩ <;> decide +kernel

/-! ### Expansion routines -/

/-- Page tables, by location, at frames 16 to 19 that map the pages 0x20000 to 0x23000 to themselves, all but the first writable. -/
def pages : Mem :=
  [(256, 1), (258, 17), (4294967552, 1), (4294967554, 18), (8589934848, 1), (8589934850, 19), (150323855616, 7), (150323855618, 32), (150323855624, 15), (150323855626, 33), (150323855632, 15), (150323855634, 34), (150323855640, 15), (150323855642, 35)]
def paged (s : State) : State := { s with mem := pages }

/-- A routine of invocation 0 at offset 96 of the image. -/
def routine (f : Front → Front) : Exp := { fr := f { Front.reset with img := 0, pc := 96, rtn := 64 }, uid := 0, code := 64, handledPage := false }

/-- Sequencer 0 runs the routine for the invocation i of the context x. -/
def seqOf (x : Ctx) (i : Inv) (f : Front → Front) : State :=
  { (paged State.reset).setCtx 0 { x with invs := [i], exp := some (routine f) } with imgs := [img], cur := .seq 0 }
def seqIn (x : Ctx) (i : Inv) (f : Front → Front) : State := { seqOf x i f with iss := { Issue.idle with bundle := true } }

/-- s6 of the routine. -/
def s6 (v : Word) (f : Front) : Front := { f with s := (f.s.set 6 v).set 7 5 }

theorem routine_seqOf (x : Ctx) (i : Inv) (f : Front → Front) (h : i.uid = 0) : OnRoutine (seqOf x i f) 0 { x with invs := [i], exp := some (routine f) } (routine f) i :=
  ⟨rfl, rfl, rfl, by simp [Ctx.inv, routine, h]⟩
theorem routine_seqIn (x : Ctx) (i : Inv) (f : Front → Front) (h : i.uid = 0) : OnRoutine (seqIn x i f) 0 { x with invs := [i], exp := some (routine f) } (routine f) i :=
  ⟨rfl, rfl, rfl, by simp [Ctx.inv, routine, h]⟩

/-- An access answers. -/
def gives : SeqRes → Bool
  | .val _ _ => true
  | _ => false

theorem gives_val {r : SeqRes} (h : gives r = true) : ∃ v u, r = .val v u := by
  cases r <;> simp_all [gives]

/-- The last eight bytes of the writable page; the first and the last mailbox. -/
theorem witness_RoutineMemoryAndRegisters :
    (let x : Ctx := { ctx with invs := [inv], exp := some (routine (s6 0x21FF8)) }
     let s := seqIn ctx inv (s6 0x21FF8)
     OnRoutine s 0 x (routine (s6 0x21FF8)) inv ∧ Issues on s ∧ Clean s 6 ∧ Clean s 7 ∧ Clean s 0 ∧ (∃ v u, s.seqRead 0 x (some (inv.uid, s.declRoots x inv 0x21FF8 8)) (s.declFree x inv 0x21FF8 8) 0x21FF8 8 = .val v u) ∧
     inv.inArea 0x21FF8 8 = false ∧ (0x21FF8 < inv.area) ∧ inv.opened = false ∧
     (∃ v u, s.seqWrite 0 x false 0x21FF8 8 5 = .val v u) ∧ (∃ v u, s.seqAtom 0 x 3 1 0x21FF8 8 5 0 = .val v u) ∧ amoCode (.amoAdd on (sy 3 3 0)) = some (on, sy 3 3 0, 1) ∧
     (∃ v u, s.seqAtom 0 x 3 15 0x21FF8 8 5 0 = .val v u) ∧ (s.readSeq 0 x inv 0x101).isSome = true) ∧
    (let s := seqOf ctx inv (s6 0x21FF8)
     OnRoutine s 0 { ctx with invs := [inv], exp := some (routine (s6 0x21FF8)) } (routine (s6 0x21FF8)) inv ∧ Alone on s ∧ Clean s 6 ∧ 0x130 ≤ (sys 0x130).sys.toNat ∧
     (sys 0x137).sys.toNat ≤ 0x137 ∧ inv.sealed = false) := by
  refine ⟨⟨routine_seqIn _ _ _ rfl, ⟨rfl, rfl, rfl, rfl⟩, ⟨rfl, rfl⟩, ⟨rfl, rfl⟩, ⟨rfl, rfl⟩, gives_val ?_, by decide, by decide, rfl, gives_val ?_, gives_val ?_, rfl,
    gives_val ?_, ?_⟩, ⟨routine_seqOf _ _ _ rfl, ⟨rfl, rfl⟩, ⟨rfl, rfl⟩, by decide, by decide, rfl⟩⟩ <;> decide +kernel

/-- An output operand of handle 3, a tensor of rank 1. -/
def recR : TRec := { base := 0, fmt := 0, rank := 1, scl := false, shd := false, ro := false, dim := [1, 1, 1, 1, 1, 1], str := [1, 0, 0, 0, 0, 0], sbase := 0, mesh := 0, axis := 0, index := 0, count := 0 }
def outR : Opnd := { hnd := 3, root := 3, role := 1, tr := recR, pub := false }

/-- An earlier invocation that writes the same root. -/
def before : Inv := { inv with uid := 0, opnds := [outR] }
def later : Inv := { inv with uid := 1, opnds := [{ outR with role := 2 }] }
def seq2 : State :=
  { (paged State.reset).setCtx 0 { ctx with invs := [before, later], exp := some { (routine id) with uid := 1 } } with imgs := [img], cur := .seq 0, iss := { Issue.idle with bundle := true } }

/-- The whole scratchpad, region 0 free and granted. -/
theorem witness_RegionAndScoreboardForms :
    (let s := seqIn ctx inv (s6 192)
     let x : Ctx := { ctx with invs := [inv], exp := some (routine (s6 192)) }
     OnRoutine s 0 x (routine (s6 192)) inv ∧ Issues on s ∧ Clear s 6 ∧ s.roomFor x inv 0 (val s 6).toNat = .found 0 ∧ inv.regions[Fin.ofNat 16 0] = none) ∧
    (let s := seqIn ctx { invR with opnds := [outR] } (s6 1)
     let x : Ctx := { ctx with invs := [{ invR with opnds := [outR] }], exp := some (routine (s6 1)) }
     OnRoutine s 0 x (routine (s6 1)) { invR with opnds := [outR] } ∧ Issues on s ∧ invR.regions[Fin.ofNat 16 0] ≠ none ∧ x.live 0 = false ∧
     [outR].find? (fun o => o.hnd == 3) = some outR ∧ [outR].find? (fun o => o.hnd == 3 && o.role != 0) = some outR ∧ x.unpublished 0 3 = false) ∧
    (let x : Ctx := { ctx with invs := [before, later], exp := some { (routine id) with uid := 1 } }
     OnRoutine seq2 0 x { (routine id) with uid := 1 } later ∧ Issues on seq2 ∧ later.opnds.find? (fun o => o.hnd == 3) = some { outR with role := 2 } ∧ x.unpublished 1 3 = true) := by
  refine ⟨⟨routine_seqIn _ _ _ rfl, ⟨rfl, rfl, rfl, rfl⟩, rfl, ?_, rfl⟩, ⟨routine_seqIn _ _ _ rfl, ⟨rfl, rfl, rfl, rfl⟩, ?_, rfl, rfl, rfl, rfl⟩,
    ⟨⟨rfl, rfl, rfl, rfl⟩, ⟨rfl, rfl, rfl, rfl⟩, rfl, rfl⟩⟩ <;> decide +kernel

theorem witness_RegionsAreTheLowestFreeRun :
    State.reset.roomFor { ctx with invs := [invR] } { inv with uid := 1 } 0 190 = .found 0 ∧
    (State.reset.setCtx 0 { ctx with invs := [invR] }).roomFor { ctx with invs := [invR] } { inv with uid := 1 } 0 190 = .found 2 := by
  constructor <;> decide +kernel

/-- A latch entry of state st. -/
def latched (st : BitVec 2) : Ctx := { ctx with latch := ctx.latch.set 0 { ctx.latch[0] with st := st } }

/-- An idle, an armed and a latched entry; one contribution and 320; bin 255. -/
theorem witness_LatchForms :
    (let s (n : Word) := seqIn ctx inv (s6 n)
     OnRoutine (s 320) 0 { ctx with invs := [inv], exp := some (routine (s6 320)) } (routine (s6 320)) inv ∧ Issues on (s 320) ∧ Clear (s 320) 6 ∧ (val (s 320) 6).toNat ≤ 320 ∧
     1 ≤ (val (s 1) 6).toNat ∧ ctx.latch[0].st = 0 ∧ Clear (s 320) 7 ∧ (val (s 320) 7).toNat ≤ 255) ∧
    (let s := seqIn (latched 2) inv (fun f => { f with s := f.s.set 7 255 })
     OnRoutine s 0 { latched 2 with invs := [inv], exp := some (routine (fun f => { f with s := f.s.set 7 255 })) } (routine (fun f => { f with s := f.s.set 7 255 })) inv ∧ Issues on s ∧
     (latched 2).latch[0].st = 2 ∧ Clear s 7 ∧ (val s 7).toNat ≤ 255) ∧
    (let s := seqIn (latched 1) inv id
     OnRoutine s 0 { latched 1 with invs := [inv], exp := some (routine id) } (routine id) inv ∧ Issues on s ∧ (latched 1).latch[0].st = 1 ∧ Clear s 7 ∧ (val s 7).toNat ≤ 255) := by
  refine ⟨⟨routine_seqIn _ _ _ rfl, ⟨rfl, rfl, rfl, rfl⟩, rfl, ?_, ?_, rfl, rfl, ?_⟩, ⟨routine_seqIn _ _ _ rfl, ⟨rfl, rfl, rfl, rfl⟩, ?_, rfl, ?_⟩,
    ⟨routine_seqIn _ _ _ rfl, ⟨rfl, rfl, rfl, rfl⟩, ?_, rfl, ?_⟩⟩ <;> decide +kernel

/-- The state and the value that an access answers with. -/
def after : SeqRes → State
  | .val _ u => u
  | _ => State.reset
def value : SeqRes → Nat
  | .val v _ => v
  | _ => 0

theorem seqLd_of {s : State} {q : Fin 16} {x : Ctx} {e : Exp} {i : Inv} (h : OnRoutine s q x e i) (va n : Nat)
    (hg : gives (s.seqRead q x (some (i.uid, s.declRoots x i va n)) (s.declFree x i va n) va n) = true) (k : Nat → State → Eff) :
    seqLd s va n k = k (value (s.seqRead q x (some (i.uid, s.declRoots x i va n)) (s.declFree x i va n) va n))
      (after (s.seqRead q x (some (i.uid, s.declRoots x i va n)) (s.declFree x i va n) va n)) := by
  obtain ⟨v, u, hv⟩ := gives_val hg
  simp only [seqLd, withInv, h.cur, h.ctx, h.exp, h.inv, Option.bind_some, hv, SeqRes.eff, value, after]

/-- The same with the invocation's area over the two pages. -/
def invA : Inv := { inv with area := 0x20000 }

/-- A sound record at 0x21080: its routine at 64, one dimension of one iteration, its argument at 0x21000, one operand that covers it; zeros at 0x21100. -/
def seqA : State :=
  { seqIn ctx invA (s6 0x21080) with mem :=
  [(256, 1), (258, 17), (4294967552, 1), (4294967554, 18), (4294967936, 2), (4294967937, 32), (4294967939, 255), (4294967940, 127), (4294967944, 64), (4294967945, 8), (4294967952, 1),
   (4294967968, 64), (4294967969, 8), (4294967973, 100), (4294967974, 3), (4294967978, 4), (8589934848, 1), (8589934850, 19), (150323855616, 7), (150323855618, 32), (150323855624, 15),
   (150323855626, 33), (150323855632, 15), (150323855634, 34), (150323855640, 15), (150323855642, 35)] }

/-- The context, the routine and the invocation on sequencer 0 in state s. -/
def cx (s : State) : Ctx := (s.ctx 0).getD ctx
def ex (s : State) : Exp := (cx s).exp.getD (routine id)
def iv (s : State) : Inv := ((cx s).inv (ex s).uid).getD inv

theorem onRoutine_self {s : State} (h : decide (s.cur = .seq 0 ∧ (s.ctx 0).isSome = true ∧ (cx s).exp.isSome = true ∧ ((cx s).inv (ex s).uid).isSome = true) = true) :
    OnRoutine s 0 (cx s) (ex s) (iv s) := by
  obtain ⟨h1, h2, h3, h4⟩ := of_decide_eq_true h
  obtain ⟨x, hx⟩ := Option.isSome_iff_exists.mp h2
  obtain ⟨e, he⟩ := Option.isSome_iff_exists.mp h3
  obtain ⟨i, hi⟩ := Option.isSome_iff_exists.mp h4
  exact ⟨h1, by simp [cx, hx], by simp [ex, he], by simp [iv, hi]⟩

/-- One half of a block of 128 bytes as the routine reads it in state s; the state after a block at va has been read, and the block. -/
def half (s : State) (va : Nat) : SeqRes :=
  s.seqRead 0 (cx s) (some ((iv s).uid, s.declRoots (cx s) (iv s) va 64)) (s.declFree (cx s) (iv s) va 64) va 64
def past (s : State) (va : Nat) : State := after (half (after (half s va)) (va + 64))
def block (s : State) (va : Nat) : Mem := Mem.write (Mem.write [] 0 (value (half s va)) 64) 64 (value (half (after (half s va)) (va + 64))) 64

/-- State s runs a routine whose access answers. -/
def ready (s : State) (va : Nat) : Bool :=
  decide (s.cur = .seq 0 ∧ (s.ctx 0).isSome = true ∧ (cx s).exp.isSome = true ∧ ((cx s).inv (ex s).uid).isSome = true) && gives (half s va)

theorem reads_block {s : State} {va : Nat} (h : ready s va = true) (h' : ready (after (half s va)) (va + 64) = true) :
    ∀ k, seqBlock s va k = k (block s va) (past s va) := by
  obtain ⟨h1, h2⟩ := Bool.and_eq_true_iff.mp h
  obtain ⟨h3, h4⟩ := Bool.and_eq_true_iff.mp h'
  exact fun k => (seqLd_of (onRoutine_self h1) va 64 h2 _).trans (seqLd_of (onRoutine_self h3) (va + 64) 64 h4 _)

theorem issues_of {s : State} (h : decide (s.iss.bundle = true ∧ s.iss.trap = none ∧ s.iss.stall = none ∧ s.enabled on = true) = true) : Issues on s :=
  have h := of_decide_eq_true h
  ⟨h.1, h.2.1, h.2.2.1, h.2.2.2⟩

theorem clean_of {s : State} {r : BitVec 6} (h : (!s.waits r && !psn s r) = true) : Clean s r := by simpa [Clean, Clear] using h

theorem block_good : ∀ k, seqBlock seqA 0x21080 k = k (block seqA 0x21080) (past seqA 0x21080) := reads_block (by decide +kernel) (by decide +kernel)
theorem block_consts : ∀ k, seqBlock (past seqA 0x21080) 0x21000 k = k (block (past seqA 0x21080) 0x21000) (past (past seqA 0x21080) 0x21000) :=
  reads_block (by decide +kernel) (by decide +kernel)
theorem block_bad : ∀ k, seqBlock seqA 0x21100 k = k (block seqA 0x21100) (past seqA 0x21100) := reads_block (by decide +kernel) (by decide +kernel)
theorem checks_good : recordBad (past seqA 0x21080) (cx seqA) (iv seqA) (block seqA 0x21080) = none := by decide +kernel
theorem checks_arg : LRec.arg (block seqA 0x21080) = 0x21000 := by decide +kernel
theorem checks_consts : constsOk (past (past seqA 0x21080) 0x21000).sysView (block (past seqA 0x21080) 0x21000) = true := by decide +kernel
theorem checks_bad : recordBad (past seqA 0x21100) (cx seqA) (iv seqA) (block seqA 0x21100) = some 1 := by decide +kernel

/-- A record that passes every check, and one whose NDIM is 0; an address that is no multiple of 128. -/
theorem witness_RecordsAreQueued :
    OnRoutine seqA 0 (cx seqA) (ex seqA) (iv seqA) ∧ Issues on seqA ∧ Clean seqA 6 ∧ (val seqA 6).toNat = 0x21080 ∧ (val seqA 6).toNat % 128 = 0 ∧ (cx seqA).recs.length < 32 ∧
    (∀ k, seqBlock seqA 0x21080 k = k (block seqA 0x21080) (past seqA 0x21080)) ∧ recordBad (past seqA 0x21080) (cx seqA) (iv seqA) (block seqA 0x21080) = none ∧
    LRec.arg (block seqA 0x21080) = 0x21000 ∧ (∀ k, seqBlock (past seqA 0x21080) 0x21000 k = k (block (past seqA 0x21080) 0x21000) (past (past seqA 0x21080) 0x21000)) ∧
    constsOk (past (past seqA 0x21080) 0x21000).sysView (block (past seqA 0x21080) 0x21000) = true ∧
    (∀ k, seqBlock seqA 0x21100 k = k (block seqA 0x21100) (past seqA 0x21100)) ∧ recordBad (past seqA 0x21100) (cx seqA) (iv seqA) (block seqA 0x21100) = some 1 ∧
    Clean (seqIn ctx invA (s6 0x21040)) 6 ∧ (val (seqIn ctx invA (s6 0x21040)) 6).toNat % 128 ≠ 0 := by
  exact ⟨onRoutine_self (by decide +kernel), issues_of (by decide +kernel), clean_of (by decide +kernel), by decide +kernel, by decide +kernel, by decide +kernel, block_good, checks_good, checks_arg,
    block_consts, checks_consts, block_bad, checks_bad, clean_of (by decide +kernel), by decide +kernel⟩

/-- A routine before and after its first WLNR. -/
theorem witness_RoutineEnds :
    (let s := seqOf ctx inv id
     OnRoutine s 0 { ctx with invs := [inv], exp := some (routine id) } (routine id) inv ∧ Alone on s ∧ inv.nrec = 0 ∧ ({ ctx with invs := [inv] } : Ctx).live inv.uid = false ∧
     s.stepOver 0 inv.uid inv.sstep = true) ∧
    (let i : Inv := { inv with nrec := 1 }
     OnRoutine (seqOf ctx i id) 0 { ctx with invs := [i], exp := some (routine id) } (routine id) i ∧ Alone on (seqOf ctx i id) ∧ i.nrec ≠ 0) :=
  ⟨⟨routine_seqOf _ _ _ rfl, ⟨rfl, rfl⟩, rfl, rfl, by decide +kernel⟩, ⟨routine_seqOf _ _ _ rfl, ⟨rfl, rfl⟩, by decide⟩⟩

theorem witness_RoutineEndFormsIssue :
    let s := seqIn ctx inv id
    OnRoutine s 0 { ctx with invs := [inv], exp := some (routine id) } (routine id) inv ∧ Issues on s ∧ inv.nrec = 0 ∧
    ({ ctx with invs := [inv], exp := some (routine id) } : Ctx).live inv.uid = false ∧ s.stepOver 0 inv.uid inv.sstep = true :=
  ⟨routine_seqIn _ _ _ rfl, ⟨rfl, rfl, rfl, rfl⟩, rfl, rfl, by decide +kernel⟩

/-! ### The V slot -/

/-- Format table entry 0 names a binary8 format with stochastic rounding. -/
def quant (k : Core) : Core := { k with ft := k.ft.set 0 0x04130101 }

def va (fn : BitVec 4) (ty : BitVec 3) (part : BitVec 4) (c b a d : BitVec 6) : VA := { fn := fn, swz := false, part := part, ty := ty, msk := 0, c := c, b := b, a := a, d := d }

theorem entryOk_quant (q : Bool) : EntryOk (in0 quant) 0 q := ⟨by decide +kernel, fun _ => by decide +kernel⟩
theorem entryOk_in0 : EntryOk (in0 id) 0 false := ⟨by decide +kernel, fun h => nomatch h⟩
theorem typeOk_in0 (ty : BitVec 3) (h : ty ≠ 7) : TypeOk (in0 id) 0 ty := fun h' => absurd h' h

/-- i32 and `.q` types, and a bitwise form on f32; a floating form on f32 and on bf16 with PART 2. -/
theorem witness_VectorElementForms :
    (vecSays (.vadd on (va 1 3 0 0 6 5 4))).isSome = true ∧ (Instr.vadd on (va 1 3 0 0 6 5 4)).fieldsOk = true ∧ Issues on (in0 id) ∧ TypeOk (in0 id) 0 3 ∧
    (vecSays (.vor on (va 0 7 4 0 6 5 4))).isSome = true ∧ (Instr.vor on (va 0 7 4 0 6 5 4)).fieldsOk = true ∧ Issues on (in0 quant) ∧ TypeOk (in0 quant) 0 7 ∧
    (vecSays (.vand on (va 0 0 0 0 6 5 4))).isSome = true ∧ (Instr.vand on (va 0 0 0 0 6 5 4)).fieldsOk = true ∧
    (vecFloatSays (.vfma on (va 0 0 0 7 6 5 4))).isSome = true ∧ (Instr.vfma on (va 0 0 0 7 6 5 4)).fieldsOk = true ∧
    (vecFloatSays (.vlog2 on (va 0 2 2 0 0 5 4))).isSome = true ∧ (Instr.vlog2 on (va 0 2 2 0 0 5 4)).fieldsOk = true :=
  ⟨rfl, rfl, issues_in0 _ rfl, typeOk_in0 _ (by decide), rfl, rfl, issues_in0 _ rfl, fun _ => entryOk_quant _, rfl, rfl, rfl, rfl, rfl, rfl⟩

/-- Conversions of equal width with and without PART, narrowing into the last positions, widening from the last, packing, and unpacking of `.q` and of f16. -/
theorem witness_VectorConversions :
    Issues on (in0 quant) ∧ EntryOk (in0 quant) 0 true ∧ (Instr.vcvt on (va 1 2 0 0 0 5 4)).fieldsOk = true ∧ tyW 1 = tyW 2 ∧ (Instr.vcvt on (va 1 2 2 0 0 5 4)).fieldsOk = true ∧
    (Instr.vcvt on (va 0 7 4 0 0 5 4)).fieldsOk = true ∧ tyW 7 < tyW 0 ∧ (Instr.vcvt on (va 7 0 4 0 0 5 4)).fieldsOk = true ∧
    (Instr.vpack on (va 0 1 0 0 6 5 4)).fieldsOk = true ∧ (Instr.vunpk on (va 15 1 0 0 0 5 4)).fieldsOk = true ∧ (15#4).truncate 3 = 7#3 ∧
    (Instr.vunpk on (va 1 0 0 0 0 5 4)).fieldsOk = true ∧ (1#4).truncate 3 ≠ 7#3 :=
  ⟨issues_in0 _ rfl, entryOk_quant _, rfl, by decide, rfl, rfl, by decide, rfl, rfl, rfl, by decide, rfl, by decide⟩

theorem witness_VectorMasksAndSelects :
    Issues on (in0 id) ∧ (in0 id).cur = .core 0 ∧ (Instr.vcmp on (va 6 0 0 0 6 5 4)).fieldsOk = true ∧ (Instr.vcmp on (va 13 6 8 0 6 5 4)).fieldsOk = true ∧
    (Instr.vsel on (va 0 4 0 7 6 5 4)).fieldsOk = true ∧ TypeOk (in0 id) 0 4 ∧ Clear (in0 id) 5 :=
  ⟨issues_in0 _ rfl, rfl, rfl, rfl, rfl, typeOk_in0 _ (by decide), rfl⟩

theorem witness_VectorReductionsAndScans :
    Issues on (in0 id) ∧ (in0 id).cur = .core 0 ∧ (Instr.vred on (va 0 1 2 0 0 5 4)).fieldsOk = true ∧ (Instr.vred on (va 0 0 0 0 0 5 4)).fieldsOk = true ∧ (Instr.vscan on (va 14 3 0 0 0 5 4)).fieldsOk = true :=
  ⟨issues_in0 _ rfl, rfl, rfl, rfl, rfl⟩

theorem witness_VectorLaneMoves :
    Issues on (in0 id) ∧ TypeOk (in0 id) 0 3 ∧ Clear (in0 id) 5 ∧ Clear (in0 id) 6 ∧ (Instr.vbcst on (va 0 3 0 0 0 5 4)).fieldsOk = true ∧
    (Instr.vbcstLane on (va 1 3 0 0 63 5 4)).fieldsOk = true ∧ (Instr.vmovs on (va 1 4 2 0 63 5 4)).fieldsOk = true ∧ (Instr.vins on (va 0 4 2 0 63 5 4)).fieldsOk = true ∧
    (Instr.vins on (va 0 3 0 0 0 5 4)).fieldsOk = true ∧ (Instr.viota on (va 1 3 0 0 6 5 4)).fieldsOk = true ∧ (Instr.vshuf on (va 1 3 0 7 6 5 4)).fieldsOk = true ∧
    (Instr.vrot on (va 1 3 0 0 6 5 4)).fieldsOk = true :=
  ⟨issues_in0 _ rfl, typeOk_in0 _ (by decide), rfl, rfl, rfl, rfl, rfl, rfl, rfl, rfl, rfl, rfl⟩

/-- Lane 63 of v5 is poisoned. -/
def sour (k : Core) : Core := { k with vp := k.vp.set 5 (1#64 <<< 63) }

/-- Entry 0 names INT8. -/
def quantI (k : Core) : Core := { k with ft := k.ft.set 0 0x00060101 }

theorem witness_VectorClassesAndQuantisation :
    Issues on (in0 id) ∧ (Instr.vclass on (va 0 1 0 0 0 5 4)).fieldsOk = true ∧ TypeOk (in0 id) 0 1 ∧ (∃ F, fmtOf (tyFmt 1 0) = some F ∧ F.isInt = false ∧ F.isFloat = true) ∧
    Issues on (in0 quantI) ∧ (Instr.vclass on (va 0 7 0 0 0 5 4)).fieldsOk = true ∧ TypeOk (in0 quantI) 0 7 ∧
    (∃ F, fmtOf (tyFmt 7 (ftQ ((in0 quantI).core 0).ftNow)) = some F ∧ F.isInt = true ∧ F.isFloat = false) ∧
    (Instr.vterm on (va 0 3 0 0 0 5 4)).fieldsOk = true ∧ (∃ F, fmtOf (tyFmt 3 0) = some F) ∧ Issues on (in0 quant) ∧ (Instr.vqsc on (va 2 7 0 0 0 5 4)).fieldsOk = true ∧
    EntryOk (in0 quant) 0 true ∧ (Instr.vqscEnc on (va 8 7 4 0 6 5 4)).fieldsOk = true ∧ (∀ l, l < 64 → (((in0 id).core 0).getM 0).getLsbD l = true → ((in0 id).core 0).vpsn 5 l = false) ∧
    Issues on (in0 sour) ∧ (((in0 sour).core 0).getM 0).getLsbD 63 = true ∧ ((in0 sour).core 0).vpsn 5 63 = true := by
  refine ⟨issues_in0 _ rfl, rfl, typeOk_in0 _ (by decide), ⟨_, rfl, rfl, rfl⟩, issues_in0 _ rfl, rfl, fun _ => ⟨?_, fun _ => ?_⟩, ⟨.int 8, ?_, rfl, rfl⟩, rfl, ⟨_, rfl⟩, issues_in0 _ rfl,
    rfl, entryOk_quant _, rfl, ?_, issues_in0 _ rfl, ?_, ?_⟩ <;> decide +kernel

/-- A handle of format fmt, slots of 64 · 2^sz bytes, four of them, FILL filled. -/
def hdlF (fmt fill sz : Nat) : Word := BitVec.ofNat 64 (fmt * 2 ^ 56 + 2 ^ 54 + fill * 2 ^ 45 + fill % 4 * 2 ^ 29 + 3 * 2 ^ 21 + sz * 2 ^ 18)

/-- An FP16 ring with two of four slots filled, an untyped one, one empty; 64 words up to the last granted byte, and from byte −8 on under a mask without lanes 0 and 1; a poisoned lane. -/
theorem witness_VectorMemoryForms :
    (let s := in0 (ring (hdlF 2 2 2))
     let h := (s.ringAt (rsH 0x10)).h
     Issues on s ∧ s.cur = .core 0 ∧ hEn h = true ∧ rsOff 0x10 < hSlots h ∧ isVecFmt (hFmt h) = true ∧ (0 + 1) * (64 * (32 / tyW 1) * codeWidth (hFmt h) / 8) ≤ hSize h ∧
     effOff (s.ringAt (rsH 0x10)) (rsOff 0x10) < hFill h ∧ EntryOk s 0 false ∧ hFill h ≤ effOff (s.ringAt (rsH 0x20)) (rsOff 0x20) ∧
     effOff (s.ringAt (rsH 0x10)) (rsOff 0x10) < hSlots h - hFill h ∧ Mem.wf (s.core 0).scr = true) ∧
    (let s := in0 (ring (hdlF 0 2 2))
     Issues on s ∧ hFmt (s.ringAt 0).h = 0 ∧ (0 + 1) * (64 * 1 * 32 / 8) ≤ hSize (s.ringAt 0).h) ∧
    (let s := in0R (sets 6 7936 false)
     let x : Int := (val s 6).toNat + (0#20).toInt
     Issues on s ∧ Clear s 6 ∧ x % 4 = 0 ∧ psn s 6 = false ∧ (∀ l : Nat, l < 64 → 0 ≤ x + 4 * l ∧ s.grantedRange 0 (x + 4 * l).toNat 4 = true ∧ (s.core 0).vpsn 5 l = false)) ∧
    (let s := in0R (fun k => { k with m := k.m.set 3 (~~~3#64) })
     let x : Int := (val s 6).toNat + (0xFFFF8#20).toInt
     Issues on s ∧ Clear s 6 ∧ x % 4 = 0 ∧ x < 0 ∧ (∀ l : Nat, l < 64 → ((s.core 0).getM 3).getLsbD l = true → 0 ≤ x + 4 * l ∧ s.grantedRange 0 (x + 4 * l).toNat 4 = true)) ∧
    (let s := in0R (fun k => sour (sets 6 0 false k))
     Issues on s ∧ Clear s 6 ∧ ((s.core 0).getM 0).getLsbD 63 = true ∧ (s.core 0).vpsn 5 63 = true) := by
  refine ⟨⟨issues_in0 _ rfl, rfl, ?_, ?_, ?_, ?_, ?_, ⟨?_, fun h => nomatch h⟩, ?_, ?_, rfl⟩, ⟨issues_in0 _ rfl, ?_, ?_⟩, ⟨⟨rfl, rfl, rfl, rfl⟩, rfl, ?_, rfl, ?_⟩,
    ⟨⟨rfl, rfl, rfl, rfl⟩, rfl, ?_, ?_, ?_⟩, ⟨⟨rfl, rfl, rfl, rfl⟩, rfl, ?_, ?_⟩⟩ <;> decide +kernel


/-! ### The M slot -/

def mf (aux : BitVec 7) (a : BitVec 6) (b : BitVec 6) : MF := { aux := aux, row := 127, t := true, b := b, a := a }

/-- One entry of the beat queue. -/
def ment (op : MOp) (run : Bool) : MEnt := { op := op, run := run, phase := 0, fail := false, seq := 0 }
def entries (l : List MEnt) (k : Core) : Core := { k with arr := { k.arr with queue := l } }

/-- Room for one entry more, and a full queue; the last image offset; factorisations of order 1 and 128; a ring for tau; untyped and FP16 rings with the last slot named; handler mode. -/
theorem witness_MatrixFormsQueue :
    (let s (v : Word) := in0 (fun k => entries (List.replicate 15 (ment .mswap false)) (sets 6 v false (sets 7 128 false k)))
     Issues on (s 0) ∧ (s 0).cur = .core 0 ∧ (s 0).inHandler = false ∧ ((s 0).core 0).arr.queue.length < 16 ∧ Clean (s 0) 6 ∧ Clean (s 0) 7 ∧ (val (s 524224) 6).toNat % 64 = 0 ∧
     (val (s 524224) 6).toNat < 524288 ∧ ftBad ((s 0).core 0).ftNow = none ∧ 1 ≤ (val (s 1) 6).toNat ∧ (val (s 128) 6).toNat ≤ 128 ∧ (val (s 1) 7).toNat ≤ 128 ∧ 1 ≤ (val (s 1) 7).toNat) ∧
    (let s := in0 (fun k => sets 6 128 false (ring (hdlF 1 2 3) k))
     Issues on s ∧ hEn (s.ringAt 0).h = true ∧ 0 < hSlots (s.ringAt 0).h ∧ 4 * (val s 6).toNat ≤ hSize (s.ringAt 0).h ∧ (hFmt (s.ringAt 0).h).toNat ≤ 1) ∧
    (let s := in0 (ring (hdlF 0 2 3))
     let rs : BitVec 12 := (mf 0 0x30 0).b ++ (mf 0 0x30 0).a
     Issues on s ∧ rsH rs = 0 ∧ hEn (s.ringAt (rsH rs)).h = true ∧ rsOff rs < hSlots (s.ringAt (rsH rs)).h ∧ hFmt (s.ringAt (rsH rs)).h = 0 ∧
     16 * codeWidth (ftA (s.core 0).ftNow) ≤ hSize (s.ringAt (rsH rs)).h ∧ (0 + 1) * 512 ≤ hSize (s.ringAt (rsH rs)).h) ∧
    (let s := in0 (ring (hdlF 2 2 3))
     Issues on s ∧ isVecFmt (hFmt (s.ringAt 0).h) = true ∧ (0 + 1) * (16 * codeWidth (hFmt (s.ringAt 0).h)) ≤ hSize (s.ringAt 0).h ∧ hEn (s.ringAt 0).h = true) ∧
    (let s := in0 (entries (List.replicate 16 (ment .mswap false)))
     Issues on s ∧ s.inHandler = false ∧ 16 ≤ (s.core 0).arr.queue.length) ∧
    Issues on (in0 handling) ∧ (in0 handling).inHandler = true := by
  refine ⟨⟨issues_in0 _ rfl, rfl, ?_, ?_, ⟨rfl, rfl⟩, ⟨rfl, rfl⟩, ?_, ?_, ?_, ?_, ?_, ?_, ?_⟩, ⟨issues_in0 _ rfl, ?_, ?_, ?_, ?_⟩, ⟨issues_in0 _ rfl, ?_, ?_, ?_, ?_, ?_, ?_⟩,
    ⟨issues_in0 _ rfl, ?_, ?_, ?_⟩, ⟨issues_in0 _ rfl, ?_, ?_⟩, issues_in0 _ rfl, ?_⟩ <;> decide +kernel

/-- A factorisation at the queue's head, in progress where run says, with a replacement pivot. -/
def factoring (run : Bool) (fs : Word) (repl : Option Lane) (k : Core) : Core :=
  { k with arr := { k.arr with queue := [ment (.fact 1 true 2 0 false false false 0 0) run], fs := fs, hmode := 2,
                               fact := if run then some { repl := repl, hres := false, halt := false, free := true } else none } }

def isDone : FStep → Bool
  | .done _ _ _ _ _ => true
  | _ => false
def isStop : FStep → Bool
  | .stop => true
  | _ => false

theorem done_of {r : FStep} (h : isDone r = true) : ∃ a b c d e, r = .done a b c d e := by cases r <;> simp_all [isDone]
theorem stop_of {r : FStep} (h : isStop r = true) : r = .stop := by cases r <;> simp_all [isStop]

/-- No factorisation; one stopped; one of order 2 at its first step with pivot 1 and, the tile being zero, with pivot 0; a trap on its way. -/
theorem witness_FactorisationSteps :
    (let s := in0 (factoring true 0x40000000 none)
     Issues on (in0 id) ∧ bit ((in0 id).core 0).arr.fs 30 = false ∧ bits ((in0 id).core 0).arr.fs 2 0 = 0 ∧ ((in0 id).core 0).arr.queue = [] ∧
     Issues on s ∧ bit (s.core 0).arr.fs 30 = true ∧ Clean s 6 ∧ (mf 1 6 0).aux.getLsbD 0 = true ∧ (∃ x, (s.core 0).arr.fact = some x)) ∧
    (let s := in0 (factoring true 1 none)
     Issues on s ∧ bit (s.core 0).arr.fs 30 = false ∧ (s.core 0).hs = none ∧ (s.core 0).arr.queue ≠ []) ∧
    (let k := (at0 (factoring false 0 none)).core 0
     k.arr.queue = [ment (.fact 1 true 2 0 false false false 0 0) false] ∧ k.arr.fact = none ∧ k.hs = none ∧ k.heldAll = false ∧
     k.task.any (fun t => t.stopping.isSome || t.frozen) = false) ∧
    (let k := (at0 (factoring true 1 (some 0x3F800000))).core 0
     k.arr.queue = [ment (.fact 1 true 2 0 false false false 0 0) true] ∧ k.arr.fact = some ⟨some 0x3F800000, false, false, true⟩ ∧ bit k.arr.fs 30 = false ∧ k.ph.redo = [] ∧ fsK k.arr.fs + 1 < 2 ∧
     k.arr.hmode = 2 ∧ ∃ a b c d e, luStep { k.arr with fact := some ⟨none, false, false, true⟩ } (tileNo true) 2 (fsK k.arr.fs) (some 0x3F800000) = .done a b c d e) ∧
    (let k := (at0 (factoring true 1 none)).core 0
     k.arr.fact = some ⟨none, false, false, true⟩ ∧ luStep { k.arr with fact := some ⟨none, false, false, true⟩ } (tileNo true) 2 (fsK k.arr.fs) none = .stop) ∧
    (∃ t l, ((at0 (fun k => { k with async := [mkTrap .zeroPivot 0 0] })).core 0).async = t :: l) ∧ ((at0 id).core 0).stopped = false := by
  refine ⟨⟨issues_in0 _ rfl, ?_, ?_, rfl, issues_in0 _ rfl, ?_, ⟨rfl, rfl⟩, ?_, ⟨_, rfl⟩⟩, ⟨issues_in0 _ rfl, ?_, rfl, ?_⟩, ⟨rfl, rfl, rfl, ?_, rfl⟩, ⟨rfl, rfl, ?_, rfl, ?_, rfl, done_of ?_⟩,
    ⟨rfl, stop_of ?_⟩, ⟨_, _, rfl⟩, ?_⟩ <;> decide +kernel

/-- Core 0 with one entry in its beat queue. -/
def acting (op : MOp) (f : Core → Core) : State := at0 (fun k => entries [ment op false] (f k))

theorem mHead_acting (op : MOp) (f : Core → Core) (h : ((acting op f).core 0).hs.isSome = false) (h' : ((acting op f).core 0).heldAll = false)
    (h'' : ((acting op f).core 0).ph.redo = []) : ((acting op f).core 0).mHead = some (ment op false) := by
  have hq : ((acting op f).core 0).arr.queue = [ment op false] := rfl
  simp [Core.mHead, h, h', h'', hq, ment]

/-- A weight image of 128 segments without a value, of format 0x13: byte 16 of each 64 names the format. -/
def imageFrom (i : Nat) : Nat → Mem
  | 0 => []
  | n + 1 => (64 * i + 16, 0x13) :: imageFrom (i + 1) n
def image (k : Core) : Core := { k with wbuf := imageFrom 0 128 }

theorem get_imageFrom (a n : Nat) : ∀ i, Mem.get (imageFrom i n) a = if a % 64 = 16 ∧ i ≤ a / 64 ∧ a / 64 < i + n then 0x13 else 0 := by
  induction n with
  | zero => intro i; simp only [imageFrom, Mem.get, spGet]; rw [if_neg (by omega)]
  | succ n ih =>
    intro i
    have := ih (i + 1)
    simp only [Mem.get] at this
    simp only [imageFrom, Mem.get, spGet, this]
    by_cases h : 64 * i + 16 = a
    · rw [if_pos h, if_pos (by omega)]
    · by_cases h2 : a < 64 * i + 16
      · rw [if_neg h, if_pos h2, if_neg (by omega)]
      · rw [if_neg h, if_neg h2]; congr 1; simp only [eq_iff_iff]; omega

theorem read_imageFrom (i n : Nat) (h : i < 128) : ∀ j, j + n ≤ 64 → Mem.read (imageFrom 0 128) (64 * i + j) n = Mem.read [(16, 0x13)] j n := by
  induction n with
  | zero => intros; rfl
  | succ n ih =>
    intro j hj
    have e := ih (j + 1) (by omega)
    rw [← Nat.add_assoc] at e
    simp only [Mem.read, get_imageFrom, e]
    congr 2
    have : (64 * i + j) / 64 = i := by omega
    simp only [Mem.get, spGet, this]
    by_cases h16 : j = 16
    · subst h16; rw [if_pos (by omega), if_pos rfl]
    · rw [if_neg (by omega), if_neg (by omega)]; simp

theorem decSeg_congr {rd rd' : Nat → Option (List Byte)} (h : rd 24 = rd' 24) (h64 : rd 64 = rd' 64) (hd : rd' 24 = some (leBytes 24 (Mem.read [(16, 0x13)] 0 24))) :
    decSeg rd = decSeg rd' := by
  have hn : segBytes (codeWidth ((leBytes 24 (Mem.read [(16, 0x13)] 0 24)).getD 16 0)) ((leBytes 24 (Mem.read [(16, 0x13)] 0 24)).getD 17 0).toNat = 64 := by decide +kernel
  unfold decSeg
  rw [h, hd]
  simp only [hn, h64]

/-- The segment at byte 64 i of the image. -/
theorem seg_image (i : Nat) (h : i < 128) : decSeg (fun m => if 64 * i + m ≤ 524288 then some (leBytes m (Mem.read (imageFrom 0 128) (64 * i) m)) else none) =
    decSeg (fun m => some (leBytes m (Mem.read [(16, 0x13)] 0 m))) := by
  have r (m : Nat) (hm : m ≤ 64) : (if 64 * i + m ≤ 524288 then some (leBytes m (Mem.read (imageFrom 0 128) (64 * i) m)) else none) = some (leBytes m (Mem.read [(16, 0x13)] 0 m)) := by
    rw [if_pos (by omega)]
    exact congrArg (fun x => some (leBytes m x)) (read_imageFrom i m h 0 (by omega))
  exact decSeg_congr (r 24 (by omega)) (r 64 (by omega)) rfl

theorem readSegs_image (n : Nat) : ∀ i, i + n ≤ 128 → (readSegs (imageFrom 0 128) 0x13 0 n (64 * i)).isOk = true := by
  have hd : (match decSeg (fun m => some (leBytes m (Mem.read [(16, 0x13)] 0 m))) with
    | .ok g => g.fmt == 0x13 && g.len == 64
    | .error _ => false) = true := by decide +kernel
  obtain ⟨g, hg⟩ : ∃ g, decSeg (fun m => some (leBytes m (Mem.read [(16, 0x13)] 0 m))) = .ok g := by
    revert hd; cases decSeg (fun m => some (leBytes m (Mem.read [(16, 0x13)] 0 m))) <;> simp
  rw [hg] at hd
  simp only [Bool.and_eq_true, beq_iff_eq] at hd
  obtain ⟨hf, hl⟩ := hd
  induction n with
  | zero => intros; rfl
  | succ n ih =>
    intro i hi
    have e := ih (i + 1) (by omega)
    unfold readSegs
    simp only [seg_image i (by omega), hg, hf, hl]
    rw [show 64 * i + 64 = 64 * (i + 1) by omega]
    cases hr : readSegs (imageFrom 0 128) 0x13 0 n (64 * (i + 1)) with
    | ok l => simp [Except.isOk, Except.toBool]
    | error v => rw [hr] at e; exact absurd e (by simp [Except.isOk, Except.toBool])

/-- An image in the weight buffer; a beat from a filled slot into the last row; a drain of the last row into a free slot; the other entries. -/
theorem witness_ArrayEntriesAct :
    (let k := (acting (.mldw 0 0x13 false 0) image).core 0
     k.mHead = some (ment (.mldw 0 0x13 false 0) false) ∧ (acting (.mldw 0 0x13 false 0) image).ldwWaits 0 0 0x13 0 = false ∧ (readSegs k.wbuf 0x13 0 128 0).isOk = true) ∧
    (let k := (acting (.mpush 0 0 true 127 true 0x01 false) (ring (hdlF 0 1 3))).core 0
     k.mHead = some (ment (.mpush 0 0 true 127 true 0x01 false) false) ∧ slotFilled k.rings[0].h 0 = true ∧ k.marked (hByte k.rings[0].h 0) (beatBytes 0x01 false) = false) ∧
    (let k := (acting (.mdrain 0 1 true 127 1 0) (ring (hdlF 0 1 3))).core 0
     k.mHead = some (ment (.mdrain 0 1 true 127 1 0) false) ∧ slotFree k.rings[0].h 1 = true ∧ hFmt k.rings[0].h = 0 ∧ (drainCheck k.arr k.tol true 127 1).1 = none ∧ 127 + 1 ≤ 128 ∧
     Mem.wf k.scr = true) ∧
    ((acting .mswap id).core 0).mHead = some (ment .mswap false) ∧ ((acting (.mzero true) id).core 0).mHead = some (ment (.mzero true) false) ∧
    ((acting (.mhem 2) id).core 0).mHead = some (ment (.mhem 2) false) ∧ ((acting (.mtclr 0x1FF) id).core 0).mHead = some (ment (.mtclr 0x1FF) false) ∧
    ((acting (.mperm true) id).core 0).mHead = some (ment (.mperm true) false) ∧ (∀ i, i < 128 → BitVec.ofNat 8 i ∈ ((acting (.mperm true) id).core 0).arr.perm.toList) := by
  refine ⟨⟨mHead_acting _ _ rfl rfl rfl, ?_, readSegs_image 128 0 (by decide)⟩, ⟨mHead_acting _ _ rfl rfl rfl, ?_, ?_⟩, ⟨mHead_acting _ _ rfl rfl rfl, ?_, ?_, ?_, ?_, rfl⟩,
    mHead_acting _ _ rfl rfl rfl, mHead_acting _ _ rfl rfl rfl, mHead_acting _ _ rfl rfl rfl, mHead_acting _ _ rfl rfl rfl, mHead_acting _ _ rfl rfl rfl, ?_⟩ <;> decide +kernel


/-! ### Engines -/

/-- Core 0 with 6, 7, 8 in s6 .. s8, two handles, the extent and the two granules granted, changed by f. -/
def eng (a b x h q : Word) (f : Core → Core) : State :=
  in0R (fun k =>
    let k := sets 6 a false (sets 7 b false (sets 8 x false (f k)))
    { k with e := k.e.set 0 ext, rings := (k.rings.set 0 { k.rings[0] with h := h }).set 1 { k.rings[1] with h := q } })

def xf (fmt : BitVec 8) (fn : BitVec 4) (imm : BitVec 16) : XF := { imm := imm, tag := 15, fn := fn, fmt := fmt, c := 8, b := 7, a := 6, ofs := 3, h := 0 }

theorem issues_eng (a b x h q : Word) (f : Core → Core) (hf : (eng a b x h q f).enabled on = true) : Issues on (eng a b x h q f) := ⟨rfl, rfl, rfl, hf⟩

/-- The last page: the byte address of the extent from which n bytes end at its end. -/
def back (n : Nat) : Word := BitVec.ofNat 64 (0x40001000 - n)

def cmd (op : BitVec 8) (run fin : Bool) : Cmd :=
  { op := op, fn := 0, h := 0, slot := 0, eff := 0, h2 := 0, slot2 := 0, eff2 := 0, a := 0, b := 0, c := 0, imm := 0, fmt := 0, tag := 3, ft := 0, phase := 0, seq := 0, pc := 0, scyc := 0,
    ss := 0, run := run, unit := 0, moved := 0, fin := fin, acc := [], got := 0 }

/-- A queue with one place free and with none; copies that end at the end of the extent; strided units that fill the ring; a publish; weight columns; a row list, a permutation and an
index list at the end of a granted region; codes, quantisation of one element, a histogram, a fence of one byte group, a fill; XWAIT on a tag that counts nothing and on one that does. -/
theorem witness_EngineCommandsQueue :
    (let s := eng (back 256) 64 64 (hdlF 0 2 0) 0 (fun k => { k with eng := { k.eng with queue := List.replicate 15 (cmd 0x0D false false) } })
     let r := (s.ringAt 0).h
     Issues on s ∧ s.cur = .core 0 ∧ (s.core 0).eng.queue.length < 16 ∧ Clean s 6 ∧ Clean s 7 ∧ Clean s 8 ∧ hEn r = true ∧ (xf 0 0 3).ofs.toNat < hSlots r ∧ (xf 0 0 3).imm.toNat < hSlots r ∧
     (val s 6).toNat % 64 = 0 ∧ s.exCheck 0 (val s 6).toNat (hSize r * (3 + 1)) .read = none ∧
     0 < (val s 8).toNat ∧ (val s 8).toNat ≤ hSize r ∧ (3 + hSize r / (val s 8).toNat) / (hSize r / (val s 8).toNat) ≤ hSlots r ∧
     (∀ i, i ≤ 3 → s.exCheck 0 (val s 6 + BitVec.ofNat 64 i * val s 7).toNat (val s 8).toNat .read = none) ∧
     s.exEnds 0 (val s 6).toNat (hSize r * (3 + 1)) (fun e => !exWr e || exSk e || exCv e) = none ∧ s.exEnds 0 (val s 6).toNat 1 (fun _ => false) = none) ∧
    (let s := eng (back 4096) 4096 524224 0 0 id
     Issues on s ∧ (val s 6).toNat % 64 = 0 ∧ (val s 7).toNat % 64 = 0 ∧ (val s 8).toNat % 64 = 0 ∧ (val s 8).toNat < 524288 ∧ s.exCheck 0 (val s 6).toNat (val s 7).toNat .read = none ∧
     s.exEnds 0 (val s 6).toNat (val s 7).toNat (fun _ => false) = none ∧ val s 7 ≠ 0 ∧ s.exCheck 0 (val s 6).toNat 1152 .read = none) ∧
    (let s := eng (back 128) 0 0 0 0 id
     Issues on s ∧ isBFmt 0x13 = true ∧ (∀ i, i < 128 → s.exCheck 0 (val s 6 + BitVec.ofNat 64 i * val s 7).toNat (16 * codeWidth 0x13) .read = none)) ∧
    (let s := eng 8128 0 0 (hdlF 0 2 0) 0 id
     Issues on s ∧ hEn (s.ringAt 0).h = true ∧ (val s 6).toNat % 64 = 0 ∧ s.grantedRange 0 (val s 6).toNat 64 = true) ∧
    (let s := eng 8064 64 0 (hdlF 0x13 2 1) (hdlF 0x01 2 1) quant
     let r := (s.ringAt 0).h
     let q := (s.ringAt ((xf 0x13 0 0x31).imm.truncate 4)).h
     Issues on s ∧ hEn r = true ∧ hEn q = true ∧ (xf 0x13 0 0x31).imm.toNat / 16 % 256 < hSlots q ∧ hSize r = hSize q ∧ codeWidth 0x13 ≠ 0 ∧ hSize r * 8 / codeWidth 0x13 % 128 = 0 ∧
     (val s 6).toNat % 2 = 0 ∧ s.grantedRange 0 (val s 6).toNat 64 = true ∧ 1 ≤ (hFmt q).toNat ∧ (hFmt q).toNat ≤ 3 ∧ ftBad (s.core 0).ftNow = none ∧ ftQ (s.core 0).ftNow ≠ 0 ∧
     1 ≤ (1#64).toNat ∧ (1#64).toNat ≤ hSize q * 8 / codeWidth (hFmt q) ∧ 33 * ((1 + 31) / 32) ≤ hSize r) ∧
    (let s := eng 0 32 0 (hdlF 0x02 2 0) (hdlF 0x09 2 0) id
     let r := (s.ringAt 0).h
     let q := (s.ringAt 1).h
     Issues on s ∧ 1 ≤ (hFmt r).toNat ∧ (hFmt q).toNat ≤ 9 ∧ (val s 7).toNat ≤ hSize q * 8 / codeWidth (hFmt q) ∧ (val s 7).toNat ≤ hSize r * 8 / codeWidth (hFmt r) ∧
     ftBad (s.core 0).ftNow = none ∧ 4 ≤ (0x09#8).toNat ∧ (val s 7).toNat ≤ hSize r * 8 / codeWidth 0x09 ∧ isVecFmt 0x09 = true) ∧
    (let s := in0 (fun k => { k with eng := { k.eng with queue := List.replicate 16 (cmd 0x0D false false), ntag := k.eng.ntag.set 3 1 } })
     Issues on s ∧ 16 ≤ (s.core 0).eng.queue.length ∧ (xf 0 0 8).imm.getLsbD (3 : Fin 16).val = true ∧ (s.core 0).eng.ntag[(3 : Fin 16)] ≠ 0 ∧
     (∀ t : Fin 16, (xf 0 0 0xFFF7).imm.getLsbD t.val = true → (s.core 0).eng.ntag[t] = 0)) := by
  refine ⟨⟨issues_eng _ _ _ _ _ _ rfl, rfl, ?_, ⟨rfl, rfl⟩, ⟨rfl, rfl⟩, ⟨rfl, rfl⟩, ?_, ?_, ?_, ?_, ?_, ?_, ?_, ?_, ?_, ?_, ?_⟩, ⟨issues_eng _ _ _ _ _ _ rfl, ?_, ?_, ?_, ?_, ?_, ?_, ?_, ?_⟩,
    ⟨issues_eng _ _ _ _ _ _ rfl, ?_, ?_⟩, ⟨issues_eng _ _ _ _ _ _ rfl, ?_, ?_, ?_⟩, ⟨issues_eng _ _ _ _ _ _ rfl, ?_, ?_, ?_, ?_, ?_, ?_, ?_, ?_, ?_, ?_, ?_, ?_, ?_, ?_, ?_⟩,
    ⟨issues_eng _ _ _ _ _ _ rfl, ?_, ?_, ?_, ?_, ?_, ?_, ?_, ?_⟩, ⟨issues_in0 _ rfl, ?_, ?_, ?_, ?_⟩⟩ <;> decide +kernel

/-- A class that holds l, behind the queue q. -/
def classed (cls : Fin 9) (l q : List Cmd) (k : Core) : Core := { k with eng := { k.eng with cls := k.eng.cls.set cls l, queue := q, ntag := k.eng.ntag.set 3 1 } }

def ustep : URes → Nat
  | .done _ _ => 0
  | .wait _ => 1
  | .fail _ _ => 2

theorem u_done {r : URes} (h : ustep r = 0) : ∃ u m, r = .done u m := by cases r <;> simp_all [ustep]
theorem u_wait {r : URes} (h : ustep r = 1) : ∃ u, r = .wait u := by cases r <;> simp_all [ustep]
theorem u_fail {r : URes} (h : ustep r = 2) : ∃ u t, r = .fail u t := by cases r <;> simp_all [ustep]

/-- A contribution to entry 15, armed for two. -/
def ctxL : Ctx := { ctx with latch := ctx.latch.set 15 { ctx.latch[15] with st := 1, n := 2 }, contrib := [⟨0, 0, 15, [1], 0⟩] }

/-- A class with one command and room; a unit that is done (XHLAT's first), one that waits (its second), one that fails (a publish of an address without an extent); a finished command; a
latch entry one contribution short of its last but one; a watch match. -/
theorem witness_EngineEvents :
    (let k := (at0 (classed 7 [cmd 0x0D true false] [cmd 0x0D false false])).core 0
     k.eng.queue = cmd 0x0D false false :: [] ∧ (k.eng.cls[(cmd 0x0D false false).cls]).length < 2 ∧ k.heldAll = false ∧ (k.task.any (·.frozen) && k.beatsOver) = false) ∧
    (let s := at0 (classed 7 [cmd 0x0D false false] [])
     (s.core 0).eng.cls[(7 : Fin 9)] = [cmd 0x0D false false] ∧ (s.core 0).ph.redo = [] ∧ s.mayUnit 0 (cmd 0x0D false false) = true ∧ s.behind 0 (cmd 0x0D false false) = false ∧ (s.core 0).eng.watch = none ∧
     ∃ u m, s.unitStep 0 (BitVec.ofNat 64 (cmd 0x0D false false).seq) (cmd 0x0D false false) = .done u m) ∧
    (let s := at0 (classed 7 [cmd 0x0D true false] [])
     s.behind 0 (cmd 0x0D true false) = false ∧ ∃ u, s.unitStep 0 (BitVec.ofNat 64 (cmd 0x0D true false).seq) (cmd 0x0D true false) = .wait u) ∧
    (let s := at0 (classed 1 [cmd 0x04 false false] [])
     s.behind 0 (cmd 0x04 false false) = false ∧ s.mayUnit 0 (cmd 0x04 false false) = true ∧ ∃ u t, s.unitStep 0 (BitVec.ofNat 64 (cmd 0x04 false false).seq) (cmd 0x04 false false) = .fail u t) ∧
    (let s := at0 (classed 7 [cmd 0x0D true true] [])
     (s.core 0).eng.cls[(7 : Fin 9)] = cmd 0x0D true true :: [] ∧ (s.core 0).advanced (cmd 0x0D true true) = true ∧ (s.core 0).heldAll = false) ∧
    (let s := (at0 id).setCtx 0 ctxL
     s.ctx 0 = some ctxL ∧ ctxL.contrib[0]? = some ⟨0, 0, 15, [1], 0⟩ ∧ ctxL.latch[(15 : Fin 16)].st = 1 ∧ ctxL.latch[(15 : Fin 16)].got + 1 < ctxL.latch[(15 : Fin 16)].n) ∧
    (let k := (at0 (fun k => { k with eng := { k.eng with watch := some (false, 3, 1) }, dbg := { k.dbg with ctl := 1 } })).core 0
     k.eng.watch = some (false, 3, 1) ∧ k.stopped = false ∧ k.armed = true) := by
  refine ⟨⟨rfl, ?_, ?_, rfl⟩, ⟨rfl, rfl, ?_, ?_, rfl, u_done ?_⟩, ⟨?_, u_wait ?_⟩, ⟨?_, ?_, u_fail ?_⟩, ⟨rfl, ?_, ?_⟩, ⟨rfl, rfl, ?_, ?_⟩, ⟨rfl, ?_, ?_⟩⟩ <;> decide +kernel


/-! ### Graphs -/

/-- Sequencer 0 decodes for context x, with the pages mapped and the image loaded. -/
def gr (x : Ctx) : State := { (paged State.reset).setCtx 0 x with imgs := [img], cur := .seq 0 }

theorem decodes_gr (x : Ctx) (h : x.fuse = none) : Decodes (gr x) 0 x := ⟨rfl, rfl, h⟩

/-- A finished graph, one with 16 calls, one at the eighth loop depth's edge, one in a loop, one in a handler. -/
theorem witness_GraphControlForms :
    Decodes (gr ctx) 0 ctx ∧ ctx.reexec = [] ∧ ctx.calls = [] ∧ ctx.ldepth = 1 ∧ ctx.invs = [] ∧ ctx.reply = 0 ∧ (gr ctx).queueOf ctx = none ∧ ctx.calls.length < 16 ∧
    (let x : Ctx := { ctx with calls := List.replicate 15 (0, 1), n := ctx.n.set 1 1, ldepth := 7 }
     Decodes (gr x) 0 x ∧ x.reexec = [] ∧ x.calls.length < 16 ∧ (x.sop (.reg 0)).toInt ≤ 0 ∧ 0 < (x.sop (.reg 1)).toInt ∧ x.ldepth < 8) ∧
    (let x : Ctx := { ctx with calls := (0, 1) :: List.replicate 15 (0, 1), loops := [(3, 2, 0x20010)] }
     Decodes (gr x) 0 x ∧ 16 ≤ x.calls.length ∧ x.calls = (0, x.ldepth) :: List.replicate 15 (0, 1) ∧ x.loops = (3, 2, 0x20010) :: []) ∧
    ftBad 0x101 = none ∧ ftBad 0x40000101 = some 1 ∧ ((5#3).toNat < 6 ∧ ((true = true) → (5#3).toNat < 6)) ∧
    (let x : Ctx := { ctx with intrap := true, trapD := (0, 1) }
     Decodes (gr x) 0 x ∧ x.intrap = true ∧ x.trapD = (x.calls.length, x.ldepth) ∧ x.held = []) ∧ ctx.intrap = false := by
  refine ⟨decodes_gr _ rfl, rfl, rfl, rfl, rfl, rfl, ?_, ?_, ⟨decodes_gr _ rfl, rfl, ?_, ?_, ?_, ?_⟩, ⟨decodes_gr _ rfl, ?_, rfl, rfl⟩, ?_, ?_, ?_, ⟨decodes_gr _ rfl, rfl, rfl, rfl⟩, rfl⟩ <;>
    decide +kernel

/-- A tensor of FP32 without an element, at base b. -/
def empty (b : Nat) : TRec := { recR with fmt := 0x01, base := b, dim := [0, 1, 1, 1, 1, 1] }
def hnd (r : Nat) (t : TRec) : THnd := { addr := some (0x21000 + 128 * r), root := r, tr := t, own := none }

/-- T1, T2 and T3 bound, and a heap of two pages. -/
def ctxT : Ctx := { ctx with hnds := [(1, hnd 1 (empty 0)), (2, hnd 2 (empty 64)), (3, hnd 3 (empty 128))], heap := (0x22000, 8192) }

theorem ok_of {α β : Type} {r : Except α β} (h : r.isOk = true) : ∃ v, r = .ok v := by cases r <;> simp_all [Except.isOk, Except.toBool]
theorem error_of {α β : Type} {r : Except α β} (h : r.isOk = false) : ∃ v, r = .error v := by cases r <;> simp_all [Except.isOk, Except.toBool]

def formOf (x : Ctx) (i : Instr) : OpForm := (opForm x i).getD { ins := i, vpc := 0, op := 0, opx := 0, ts := [], fld := 0, args := [], latchR := none, latchW := none }

/-- A fused group of the members l. -/
def fusing (x : Ctx) (l : List Instr) : Ctx := { x with fuse := some { keep := false, vpc := 0, mem := l.map (formOf x) } }
/-- Nine tensors bound. -/
def ctx9 : Ctx := { ctxT with hnds := (List.range 9).map (fun i => (i + 1, hnd (i + 1) (empty (64 * i)))) }
/-- The operands of the members of a group. -/
def recsIn (x : Ctx) : List (List Opnd) := ((x.fuse.map (·.mem)).getD []).map (fun f => ((x.recsOf f.ts).toOption).getD [])

/-- EWISE with its checks met, an area free and no reader of the latch, the context full but for one place; WSLOAD of no element; an unbound operand; a group with seven members; groups of
two members with three operands and of three with nine. -/
theorem witness_OperatorsEnterFlight :
    (let x : Ctx := { ctxT with fuse := some { keep := false, vpc := 0, mem := [] } }
     (gr x).cur = .seq 0 ∧ (gr x).ctx 0 = some x ∧ x.fuse = some { keep := false, vpc := 0, mem := [] }) ∧
    (let f := formOf ctxT (.ewise 1 2 3 0)
     opForm ctxT (.ewise 1 2 3 0) = some f ∧ ctxT.fuse = none ∧ (∃ r, (gr ctxT).checkOp ctxT f = .ok r) ∧ f.latchR = none ∧ ctxT.invs.length < 32 ∧
     heapFit ctxT.heap ctxT.allocs 8192 = some 0x22000 ∧ (∃ w u, (gr ctxT).zeroArea 0 ctxT 3 0x22000 8192 = .val w u) ∧ decodeRows f [] = none ∧
     decide (0x40 ≤ f.op.toNat ∧ f.op.toNat ≤ 0x55) = true) ∧
    (let f := formOf ctxT (.wsload 1 2)
     opForm ctxT (.wsload 1 2) = some f ∧ (∃ r, (gr ctxT).checkOp ctxT f = .ok r) ∧ (decide (0x40 ≤ f.op.toNat ∧ f.op.toNat ≤ 0x55) || f.op == 0xFF) = false) ∧
    (∃ e, (gr ctxT).checkOp ctxT (formOf ctxT (.ewise 4 2 3 0)) = .error e) ∧
    (let f := formOf ctxT (.ewise 1 2 3 0)
     let g : FGroup := { keep := false, vpc := 0, mem := List.replicate 7 (formOf ctxT (.unary 2 3 0 (.reg 0))) }
     let x : Ctx := { ctxT with fuse := some g }
     (gr x).ctx 0 = some x ∧ opForm x (.ewise 1 2 3 0) = some f ∧ g.mem.length < 8 ∧ groupOk g f = true ∧ ∃ r, (gr x).checkOp x f = .ok r) ∧
    (∀ os f, (gr ctxT).prep 0 ctxT .kernel (ctxT.lazyNeeds os f) [] = .ok [] (gr ctxT)) ∧
    (let f := formOf ctxT (.unary 2 3 0 (.reg 0))
     let g : FGroup := { keep := false, vpc := 0, mem := [f, formOf ctxT (.ewise 1 2 3 0)] }
     let x := fusing ctxT [.unary 2 3 0 (.reg 0), .ewise 1 2 3 0]
     let os := mergeOpnds (recsIn x).flatten
     (gr x).cur = .seq 0 ∧ (gr x).ctx 0 = some x ∧ x.fuse = some g ∧ g.mem = f :: [formOf ctxT (.ewise 1 2 3 0)] ∧ g.mem.map (fun f => x.recsOf f.ts) = (recsIn x).map .ok ∧ os.length ≤ 8 ∧
     (0x40 ≤ f.op.toNat ∧ f.op.toNat ≤ 0x55) ∧ f.latchR = none ∧ x.invs.length < 32 ∧ (∀ r, (recsIn x).head? = some r → (x.lookup f (r.map (·.tr))).getD none = none) ∧
     (gr x).prep 0 x .kernel (x.lazyNeeds os f) [] = .ok [] (gr x) ∧ heapFit x.heap x.allocs 8192 = some 0x22000 ∧ (∃ w u, (gr x).zeroArea 0 x 3 0x22000 8192 = .val w u) ∧
     decodeRows f os = none) ∧
    (let x := fusing ctx9 [.ewise 1 2 3 0, .ewise 4 5 6 0, .ewise 7 8 9 0]
     let g : FGroup := { keep := false, vpc := 0, mem := [formOf ctx9 (.ewise 1 2 3 0), formOf ctx9 (.ewise 4 5 6 0), formOf ctx9 (.ewise 7 8 9 0)] }
     (gr x).ctx 0 = some x ∧ x.fuse = some g ∧ g.mem.map (fun f => x.recsOf f.ts) = (recsIn x).map .ok ∧ 8 < (mergeOpnds (recsIn x).flatten).length) := by
  refine ⟨⟨rfl, rfl, rfl⟩, ⟨rfl, rfl, ok_of ?_, rfl, ?_, ?_, gives_val ?_, ?_, ?_⟩, ⟨rfl, ok_of ?_, ?_⟩, error_of ?_, ⟨rfl, rfl, ?_, ?_, ok_of ?_⟩, fun _ _ => rfl,
    ⟨rfl, rfl, rfl, rfl, rfl, ?_, ?_, rfl, ?_, (fun r h => by cases (show some _ = some r from h); decide +kernel), rfl, ?_, gives_val ?_, ?_⟩,
    rfl, rfl, rfl, ?_⟩ <;> decide +kernel

/-- The eleven NALU forms, the last condition of NCMP, a bound and an unbound handle. -/
theorem witness_ShapeForms :
    Decodes (gr ctxT) 0 ctxT ∧ naluSays (.naluCeildiv 5 (.reg 1) (.imm 3)) ≠ none ∧ (5#3).toNat < 6 ∧ ctxT.hnd 3 = some (hnd 3 (empty 128)) ∧ (3#2).toNat < 4 ∧ ctxT.hnd 0 = none :=
  ⟨decodes_gr _ rfl, by simp [naluSays], by decide, rfl, by decide, rfl⟩

/-- A sound record, of one element of FP32 at 0x21800, and an image of one bundle, in memory at 0x21180 and 0x21000. -/
def rec1 : TRec := { recR with fmt := 0x01, base := 0x21800 }
def grT (x : Ctx) : State :=
  { gr x with mem :=
  [(256, 1), (258, 17), (4294967552, 1), (4294967554, 18), (4294967808, 90), (4294967809, 77), (4294967810, 76), (4294967811, 49), (4294967812, 96), (4294967816, 64), (4294967824, 209),
   (4294967825, 169), (4294967826, 158), (4294967827, 65), (4294967828, 96), (4294967873, 8), (8589934848, 1), (8589934850, 19), (141733921409, 24), (141733921410, 2), (141733921416, 1),
   (141733921417, 1), (141733921419, 1), (141733921424, 1), (141733921428, 1), (141733921432, 1), (141733921436, 1), (141733921440, 1), (141733921444, 1), (141733921448, 1),
   (150323855616, 7), (150323855618, 32), (150323855624, 15), (150323855626, 33), (150323855632, 15), (150323855634, 34), (150323855640, 15), (150323855642, 35)] }

/-- T3 bound to the record, with a scale tensor's twin T4 for TALLOC, and nothing allocated. -/
def ctxM : Ctx :=
  { ctx with hnds := [(3, hnd 3 rec1), (4, hnd 4 { rec1 with base := 0, scl := true, fmt := 0x06 }), (5, hnd 5 { rec1 with base := 0 })], heap := (0x22000, 8192),
             n := ((ctx.n.set 1 0x21180).set 2 0x21800).set 4 0x21000 }

theorem decodes_grT (x : Ctx) (h : x.fuse = none) : Decodes (grT x) 0 x := ⟨rfl, rfl, h⟩

/-- T3 alone bound, and the read of its record. -/
def ctxR : Ctx := { ctxM with hnds := [(3, hnd 3 rec1)] }
def read3 : SeqRes := (grT ctxR).readRec 0 ctxR 0x21180 (fun r s => .val r s)
set_option maxRecDepth 20000 in
set_option exponentiation.threshold 1100 in
theorem read3_osqs : (after read3).osqs = (grT ctxR).osqs := by with_unfolding_all rfl

theorem read3_gives : ∃ r u, read3 = .val r u ∧ u.ctx 0 = some ctxR := by
  obtain ⟨v, u, h⟩ := gives_val (r := read3) (by decide +kernel)
  refine ⟨v, u, h, ?_⟩
  rw [show u = after read3 by rw [h]; rfl]
  exact (congrArg (fun (o : Vector Osq 16) => (o[(0 : Fin 16)]).ctx) read3_osqs).trans rfl

/-- The lines of the image: its first, and both. -/
def lines (s : State) (n : Nat) : SeqRes := s.seqLines 0 ctxM n 0x21000 [] (fun l s => .val (leNat l) s)
def loaded : Img :=
  { num := 0, code := ((leBytes 96 (value (lines (grT ctxM) 2))).zipIdx).foldl (fun (m : Mem) b => m.set b.2 b.1) [], size := 96, dies := teamDies ctxM.team, ofs := 0, sysv := false }

set_option maxRecDepth 20000 in
theorem loaded_crc : loaded.crcOk = true := by decide +kernel

/-- Loads of the last word of a page and of a tensor's only element; a store; TDECL of the record; RFENCE of it and of all; TVIEW of the whole of a dimension and of an unbound handle; TALLOC of a plain and of a
scaled tensor; TFREE; KLOAD of an image of one bundle; KBIND under the first key. -/
theorem witness_GraphMemoryAndHandles :
    Decodes (grT ctxM) 0 ctxM ∧ (∃ v u, (grT ctxM).seqRead 0 ctxM none false 0x21FF8 8 = .val v u) ∧
    (ctxM.hnd 3 = some (hnd 3 rec1) ∧ ctxM.unpublished ctxM.ninv 3 = false ∧ (grT ctxM).spanOf ctxM (hnd 3 rec1).tr = some (0x21800, 0x21803) ∧ (ctxM.sop (.reg 2)).toNat = 0x21800 ∧
      ∃ v u, (grT ctxM).seqRead 0 ctxM none true (ctxM.sop (.reg 2)).toNat 4 = .val v u) ∧
    (∃ v u, (grT ctxM).seqWrite 0 ctxM false 0x21FF8 8 5 = .val v u) ∧
    (Decodes (grT ctxR) 0 ctxR ∧ ctxR.names 3 = false ∧ (ctxR.sop (.reg 1)).toNat = 0x21180 ∧ ctxR.hnds = [(3, hnd 3 rec1)] ∧ (hnd 3 rec1).addr = some 0x21180 ∧
      ∃ r u, read3 = .val r u ∧ u.ctx 0 = some ctxR) ∧
    ((0#3).toNat < (hnd 3 rec1).tr.rank ∧ 0 ≤ (ctxM.sop (.imm 0)).toInt ∧ (ctxM.sop (.imm 0)).toInt + (ctxM.sop (.imm 1)).toInt ≤ (hnd 3 rec1).tr.dim.getD 0 1 ∧ ctxM.hnd 0 = none) ∧
    (let h := hnd 5 { rec1 with base := 0 }
     ctxM.hnd 5 = some h ∧ h.addr = some 0x21280 ∧ h.tr.base = 0 ∧ (∀ e ∈ h.tr.str, 0 ≤ e) ∧ h.tr.scl = false ∧ heapFit ctxM.heap ctxM.allocs h.tr.heapNeed.2 = some 0x22000 ∧
     ∃ v u, (grT ctxM).seqWrite 0 ctxM false 0x21280 8 0x22000 = .val v u) ∧
    (let h := hnd 4 { rec1 with base := 0, scl := true, fmt := 0x06 }
     let w := (grT ctxM).seqWrite 0 ctxM false 0x21200 8 0x22000
     ctxM.hnd 4 = some h ∧ h.addr = some 0x21200 ∧ h.tr.base = 0 ∧ (∀ e ∈ h.tr.str, 0 ≤ e) ∧ h.tr.scl = true ∧ heapFit ctxM.heap ctxM.allocs h.tr.heapNeed.2 = some 0x22000 ∧
     (∃ v u, w = .val v u) ∧ ∃ v u, (after w).seqWrite 0 ctxM false (0x21200 + 88) 8 (0x22000 + h.tr.heapNeed.1) = .val v u) ∧
    (∀ h ∈ ctx.hnds, h.2.addr = none) ∧
    ((∃ h0 u0, lines (grT ctxM) 1 = .val h0 u0 ∧ h0 / 2 ^ 32 % 2 ^ 32 = 96) ∧ (∃ v u, lines (grT ctxM) 2 = .val v u) ∧ loaded.get 14 1 = 0 ∧ loaded.headOk = true ∧ loaded.crcOk = true ∧
      ((after (lines (grT ctxM) 2)).wcsRoom loaded.dies 96 (after (lines (grT ctxM) 2)).imgs.length).isSome = true) ∧
    ((0x40#9).toNat = 0x40 ∧ (ctxM.sop (.imm 0)).toNat < 65536 ∧ img ∈ (grT ctxM).imgs ∧ img.num = (ctxM.sop (.imm 0)).truncate 16 ∧ teamDies ctxM.team &&& ~~~ img.dies = 0 ∧
      ctxM.kt.length < 512) := by
  have hc : loaded.crcOk = true := loaded_crc
  have h0 : ∃ h0 u0, lines (grT ctxM) 1 = .val h0 u0 ∧ h0 / 2 ^ 32 % 2 ^ 32 = 96 := by
    obtain ⟨v, u, h⟩ := gives_val (r := lines (grT ctxM) 1) (by decide +kernel)
    refine ⟨v, u, h, ?_⟩
    rw [show v = value (lines (grT ctxM) 1) by rw [h]; rfl]
    decide +kernel
  refine ⟨decodes_grT _ rfl, gives_val ?_, ⟨rfl, ?_, ?_, ?_, gives_val ?_⟩, gives_val ?_, ⟨decodes_grT _ rfl, ?_, ?_, rfl, rfl, read3_gives⟩, ⟨?_, ?_, ?_, ?_⟩, ⟨rfl, rfl, rfl, ?_, rfl, ?_, gives_val ?_⟩,
    ⟨rfl, rfl, rfl, ?_, rfl, ?_, gives_val ?_, gives_val ?_⟩, (fun _ h => nomatch h), ⟨h0, gives_val ?_, ?_, ?_, hc, ?_⟩, ⟨rfl, ?_, List.mem_singleton.mpr rfl, ?_, ?_, ?_⟩⟩ <;> decide +kernel


/-- A valid and enabled queue 0 for slot 0, with one packet waiting or none. -/
def served (tail : Word) (x : Ctx) : State :=
  { gr x with plat := { Plat.reset with queues := (([(0, 0xC000000000000000), (1, 0x2000000000000000)] : Regs) ++ (if tail = 0 then ([] : Regs) else [(2, tail <<< 32)])) } }

def rep : Report := { cause := .watchdog, kind := true, fvpc := 0, info := 0, tile := 0, hnd := some 3, core := some 5, num := 1, uid := none, tb := 9 }

/-- A signal word on the writable page; a wait that holds and one that does not; an operator in flight; a serving context with a packet, outside and in an update, and without; a fault held with no handler; an image
kernel's invocation that has ended. -/
theorem witness_SignalsFencesAndCompletion :
    (let x : Ctx := { ctx with n := ctx.n.set 1 0x21FF8 }
     Decodes (gr x) 0 x ∧ x.invs = [] ∧ (gr x).plat.reqs = [] ∧ (x.sop (.reg 1)).toNat = 0x21FF8 ∧ (∃ w u, (gr x).signalAtom 0 x 0x21FF8 0 5 = .val w u) ∧
     (∃ w u, (gr x).signalAtom 0 x 0x21FF8 1 5 = .val w u) ∧ (∃ w u, (gr x).seqRead 0 x none true 0x21FF8 8 = .val w u)) ∧
    Decodes (gr { ctx with invs := [inv] }) 0 { ctx with invs := [inv] } ∧ ({ ctx with invs := [inv] } : Ctx).invs ≠ [] ∧
    (let x : Ctx := { ctx with sigWait := some (0, 7, 0x21FF8, 0) }
     (gr x).ctx 0 = some x ∧ x.sigHit = none ∧ ({ x with sigHit := some 5 } : Ctx).sigHit = some 5 ∧ ∃ w u, (gr x).seqRead 0 x none true 0x21FF8 8 = .val w u ∧ sigHolds 0 (BitVec.ofNat 64 w) 0 = true) ∧
    (let x : Ctx := { ctx with awaits := true }
     (served 1 x).ctx 0 = some x ∧ (served 1 x).queueOf x = some 0 ∧ bits ((served 1 x).queueW 0 2) 31 0 ≠ bits ((served 1 x).queueW 0 2) 63 32 ∧ Regs.wf (served 1 x).plat.queues = true ∧
     bit (served 1 x).plat.fwctl 2 = false ∧ bit ({ Plat.reset with fwctl := 4 } : Plat).fwctl 2 = true ∧ (served 0 x).ctx 0 = some x ∧ (served 0 x).queueOf x = some 0 ∧ bits ((served 0 x).queueW 0 2) 31 0 = bits ((served 0 x).queueW 0 2) 63 32) ∧
    (let x : Ctx := { ctx with held := [rep] }
     (gr x).ctx 0 = some x ∧ x.exp = none ∧ x.fuse = none ∧ x.parked = false ∧ x.intrap = false ∧ x.th = 0 ∧ x.held = rep :: []) ∧
    (let i : Inv := { inv with ended := true }
     let x : Ctx := { ctx with invs := [i] }
     (gr x).ctx 0 = some x ∧ x.invs[0]? = some i ∧ (gr x).idleInv 0 x i = true ∧ i.aborted = false ∧ i.img ≠ none ∧ i.ended = true ∧ (gr x).parts = []) := by
  have hw : ∃ w u, (gr { ctx with sigWait := some (0, 7, 0x21FF8, 0) }).seqRead 0 { ctx with sigWait := some (0, 7, 0x21FF8, 0) } none true 0x21FF8 8 = .val w u ∧
      sigHolds 0 (BitVec.ofNat 64 w) 0 = true := by
    obtain ⟨w, u, h⟩ := gives_val (r := (gr { ctx with sigWait := some (0, 7, 0x21FF8, 0) }).seqRead 0 { ctx with sigWait := some (0, 7, 0x21FF8, 0) } none true 0x21FF8 8) (by decide +kernel)
    refine ⟨w, u, h, ?_⟩
    rw [show w = value ((gr { ctx with sigWait := some (0, 7, 0x21FF8, 0) }).seqRead 0 { ctx with sigWait := some (0, 7, 0x21FF8, 0) } none true 0x21FF8 8) by rw [h]; rfl]
    decide +kernel
  refine ⟨⟨decodes_gr _ rfl, rfl, rfl, ?_, gives_val ?_, gives_val ?_, gives_val ?_⟩, decodes_gr _ rfl, ?_, ⟨rfl, rfl, rfl, hw⟩, ⟨rfl, ?_, ?_, ?_, ?_, ?_, rfl, ?_, ?_⟩, ⟨rfl, rfl, rfl, rfl, rfl, rfl, rfl⟩,
    ⟨rfl, rfl, ?_, rfl, ?_, rfl, rfl⟩⟩ <;> decide +kernel

/-! ### Events -/

/-- Sequencer 0 holds the context x, nothing else going on, at tick n. -/
def sx (n : Word) (x : Ctx) : State := { (State.reset.setCtx 0 x) with tb := n, imgs := [img] }

/-- Errors: a word marked in passing and on a read, one in a place no phase meets, two of an idle core. A configuration for a new context. -/
theorem witness_ContextAndCoreEvents :
    ((2 : Fin 12) = 2 ∧ ((2 : Fin 12).val < 2 ∨ (4 ≤ (8 : Fin 12).val ∧ (8 : Fin 12).val ≤ 8)) ∧ (State.reset.core 0).task = none ∧ State.reset.plat.rmode = false ∧
     ((0 : Fin 12).val < 2 ∨ (4 ≤ (0 : Fin 12).val ∧ (0 : Fin 12).val ≤ 8))) ∧
    (State.reset.plat.recov = false ∧ State.reset.plat.off = false ∧ (∀ r x, State.reset.ctx r = some x → x.tag ≠ fetchCfg.tag ∧ x.slot ≠ fetchCfg.slot) ∧
     (∀ x ∈ State.reset.dorm, x.tag ≠ fetchCfg.tag ∧ x.slot ≠ fetchCfg.slot) ∧ (∀ d ∈ State.reset.plat.dumps, d.done = true)) := by
  refine ⟨⟨rfl, ?_, rfl, rfl, ?_⟩, ⟨rfl, rfl, ?_, (fun _ h => nomatch h), fun _ h => nomatch h⟩⟩
  case refine_3 =>
    intro r x h
    have hn : ∀ r, (State.reset.ctx r).isNone = true := by decide +kernel
    have hr := hn r
    rw [h] at hr; cases hr
  all_goals decide

theorem crc64_zeros : ∀ l : List Byte, (∀ b ∈ l, b = 0) → crc64 0 l = 0 := by
  intro l
  induction l with
  | nil => intro _; rfl
  | cons b l ih =>
    intro h
    have hb : b = 0 := h b (List.mem_cons_self ..)
    subst hb
    show List.foldl crc64Byte (crc64Byte 0 0) l = 0
    rw [show crc64Byte 0 0 = 0 by decide +kernel]
    exact ih (fun c hc => h c (List.mem_cons_of_mem _ hc))



/-- With nothing listed and no surface, every byte reads 0. -/
theorem readByte_zero {s : State} (hm : s.mem = []) (hs : ∀ d : Fin 4, (s.dies[d]).surf = []) (ilv a : Nat) : s.readByte ilv a = 0 := by
  have hn : s.surfAt a = none := by
    simp only [State.surfAt, List.findSome?_eq_none_iff]
    intro d _
    rw [hs d]; rfl
  rw [State.readByte, hn, hm]; rfl

theorem readPA_zero {s : State} (h : ∀ ilv a, s.readByte ilv a = 0) (ilv pa n : Nat) : s.readPA ilv pa n = 0 := by
  induction n generalizing pa with
  | zero => rfl
  | succ n ih => rw [State.readPA, h, ih]; rfl

theorem memRun_nil (a n : Nat) : ∀ b ∈ memRun [] a n, b = 0 := by
  induction n generalizing a with
  | zero => simp [memRun]
  | succ n ih =>
    intro b hb
    rcases List.mem_cons.mp hb with rfl | hb
    · rfl
    · exact ih _ b hb

/-- With no error mark, no page carries one. -/
theorem pageUe_none {s : State} (hu : s.ueMarks = []) (a : Nat) : s.pageUe a = false := List.any_eq_false.mpr (fun j _ => by simp [State.ueAt, hu])

/-- A page of zeros under key 0 at address 0 agrees with a tag of 0. -/
theorem pageOk_zeros {s : State} (hk : s.saveK = 0) (hm : s.mem = []) (hs : ∀ d : Fin 4, (s.dies[d]).surf = []) (n : Nat) (ht : s.tagAt 0 n 0 = 0)
    (hu : s.ueMarks = []) : s.pageOk 0 n 0 = true := by
  unfold State.pageOk pageTag
  rw [hk, ht, crc64_zeros _ ?_]
  · rw [pageUe_none hu]; rfl
  intro b hb
  have hz : ∀ b ∈ leBytes 8 0, b = 0 := by decide +kernel
  rcases List.mem_append.mp hb with hb | hb
  · exact hz b hb
  · simp only [State.readPage, List.mem_flatMap] at hb
    obtain ⟨j, -, hb⟩ := hb
    have hn : ∀ a, s.surfAt a = none := by
      intro a
      simp only [State.surfAt, List.findSome?_eq_none_iff]
      intro d _
      rw [hs d]; rfl
    rw [State.readLn, hn] at hb
    simp only [hm, memBytes, List.dropWhile_nil] at hb
    exact memRun_nil _ _ b hb

/-- An area of nothing but zeros under key 0 at address 0 passes the check: its header agrees, and no other page was written. -/
theorem areaOk_empty {s : State} (hk : s.plat.key = some 0) (hm : s.mem = []) (hs : ∀ d : Fin 4, (s.dies[d]).surf = []) (hu : s.ueMarks = []) (n : Nat) :
    s.areaOk 0 n = true := by
  have ht : ∀ p, s.tagAt 0 n p = 0 := fun p => by rw [State.tagAt, State.readP, readPA_zero (readByte_zero hm hs)]; rfl
  unfold State.areaOk
  rw [pageOk_zeros (by rw [State.saveK, hk]; rfl) hm hs n (ht 0) hu]
  simp [ht, pageUe_none hu]

/-- Core 0 runs a task of the context x on sequencer 0 at tick n, changed by f; a replay gave the key 0 of the save areas. -/
def held (n : Word) (x : Ctx) (f : Core → Core) : State :=
  { ((State.reset.setCtx 0 x).modCore 0 (fun k => f { k with task := some task, fr := { k.fr with img := 0, pc := 96, rtn := 64 } })) with
    tb := n, imgs := [img], plat := { Plat.reset with key := some 0 } }

/-- The context lies dormant. -/
def resident : State := { State.reset with dorm := [ctx], plat := { Plat.reset with key := some 0 } }
theorem surf_resident : ∀ d : Fin 4, (resident.dies[d]).surf = [] := by decide +kernel
theorem area_ctx : ctx.area.toNat = 0 := by decide
theorem page_resident : resident.areaOk ctx.area.toNat ctxPages = true := by
  rw [area_ctx]
  exact areaOk_empty (s := resident) rfl rfl surf_resident rfl ctxPages

/-- A context with the invocation, a record of one chunk, and an image under a key. -/
def wrec : WRec := { inv := 0, ord := 0, raw := [], consts := [], latch := none, total := some 1, next := 0, back := [], out := 0, ready := some 0, first := 0, defer := 0, defWin := 0 }
def ctxC : Ctx := { ctx with invs := [inv], recs := [wrec] }

/-- An active context and its dormant state; a team on the die of the image, with and without an invocation; no request for pre-emption and one of 200 µs, the core's load outstanding or answered. -/
theorem witness_ContextAndCoreEvents_2 :
    ((sx 0 ctx).ctx 0 = some ctx ∧ ctx.saved = [] ∧ ctx.tag = ctx.tag ∧ ctx.invs = [] ∧ ctx.preReq = none) ∧
    (resident.ctx 0 = none ∧ resident.dorm = [ctx] ∧ ctx.saved = [] ∧ resident.areaOk ctx.area.toNat ctxPages = true) ∧
    (let x : Ctx := { ctx with kt := [(0x40, 0, 0)] }
     (sx 0 x).ctx 0 = some x ∧ x.invs = [] ∧ (1 : BitVec 40) ≠ 0 ∧ (sx 0 x).img 0 = some img ∧ teamDies 1 &&& ~~~ img.dies = 0 ∧ ctxC.invs ≠ []) ∧
    (let s := held 200000 { ctxC with preReq := some 0 } (waits 6)
     s.hardDue 0 = true ∧ s.drained 0 = false) ∧
    ((held 0 ctxC id).core 0).task = some task ∧ task.osq = 0 ∧
    (let x : Ctx := { ctxC with preReq := some 0 }
     let s := held 200000 x id
     s.hardDue 0 = true ∧ s.drained 0 = true ∧ (s.core 0).task = some task ∧ s.taskInv 0 = some inv ∧ s.ctx task.osq = some x) := by
  refine ⟨⟨rfl, rfl, rfl, rfl, rfl⟩, ⟨rfl, rfl, rfl, page_resident⟩, ⟨rfl, rfl, ?_, rfl, ?_, ?_⟩, ⟨?_, ?_⟩, rfl, rfl, ⟨?_, ?_, rfl, rfl, rfl⟩⟩ <;> decide +kernel

/-- A rebuild of a task whose record names no operand. -/
def builds : Built → Bool
  | .ok _ _ => true
  | _ => false
theorem builds_ok {r : Built} (h : builds r = true) : ∃ l s, r = .ok l s := by cases r <;> simp_all [builds]

/-- A core save area at 0 whose pages and tags are zeros. -/
def ctxS : Ctx := { ctxC with saved := [0] }
def saved : Saved := { area := 0, soft := true, live := 0, k := (held 0 ctxS id).core 0 }
def sleeping : State := { State.reset.setCtx 0 ctxS with saves := [saved], plat := { Plat.reset with key := some 0 } }
theorem surf_sleeping : ∀ d : Fin 4, (sleeping.dies[d]).surf = [] := by decide +kernel
theorem page_sleeping : sleeping.areaOk 0 corePages = true := areaOk_empty (s := sleeping) rfl rfl surf_sleeping rfl corePages

/-- A task to resume; a chunk to hand out, and the same while a clock change waits; a new window, cool and at a trip point, and the same; a watchdog at its period; extents that a shootdown meets under an irrevocable phase;
a parked task. -/
theorem witness_ContextAndCoreEvents_3 :
    (sleeping.ctx 0 = some ctxS ∧ (0 : BitVec 52) ∈ ctxS.saved ∧ ctxS.preReq = none ∧ sleeping.saves.find? (fun v => v.area == (0 : BitVec 52).toNat) = some saved ∧
      sleeping.areaOk 0 corePages = true ∧ (∃ r, sleeping.freeCores ctxS = 0 :: r) ∧ saved.k.task = some task ∧ ctxS.inv task.inv = some inv ∧ sleeping.plat.clkPend = none ∧
      ∃ l w, (let t' : Task := { task with osq := 0, parked := false, frozen := false, stopping := none }
        (sleeping.setCore 0 { ((sleeping.core 0).restored saved.k inv saved.soft saved.live).closed ctxS with
           k := (saved.k.k).set 7 (setBits (saved.k.k[7]) 8 0 0), tilectx := ctxS.tag, task := some t', idle := sleeping.tb.toNat, wper := sleeping.plat.wdog, mbox := saved.k.mbox }).rebuild 0 t') = .ok l w) ∧
    (let s := sx 0 ctxC
     s.plat.clkPend = none ∧ s.plat.off = false ∧ (s.armRecs 0).ctx 0 = some ctxC ∧ ctxC.preReq = none ∧ (∃ l, s.freeCores ctxC = 0 :: l) ∧ (ctxC.offers s.tb.toNat).head? = some wrec ∧
     (∃ o, wrec.offer = some o ∧ (s.armRecs 0).charge wrec o.2 ≤ ((s.armRecs 0).dies[Fin.ofNat 4 ((0 : Fin 320).val / 80)]).budget) ∧ (s.armRecs 0).eligible ctxC 0 = some wrec ∧
     ∀ r : Fin 16, r ≠ 0 → (s.ctx r).isNone = true) ∧
    ({ State.reset with plat := { Plat.reset with clkPend := some 1 } } : State).plat.clkPend ≠ none ∧
    windowOf (sx 10000 ctx).tb.toNat ≠ (sx 10000 ctx).plat.window ∧ windowOf (sx 9999 ctx).tb.toNat = (sx 9999 ctx).plat.window ∧ (sx 10000 ctx).plat.off = false ∧
    (∀ d : Fin 5, bits (sx 10000 ctx).plat.therm[d] 15 0 < 16 * bits (sx 10000 ctx).plat.therm[d] 47 40) ∧ (sx 10000 ctx).rec_ = false ∧
    (let p : Plat := { Plat.reset with therm := Plat.reset.therm.set 4 0x0000690000000690 }
     16 * bits p.therm[(4 : Fin 5)] 47 40 ≤ bits p.therm[(4 : Fin 5)] 15 0) ∧
    (let s := held 10000000 ctxC id
     (s.core 0).task = some task ∧ (s.core 0).counting = true ∧ (s.core 0).wper + (s.core 0).idle ≤ s.tb.toNat) ∧
    (State.reset.core 0).task = none ∧ (∀ d, (State.reset.core d).task.isNone = true) ∧
    (let s := held 0 ctxC (fun k => { mapped 0 k with ph := { k.ph with irrev := true } })
     (∀ d, d ≠ 0 → (s.core d).task.isNone = true) ∧ (s.core 0).task = some task ∧ s.slotOf 0 = ctx.slot.toNat ∧ (s.core 0).revokes 0x40000FFF 1 = true ∧ task.parked = false ∧
     (s.core 0).ph.irrev = true) ∧
    (let k : Task := { task with parked := true }
     let s := held 0 ctxC (fun c => { c with task := some k })
     (s.core 0).task = some k ∧ k.parked = true ∧ s.plat.shoots = [] ∧
     (∃ h ∈ [({ slot := ctx.slot, va := 0, len := 1, acks := 0 } : Shoot)], h.slot.toNat = s.slotOf 0) ∧ ∃ l u, s.rebuild 0 k = .ok l u) := by
  refine ⟨⟨rfl, ?_, rfl, rfl, page_sleeping, ⟨_, rfl⟩, rfl, rfl, rfl, builds_ok ?_⟩, ⟨rfl, rfl, rfl, rfl, ⟨_, rfl⟩, rfl, ⟨_, rfl, ?_⟩, rfl, ?_⟩, ?_, ?_, ?_, ?_, ?_, ?_, ?_, ⟨rfl, ?_, ?_⟩, rfl, ?_,
    ⟨?_, rfl, ?_, ?_, rfl, rfl⟩, ⟨rfl, rfl, rfl, ⟨_, List.mem_singleton.mpr rfl, ?_⟩, builds_ok ?_⟩⟩ <;> decide +kernel


/-! ### The fabric, debugging, the platform -/

theorem core_reset (c : Fin 320) : State.reset.core c = Core.reset := by simp [State.core, State.reset]

/-- Port 15 is up or training, with one flit unacknowledged and n replays. -/
def linked (up : Bool) (n : Nat) : State :=
  { State.reset with plat := { Plat.reset with ports := Plat.reset.ports.set 15 { Port.reset with up := up, train := !up, unack := [mkFlit 0 0 0 0xFFF], replays := n, seqRx := 0xFFF } } }

/-- A read of a line of device 5 that left at tick 0. -/
def req : FReq :=
  { unit := .core 0, dev := 5, addr := 0, kind := 0, op := 0, n := 64, tick := 0, uid := 0, osq := 0, mask := 0, data := 0, blocked := false, st := 0, reason := 0, lim := 10000 }
def sent (l : List FReq) : State := { State.reset with tb := 10000, plat := { Plat.reset with reqs := l } }

/-- Exposure 0 is the lowest page, for all rights, exposure 255 the highest of HBM, of doorbells; list 63 admits source 7 with any tag. Queue 63 is valid with its door on the last line. -/
def exposed : State :=
  { State.reset with plat := { Plat.reset with expo := [(0, 0x000000FC0000000F), (510, 0xFFFF00FD0000000F), (511, 0x0007FFFFFF0007FF)],
                                               acl := [(1008, 0xC000000000070000)], queues := [(252, 0xC000000000000000), (253, 0x0000007FFFFFFFC0)] } }

def rq (a : BitVec 52) (n : Nat) : Req := { src := 7, ctx := 1, addr := a, len := n, mask := BitVec.allOnes 64, data := 0x0101, op := 0, wide := true }


theorem nowatch_of {s : State} (hs : ∀ c, s.core c = Core.reset) : NoWatch s := fun c i h => by
  rw [hs c]
  have hi : ∀ i : Fin 4, bit (Core.reset.sys.get (0x48 + i.val)) 0 = false := by decide
  exact hi ⟨i, h⟩

set_option maxRecDepth 20000 in
theorem flit_good : flitOk (mkFlit 0 0 0 0xFFF) = true := by decide +kernel
set_option maxRecDepth 20000 in
theorem flit_bad : flitOk (mkFlit 0 0 0 0xFFF ^^^ 1) = false := by decide +kernel

/-- The home set of the line at 0xFC0 is full, its last line under a live stamp, and base die 3 has no spill table. -/
def crowded : State :=
  { exposed with stamps := [{ line := 500363952320, core := 0, kind := 0, inv := 0, osq := 0, ss := 0, many := false, scope := 0 }],
                 dies := exposed.dies.set 3 { Die.reset with msc := [(49155, List.range 15 ++ [500363952320])] } }
/-- List 63 admits the host; device 7 is reached by port 15. -/
def hosted : State := { exposed with plat := { exposed.plat with acl := [(1008, 0xC00000000FFF0000)] } }
def routed : State :=
  { exposed with plat := { exposed.plat with routes := [(7, 0x800000000000000F)], porten := 0x8000, ports := Plat.reset.ports.set 15 { Port.reset with up := true } } }

theorem some_of {α : Type} {o : Option α} (h : o.isSome = true) : ∃ e, o = some e := Option.isSome_iff_exists.mp h

set_option maxRecDepth 20000 in
/-- The highest port: a flit in order and good, one out of order, one not good; a replay of the flit that is unacknowledged, the 16th; training. A request overdue with one behind it; one to answer.
Requests to the last bytes of an exposure, to none, to a doorbell line and to part of one, the last doubleword, each where its home set has room and where it has none; a host's doorbell 63,
its reads within its rights and outside; a source with a route and one without. A mailbox request. -/
theorem witness_FabricEvents :
    (let s := linked true 15
     let t0 := s.plat.ports[(15 : Fin 16)]
     s.plat.rmode = false ∧ t0.up = true ∧ t0.train = false ∧ s.plat.reqs = [] ∧ flSeq (mkFlit 0 0 0 0xFFF) = t0.seqRx ∧ flitOk (mkFlit 0 0 0 0xFFF) = true ∧
     flSeq (mkFlit 0 0 0 0) ≠ t0.seqRx ∧ flitOk (mkFlit 0 0 0 0xFFF ^^^ 1) = false ∧ (∃ g ∈ t0.unack, flSeq g = 0xFFF) ∧
     16 ≤ ((linked true 16).plat.ports[(15 : Fin 16)]).replays ∧ ((linked false 0).plat.ports[(15 : Fin 16)]).train = true ∧ (linked false 0).plat.reqs = [] ∧
     s.plat.outq = [] ∧ (linked false 0).plat.outq = []) ∧
    ((sent [req, req]).plat.reqs[0]? = some req ∧ req.st = 0 ∧ req.held = false ∧ req.tick + req.lim ≤ (sent [req, req]).tb.toNat ∧
     (∀ x ∈ (sent [req, req]).plat.reqs, ((sent [req, req]).ctx x.osq).isNone = true)) ∧
    ((sent [req]).plat.reqs = [req] ∧ req.blocked = false ∧ req.dev ≠ 0xFFF ∧ (sent [req]).routeWait req.dev = false ∧ req.posted = false ∧ ({ req with kind := 1 } : FReq).posted = true ∧
     (sent [req]).plat.rmode = false ∧ (sent [req]).plat.outq = []) ∧
    (let r := rq 0xFFF 1
     reqFits r = true ∧ exposed.isDoor r.addr.toNat = false ∧ (exposed.letIn r.src r.ctx r.addr.toNat r.len 1).1 = none ∧ isHbm r.addr.toNat = true ∧ Plain exposed ∧ NoWatch exposed ∧
     MemOk exposed ∧ exposed.plat.outq = [] ∧ exposed.spillOver ((exposed.inLine r.addr.toNat).writeLine r) = none ∧ crowded.plat.outq = [] ∧
     (crowded.letIn r.src r.ctx r.addr.toNat r.len 1).1 = none ∧ Plain crowded ∧ NoWatch crowded ∧ MemOk crowded ∧
     (∃ d, crowded.spillOver ((crowded.inLine r.addr.toNat).writeLine r) = some d) ∧ reqFits (rq 0x1000 1) = true ∧
     (∃ e, (exposed.letIn 7 1 (rq 0x1000 1).addr.toNat 1 1).1 = some e)) ∧
    (let r := rq 0xFC0 64
     reqFits r = true ∧ (exposed.letIn r.src r.ctx r.addr.toNat r.len 0).1 = none ∧ exposed.isDoor (r.addr.toNat / 64 * 64) = false ∧
     exposed.spillOver ((exposed.inLine (r.addr.toNat / 64 * 64)).noteCv (r.addr.toNat / 64 * 64) 64) = none ∧ reqFits (rq 0x1000 64) = true ∧
     (∃ e, (exposed.letIn 7 1 (rq 0x1000 64).addr.toNat 64 0).1 = some e)) ∧
    ((exposed.letIn 7 1 (rq 0x1000 1).addr.toNat 1 1).1 ≠ none ∧ exposed.isDoor (rq 0x1000 1).addr.toNat = false) ∧
    (let r := rq 0x7FFFFFFFC0 64
     exposed.isDoor r.addr.toNat = true ∧ (exposed.letIn r.src r.ctx (r.addr.toNat / 64 * 64) 64 1).1 = none ∧ reqFits r = true ∧ (exposed.letIn r.src r.ctx r.addr.toNat r.len 0).1 = none ∧
     exposed.isDoor (r.addr.toNat / 64 * 64) = true ∧ (exposed.enqueue r.src r.ctx r.addr.toNat (reqBytes r) r.data).1 = none ∧
     exposed.spillOver (exposed.enqueue r.src r.ctx r.addr.toNat (reqBytes r) r.data).2 = none ∧
     reqFits (rq 0x7FFFFFFFC0 1) = true ∧ ∃ why, (exposed.enqueue 7 1 (rq 0x7FFFFFFFC0 1).addr.toNat (reqBytes (rq 0x7FFFFFFFC0 1)) 0x0101).1 = some why) ∧
    (let r := rq 0xFF8 8
     r.addr.toNat % (if r.wide then 8 else 4) = 0 ∧ (exposed.letIn r.src r.ctx r.addr.toNat (if r.wide then 8 else 4) 2).1 = none ∧ exposed.parts = [] ∧
     exposed.isDoor r.addr.toNat = false ∧ (let t (s : State) := ((s.inLine r.addr.toNat).atomHome r.op 0 r.addr.toNat 8 0x0101 0).2
       exposed.spillOver (t exposed) = none ∧ ∃ d, crowded.spillOver (t crowded) = some d) ∧ exposed.frameIlv r.addr.toNat = 0) ∧
    (exposed.plat.rmode = false ∧ exposed.rec_ = false ∧ (rq 0xFC0 64).op = 0 ∧
     (let r : Req := { rq 0xFC0 64 with op := 1 }
      r.op ≠ 0 ∧ r.addr.toNat < 4096 ∧ bit (exposed.queueW (r.addr.toNat / 64) 0) 63 = true ∧
      reqFits { r with src := 0xFFF, ctx := 0, addr := BitVec.ofNat 52 (bits (exposed.queueW (r.addr.toNat / 64) 1) 51 6 * 64 + r.addr.toNat % 64) } = true) ∧ exposed.plat.off = false ∧
     (rq 0xFC0 64).addr.toNat < exposed.plat.bar2 ∧ isHbm (rq 0xFC0 64).addr.toNat = true ∧
     (let q : Req := { rq 0xFC0 64 with src := 0xFFF, ctx := 0 }
      exposed.hostReq (rq 0xFC0 64) = some q ∧ hosted.hostReq (rq 0xFC0 64) = some q ∧ reqFits q = true ∧ (exposed.letIn q.src q.ctx q.addr.toNat q.len 0).1 ≠ none ∧
      (hosted.letIn q.src q.ctx q.addr.toNat q.len 0).1 = none ∧ hosted.isDoor (q.addr.toNat / 64 * 64) = false ∧
      hosted.spillOver ((hosted.inLine (q.addr.toNat / 64 * 64)).noteCv (q.addr.toNat / 64 * 64) 64) = none ∧ hosted.plat.off = false ∧ hosted.rec_ = false ∧ hosted.plat.rmode = false)) ∧
    (exposed.routeOf 7 = none ∧ routed.routeOf 7 = some 15 ∧ (routed.plat.ports[(15 : Fin 16)]).unack.length + 2 ≤ 2048 ∧ routed.plat.outq = []) := by
  have f1 := flit_good
  have f2 := flit_bad
  refine ⟨⟨rfl, ?_, ?_, rfl, ?_, f1, ?_, f2, ?_, ?_, ?_, rfl, rfl, rfl⟩, ⟨rfl, rfl, rfl, ?_, ?_⟩, ⟨rfl, rfl, ?_, ?_, rfl, rfl, rfl, rfl⟩,
    ⟨?_, ?_, ?_, ?_, ⟨rfl, ?_, rfl⟩, nowatch_of core_reset, rfl, rfl, ?_, rfl, ?_, ⟨rfl, ?_, rfl⟩, nowatch_of core_reset, rfl, some_of ?_, ?_, some_of ?_⟩, ⟨?_, ?_, ?_, ?_, ?_, some_of ?_⟩, ⟨?_, ?_⟩,
    ⟨?_, ?_, ?_, ?_, ?_, ?_, ?_, ?_, some_of ?_⟩, ⟨?_, ?_, rfl, ?_, ⟨?_, some_of ?_⟩, ?_⟩,
    ⟨rfl, rfl, rfl, ⟨?_, ?_, ?_, ?_⟩, rfl, ?_, ?_, ⟨rfl, rfl, ?_, ?_, ?_, ?_, ?_, rfl, rfl, rfl⟩⟩, ⟨?_, ?_, ?_, rfl⟩⟩
  case refine_5 => exact ⟨mkFlit 0 0 0 0xFFF, List.mem_singleton.mpr rfl, by decide +kernel⟩
  all_goals decide +kernel

def debugged (ctl stat : Word) (f : Core → Core) : State := held 0 ctxC (fun k => f { k with dbg := { k.dbg with ctl := ctl, stat := stat } })
def halter (src stat : Word) (pend : Option (Nat × BitVec 7 × BitVec 9)) : State := { State.reset with tb := 164, plat := { Plat.reset with hsrc := src, hstat := stat, hpend := pend, hpin := some 164 } }

/-- A running and a stopped core; a write of the first and last word of the window; a sample, and a tick whose sample is taken; the halter armed with its pin, a firing whose 64 ticks are over, without and with STOP; a core that is to stop; a replay with one arrival. -/
theorem witness_DebugEvents :
    (let s : State := { debugged 9 0 id with tb := 4096 }
     (s.core 0).task ≠ none ∧ (s.core 0).stopped = false ∧ bit (s.core 0).dbg.ctl 3 = true ∧ s.tb.toNat % 2 ^ (12 + (s.core 0).dbg.sper) = 0 ∧ s.tb.toNat ≠ (s.core 0).dbg.last ∧
     State.reset.tb.toNat = (State.reset.core 0).dbg.last) ∧
    (let s := debugged 1 1 id
     (s.core 0).stopped = true ∧ (s.core 0).dbg.win = [] ∧ (s.core 0).winBad (0x81000 - 0x80000) 5 = false ∧ (s.core 0).winBad (0xD8FF8 - 0x80000) 5 = false) ∧
    (let s := halter 0x50 0 none
     s.plat.hpend = none ∧ bit s.plat.hstat 63 = false ∧ bit s.plat.hsrc 6 = true ∧ bit s.plat.hsrc 4 = true ∧ s.plat.rmode = false ∧ s.plat.hpin = some 164 ∧ 164 ≤ s.tb.toNat) ∧
    (let s := halter 0 0 (some (164, 7, 0x1FF))
     s.plat.hpend = some (164, 7, 0x1FF) ∧ 164 ≤ s.tb.toNat ∧ 164 < 2 ^ 47) ∧
    (let s : State := { debugged 1 0 id with tb := 164, plat := { Plat.reset with hstop := [200, 164] } }
     164 ∈ s.plat.hstop ∧ 164 ≤ s.tb.toNat ∧ (s.core 0).armed = true ∧ (s.core 0).stopped = false) ∧
    (let s := at0 (fun k => { k with dbg := { k.dbg with halt := true } })
     s.cur = .core 0 ∧ (s.core 0).task = some task ∧ task.parked = false ∧ task.frozen = false ∧ task.exiting = false ∧ task.stopping = none ∧ (s.core 0).stopped = false ∧
     (s.core 0).ph.redo = [] ∧ (s.core 0).held = [] ∧ (s.core 0).dbg.halt = true) ∧
    (let r : RepRec := { seq := 0, typ := 4, src := 15, tick := 0, payload := [1] }
     let s : State := { State.reset with plat := { Plat.reset with rmode := true, replay := [r] } }
     s.plat.rmode = true ∧ s.lateError = false ∧ s.plat.replay = [r] ∧ r.typ = 4 ∧ r.src = 15 ∧ r.tick = s.tb.toNat ∧ (15#8).toNat < 16) := by
  refine ⟨⟨?_, ?_, ?_, ?_, ?_, ?_⟩, ⟨?_, rfl, ?_, ?_⟩, ⟨rfl, ?_, ?_, ?_, rfl, rfl, ?_⟩, ⟨rfl, ?_, ?_⟩, ⟨?_, ?_, ?_, ?_⟩, ⟨rfl, rfl, rfl, rfl, rfl, rfl, rfl, rfl, rfl, rfl⟩, ⟨rfl, ?_, rfl, rfl, rfl, ?_, ?_⟩⟩ <;> decide +kernel


/-- Entry 8191 of die 0 keeps its second backing at page 1, without V. -/
def cloaked : State := { State.reset with dies := State.reset.dies.set 0 { Die.reset with cloak := [(8191, 0x00000000010000000000000000000000)] } }
/-- A queue block at address 0 whose first copy is 60 zeros under their CRC, generation 0. -/
def blocked : State := { State.reset with mem := [(124, 0x31), (125, 0x05), (126, 0x0B), (127, 0x5A)] }
def updating : State := { State.reset with tb := 100000000, plat := { Plat.reset with upd := some (0, 90000000) } }

/-- The header of an image of the highest security version, which no fuses refuse. -/
def header : List Byte := [0x53, 0x48, 0x58, 0x39, 255, 255, 255, 255]
theorem header_ok (s : State) (h : Config.signatureOk header = true) : s.imageOk header = true := by
  have := s.secVer.isLt
  simp only [State.imageOk, Machine.imageOk, h, Bool.and_true, Bool.and_eq_true, decide_eq_true_eq]
  exact ⟨rfl, Nat.le_of_lt_succ this⟩

/-- A boot with an image in one slot and none in the other; an image whose signature is good or not, under the highest security version, one without the magic, and an update that pends; an update whose ten milliseconds are over, a core silent for 100; a block that agrees; a clock write without and with a task; a cloak entry that may stand;
exposure 255 written whole and to be valid; slots, routes and queues at their highest number with the highest legal value and the first that is none. -/
theorem witness_PlatformEvents :
    (let cfg : BootCfg :=
       { rec_ := false, lpt := 3, rein := true, log := 0, dev := 0xFFD, pod := 0xFF, dieMhz := 2000, serial := [],
         flatf := true, darb := true, isM := false, cxl := true, hdm := (0, 2 ^ 39), tier2 := 0, replay := none, tb := 5, bar2 := 2 ^ 39,
         flash := some [(2, false, header)], fetched := none }
     cfg.rec_ = false ∧ cfg.replay = none ∧ (Config.signatureOk header = true → imageOk State.reset.secVer (flashAt (cfg.flash.getD []) 2 false) = true) ∧
     imageOk State.reset.secVer (flashAt (cfg.flash.getD []) 2 true) = false) ∧
    (bit State.reset.plat.fwctl 2 = false ∧ State.reset.plat.off = false ∧ State.reset.plat.blocks = [] ∧ (∀ image, Config.signatureOk image = true ∨ Config.signatureOk image = false) ∧
      (Config.signatureOk header = true → State.reset.imageOk header = true) ∧ ([] : List Byte).take 4 ≠ [0x53, 0x48, 0x58, 0x39] ∧
      bit ({ Plat.reset with fwctl := 4 } : Plat).fwctl 2 = true ∧ ({ Plat.reset with off := true } : Plat).off = true) ∧
    (updating.plat.upd = some (0, 90000000) ∧ updating.plat.handOk = false ∧ State.reset.plat.upd = none ∧
      Mem.wf State.reset.plat.hub = true ∧ updating.plat.blocks = [] ∧ 90000000 + 10000000 ≤ updating.tb.toNat ∧ updating.plat.hbTick[(5 : Fin 6)] + 100000000 ≤ updating.tb.toNat) ∧
    (let sel := BitVec.ofNat 64 (blocked.readP 0 8)
     let copy := blocked.readL (0 + 64 + 64 * bits sel 0 0) 64
     (crc32c (copy.take 60)).toNat = leNat (copy.drop 60) ∧ leNat ((copy.drop 32).take 8) = bits sel 63 32 ∧ bits (BitVec.ofNat 64 (leNat (copy.take 8))) 61 58 ≤ 8 ∧
     Regs.wf blocked.plat.queues = true) ∧
    (State.reset.rec_ = false ∧ (∀ c, (State.reset.core c).task.isNone = true) ∧ ((at0 id).core 0).task ≠ none ∧ (∀ q, (State.reset.ctx q).isNone = true) ∧ State.reset.dorm = [] ∧ State.reset.plat.dumps = []) ∧
    (Regs.wf State.reset.plat.spill = true ∧ State.reset.plat.spill.get (2 * 3 + 1) = 0 ∧ 16 * State.reset.spilled 3 ≤ bits (0 : Word) 31 0 * 4096 ∧
     ({ State.reset with plat := { Plat.reset with spill := [(7, 1)] } } : State).plat.spill.get (2 * 3 + 1) ≠ 0) ∧
    (let old := spGet 0 (cloaked.dies[(0 : Fin 4)]).cloak 8191
     let w : BitVec 128 := old.extractLsb' 64 64 ++ ((0x0000010000000001 : Word) &&& 0xFFFFFFFFFFFC0007)
     spWf 0 (cloaked.dies[(0 : Fin 4)]).cloak = true ∧ clV w = true ∧ cloaked.cloakOk 0 8191 w = true ∧ clV (0 : BitVec 128) = false) ∧
    (let lo : Word := 0xFFFF00FD0000000F
     let hi : Word := 0x0007FFFFFF0007FF
     Regs.wf exposed.plat.expo = true ∧ exposed.plat.expo.get 511 = hi ∧ lo.getLsbD 0 = true ∧ exposed.expoOk 255 (lo.toNat + hi.toNat * 2 ^ 64) = true) ∧
    (let v : Word := 0xC000000000000FFD
     Regs.wf State.reset.plat.slots = true ∧ bit v 63 = true ∧ bits v 11 0 ≠ bits State.reset.plat.fabId 11 0 ∧ bits v 11 0 < 0xFFE) ∧
    (State.reset.plat.porten = 0 ∧ ({ State.reset with plat := { Plat.reset with porten := 1 } } : State).plat.porten ≠ 0 ∧ State.reset.plat.reqs = [] ∧
     (0x8000 : Word).getLsbD 15 = true ∧ (State.reset.plat.ports[(15 : Fin 16)]).up = false ∧ Regs.wf State.reset.plat.routes = true) ∧
    (bits (0x2000000000000000 : Word) 61 58 ≤ 8 ∧ 8 < bits (0x2400000000000000 : Word) 61 58 ∧ Regs.wf State.reset.plat.queues = true ∧ (4#52).toNat % 8 ≠ 0) := by
  have hr := (fun c => core_reset c)
  refine ⟨⟨rfl, rfl, header_ok _, rfl⟩, ⟨?_, rfl, rfl, fun image => by cases Config.signatureOk image <;> simp, header_ok _, ?_, ?_, rfl⟩, ⟨rfl, ?_, rfl, rfl, rfl, ?_, ?_⟩, ⟨?_, ?_, ?_, rfl⟩, ⟨rfl, fun c => by rw [hr c]; rfl, ?_, ?_, rfl, rfl⟩, ⟨rfl, rfl, ?_, ?_⟩, ⟨?_, ?_, ?_, ?_⟩,
    ⟨?_, ?_, ?_, ?_⟩, ⟨rfl, ?_, ?_, ?_⟩, ⟨rfl, ?_, rfl, ?_, ?_, rfl⟩, ⟨?_, ?_, rfl, ?_⟩⟩ <;> decide +kernel

/-! ### Bundles, traps and the step -/

/-- A bundle whose S slot is the form i. -/
def sWord (i : Instr) : BitVec 256 := encBundle { rs := false, s := i, v := .nop 1, m := .nop 2, x := .nop 3 }

theorem mayIssue_at0 (f : Core → Core) (ht : ((at0 f).core 0).task = some task) (hs : ((at0 f).core 0).stopped = false) (hh : ((at0 f).core 0).hs = none → ((at0 f).core 0).held = [])
    (hb : (at0 f).stopNow 0 = none) (hr : ((at0 f).core 0).ph.redo = []) : MayIssue (at0 f) 0 := ⟨rfl, ⟨task, ht, rfl, rfl, rfl, rfl⟩, hs, hh, hb, hr⟩

/-- What the bundle w leaves when it issues on core 0. -/
def issue (s : State) (w : BitVec 256) : Option State :=
  match s.coreCheck 0 w with
  | .ok b => match runSlots b (issuing s 0) with
    | .next u => some u
    | _ => none
  | .error _ => none
def fails {α : Type} : Except (BitVec 3) α → Option (BitVec 3)
  | .ok _ => none
  | .error p => some p
theorem fails_eq {α : Type} {r : Except (BitVec 3) α} {p : BitVec 3} (h : fails r = some p) : r = .error p := by cases r <;> simp_all [fails]
theorem issue_eq {s u : State} {w : BitVec 256} (h : issue s w = some u) : ∃ b, s.coreCheck 0 w = .ok b ∧ runSlots b (issuing s 0) = .next u := by
  unfold issue at h
  split at h
  · rename_i b hb
    split at h
    · rename_i v hv; cases h; exact ⟨b, hb, hv⟩
    · cases h
  · cases h

/-- The bundle w issues on core 0 at s, and what it leaves satisfies p. -/
theorem issued_with {s : State} {w : BitVec 256} {p : State → Bool} (h : (issue s w).any p = true) : ∃ b u, s.coreCheck 0 w = .ok b ∧ runSlots b (issuing s 0) = .next u ∧ p u = true := by
  cases e : issue s w with
  | none => rw [e] at h; cases h
  | some u => rw [e] at h; obtain ⟨b, h1, h2⟩ := issue_eq e; exact ⟨b, u, h1, h2, h⟩

/-- The core is armed. -/
def halts : State := at0 (fun k => { k with dbg := { k.dbg with ctl := 1 } })

/-- A bundle with L and no qualifier; a division by 0; a BRK that stops; an ADD that waits for a load; an ADD; NOP. -/
theorem witness_BundlesIssueTheirSlots :
    (Instr.add on (sa 0 0)).guard?.isSome = true ∧ MayIssue (at0 id) 0 ∧ MayIssue (at0 (waits 6)) 0 ∧
    checkBundle false ((at0 id).core 0).bodyLevels 1 = .error 4 ∧
    (∃ b u, (at0 id).coreCheck 0 (sWord (.div on (sa 0 0))) = .ok b ∧ runSlots b (issuing (at0 id) 0) = .next u ∧ u.iss.traps.isSome = true) ∧
    ((at0 id).core 0).armed = false ∧
    (∃ b u, halts.coreCheck 0 (sWord (.brk on (sc 5 0 0 0))) = .ok b ∧ runSlots b (issuing halts 0) = .next u ∧ u.iss.traps.any (fun x => (halts.core 0).stopsAt x) = true) ∧ MayIssue halts 0 ∧
    (∃ b u, (at0 (waits 6)).coreCheck 0 (sWord (.add on (sa 0 0))) = .ok b ∧ runSlots b (issuing (at0 (waits 6)) 0) = .next u ∧
      (u.iss.traps.isNone && u.iss.stall == some (1, 0) && u.iss.send.isNone) = true) ∧ (1#8) ≠ 11 ∧ (1#8) ≠ 0xF1 ∧ ((at0 (waits 6)).core 0).dbg.trace = false ∧
    (∃ b u, (at0 id).coreCheck 0 (sWord (.add on (sa 0 0))) = .ok b ∧ runSlots b (issuing (at0 id) 0) = .next u ∧
      (u.iss.trap.isNone && u.iss.stall.isNone && decide (u.iss.post = .none) && u.iss.next.isNone && !u.fallsOff && (u.core 0).atBodyEnd.isNone && (u.core 0).hs.isNone &&
        decide (u.cur = .core 0)) = true) ∧
    (let k := (at0 id).core 0
     k.hs = none ∧ k.loops.run = none ∧ k.fr.fl = [] ∧ k.dbg.run = 0 ∧ (at0 id).curImg = some img ∧ img.isBundle (k.fr.pc + 32) = true ∧ img.rs (k.fr.pc + 32) = false) := by
  refine ⟨rfl, mayIssue_at0 _ rfl rfl (fun _ => rfl) ?_ rfl, mayIssue_at0 _ rfl rfl (fun _ => rfl) ?_ rfl, fails_eq ?_, issued_with ?_, ?_, issued_with ?_, mayIssue_at0 _ rfl rfl (fun _ => rfl) ?_ rfl, issued_with ?_, ?_, ?_, rfl, issued_with ?_,
    ⟨rfl, rfl, rfl, rfl, rfl, ?_, ?_⟩⟩ <;> decide +kernel

/-- The image with a handler at offset 128 for DIV_ZERO alone. -/
def imgH : Img := { img with code := [(12, 1), (20, 0xC0), (21, 0x01), (64, 0x80), (68, 0x08)] }
def trapping (c : Cause) (async : Bool) (info : Word) : Trap := { cause := c, info := info, slot := some 0, ring := some 15, tensor := none, async := async, note := [] }
def atH (f : Core → Core) : State := { at0 f with imgs := [imgH] }

/-- DIV_ZERO with a handler for it and NOT_PD without; an asynchronous cause in handler mode; WATCH and a BRK where the debugger is armed; a held report with a handler. -/
theorem witness_TrapsTakeTheirRoad :
    ((atH id).cur = .core 0 ∧ (trapping .divZero false 7).note = [] ∧ (trapping .divZero false 7).refused = none ∧ (trapping .divZero false 7).door = none ∧ ((atH id).core 0).hs = none ∧ (atH id).img ((atH id).core 0).fr.img = some imgH ∧ imgH.handlerFor .divZero = some 128 ∧
      Regs.wf ((atH id).core 0).sys = true ∧ ((atH id).core 0).fr.pc < 2 ^ 18) ∧
    (let x := trapping .notPd false 7
     (∀ g, (atH id).img ((atH id).core 0).fr.img = some g → g.handlerFor x.cause = none) ∧ (((atH id).core 0).hs.isSome && x.async) = false ∧ bit ((atH id).core 0).dbg.ctl 0 = false ∧
     x.cause ≠ .fatalHw ∧ x.cause ≠ .saveIntegrity ∧ x.cause ≠ .cinchEscalated ∧ x.cause ≠ .ueEscalated ∧ x.cause ≠ .hemEscalated ∧ ((atH id).core 0).task = some task ∧
     (atH id).ctx task.osq = some { ctx with invs := [inv] } ∧ ({ ctx with invs := [inv] } : Ctx).inv task.inv = some inv ∧ inv.aborted = false ∧ (atH id).parts = []) ∧
    (let s := atH handling
     (s.core 0).hs.isSome = true ∧ (trapping .signalAccess true 7).async = true ∧ bit (s.core 0).dbg.ctl 0 = false ∧ (trapping .signalAccess true 7).cause ≠ .fatalHw ∧
     (trapping .signalAccess true 7).cause ≠ .saveIntegrity ∧ (trapping .signalAccess true 7).cause ≠ .cinchEscalated ∧ (trapping .signalAccess true 7).cause ≠ .ueEscalated ∧
     (trapping .signalAccess true 7).cause ≠ .hemEscalated) ∧
    (let s := at0 (fun k => { k with dbg := { k.dbg with ctl := 1 } })
     bit (s.core 0).dbg.ctl 0 = true ∧ (trapping .watch false 7).cause = .watch ∧ (trapping .break_ false 7).cause = .break_ ∧ bit (trapping .break_ false 7).info 63 = false) ∧
    (let x : Ctx := { ctx with th := 0x20000, held := [rep] }
     (gr x).ctx 0 = some x ∧ x.exp = none ∧ x.fuse = none ∧ x.parked = false ∧ x.intrap = false ∧ x.th ≠ 0 ∧ x.held = rep :: []) := by
  refine ⟨⟨rfl, rfl, rfl, rfl, rfl, rfl, ?_, ?_, ?_⟩, ⟨fun g h => ?_, rfl, ?_, ?_, ?_, ?_, ?_, ?_, rfl, rfl, rfl, rfl, rfl⟩, ⟨rfl, rfl, ?_, ?_, ?_, ?_, ?_, ?_⟩, ⟨?_, rfl, rfl, ?_⟩, ⟨rfl, rfl, rfl, rfl, rfl, ?_, rfl⟩⟩
  case refine_4 => cases (show some imgH = some g from h); decide +kernel
  all_goals decide +kernel

/-- Where a fetch finds its leaf with R and without W, and the bytes there decode as p says. -/
noncomputable def fetches (u : State) (x : Ctx) (p : Except VFail (Instr × Nat) → Bool) : Bool :=
  match u.translate 0 x x.vpc.toNat false with
  | (.leaf w _, v) => lfR w && !lfW w && p (decodeVanik (v.codeBytes w x.vpc.toNat (min 33 (4096 - x.vpc.toNat % 4096))))
  | _ => false

theorem fetches_leaf {u : State} {x : Ctx} {p : Except VFail (Instr × Nat) → Bool} (h : fetches u x p = true) : ∃ w ea v, u.translate 0 x x.vpc.toNat false = (.leaf w ea, v) ∧ lfR w = true ∧ lfW w = false ∧
    p (decodeVanik (v.codeBytes w x.vpc.toNat (min 33 (4096 - x.vpc.toNat % 4096)))) = true := by
  unfold fetches at h
  split at h
  · rename_i w ea v e
    simp only [Bool.and_eq_true, Bool.not_eq_true'] at h
    exact ⟨w, ea, v, e, h.1.1, h.1.2, h.2⟩
  · cases h

noncomputable def isGend (r : Except VFail (Instr × Nat)) : Bool := match r with
  | .ok (i, n) => decide (i = .gend) && n == 1
  | .error _ => false
def isIllegal (r : Except VFail (Instr × Nat)) : Bool := match r with
  | .error (.illegal _ _) => true
  | _ => false

def due (s : State) (u : UnitId) : State := { s with agenda := [.unit 0 u] }

/-- An empty schedule; an event; a judgement; a raised version; an access of a control core; the log's end; a turn of a core with and without a task; of a sequencer on a routine, at GEND, at an unassigned opcode, and done. -/
theorem witness_StepRunsTheDecodedInstruction :
    State.reset.agenda = [] ∧ ({ State.reset with agenda := [.event 5 .wsRefresh] } : State).agenda = [.event 5 .wsRefresh] ∧
    ({ State.reset with agenda := [.judge 0 0] } : State).agenda = [.judge 0 0] ∧ ({ State.reset with agenda := [.fuse 0 1] } : State).agenda = [.fuse 0 1] ∧
    ({ State.reset with agenda := [.ctl 0 none (.load 0)] } : State).agenda = [.ctl 0 none (.load 0)] ∧ ({ State.reset with agenda := [.spdm 0 none] } : State).agenda = [.spdm 0 none] ∧
    ({ State.reset with agenda := [.logEnd 0] } : State).agenda = [.logEnd 0] ∧
    (State.reset.plat.wlog = [] ∧ State.reset.plat.rlog = [] ∧ State.reset.plat.hpend = none ∧ State.reset.plat.hstop = [] ∧ State.reset.plat.hall = none ∧ State.reset.plat.rmode = false) ∧
    (let s := due (at0 id) (.core 0)
     let u := { s.pass 0 [] with cur := .core 0 }
     s.agenda = [.unit 0 (.core 0)] ∧ (u.core 0).task ≠ none ∧ u.taskInv 0 = some inv ∧ inv.img ≠ none ∧ u.img (u.core 0).fr.img = some img) ∧
    (let i : Inv := { inv with img := none, nrec := 1 }
     let s := due ((at0 id).setCtx 0 { ctx with invs := [i] }) (.core 0)
     let u := { s.pass 0 [] with cur := .core 0 }
     u.taskInv 0 = some i ∧ i.img = none ∧ i.nrec ≠ 0) ∧
    (let i : Inv := { inv with img := none }
     let x : Ctx := { ctx with invs := [i], exp := some (routine id) }
     let u := { (due (seqOf ctx i id) (.seq 0)).pass 0 [] with cur := .seq 0 }
     u.ctx 0 = some x ∧ x.exp = some (routine id) ∧ x.inv (routine id).uid = some i ∧ i.img = none) ∧
    (State.reset.plat.reqs = [] ∧ State.reset.plat.shoots = [] ∧ (∀ q, (State.reset.ctx q).isNone = true) ∧ State.reset.dorm = []) ∧
    (let s := due State.reset (.core 319)
     s.agenda = [.unit 0 (.core 319)] ∧ (({ s.pass 0 [] with cur := .core 319 } : State).core 319).task = none) ∧
    (let x : Ctx := { ctx with invs := [inv], exp := some (routine id) }
     let s := due (seqOf ctx inv id) (.seq 0)
     let u := { s.pass 0 [] with cur := .seq 0 }
     u.ctx 0 = some x ∧ x.exp = some (routine id) ∧ x.inv (routine id).uid = some inv ∧ u.img (routine id).fr.img = some img) ∧
    (let u := { (due (gr ctx) (.seq 0)).pass 0 [] with cur := .seq 0 }
     u.ctx 0 = some ctx ∧ ctx.exp = none ∧ ctx.decodes = true ∧ ∃ w ea v, u.translate 0 ctx ctx.vpc.toNat false = (.leaf w ea, v) ∧ lfR w = true ∧ lfW w = false ∧
       isGend (decodeVanik (v.codeBytes w ctx.vpc.toNat (min 33 (4096 - ctx.vpc.toNat % 4096)))) = true) ∧
    (let u := { (due { gr ctx with mem := Mem.set pages 512 0x0B } (.seq 0)).pass 0 [] with cur := .seq 0 }
     u.ctx 0 = some ctx ∧ ∃ w ea v, u.translate 0 ctx ctx.vpc.toNat false = (.leaf w ea, v) ∧ lfR w = true ∧ lfW w = false ∧
       isIllegal (decodeVanik (v.codeBytes w ctx.vpc.toNat (min 33 (4096 - ctx.vpc.toNat % 4096)))) = true) ∧
    ({ ctx with done := true } : Ctx).decodes = false := by
  refine ⟨rfl, rfl, rfl, rfl, rfl, rfl, rfl, ⟨rfl, rfl, rfl, rfl, rfl, rfl⟩, ⟨rfl, ?_, rfl, ?_, rfl⟩, ⟨rfl, rfl, ?_⟩, ⟨rfl, rfl, rfl, rfl⟩, ⟨rfl, rfl, ?_, rfl⟩, ⟨rfl, rfl⟩, ⟨rfl, rfl, rfl, rfl⟩, ⟨rfl, rfl, rfl, fetches_leaf ?_⟩, ⟨rfl, fetches_leaf ?_⟩, rfl⟩ <;> decide +kernel

/-- A bundle with every field of its four forms at a value of its own, under level 3; a slot form; a Vanik form. -/
theorem witness_DecodeReadsBackTheEncoding :
    BundleOk { rs := true, s := .add ⟨15, true, 1, 3⟩ (sa 0 0), v := .nop 1, m := .nop 2, x := .nop 3 } 3 ∧ (Instr.add on (sa 0 0)).guard?.isSome = true ∧ (Instr.add on (sa 0 0)).wf = true ∧
    (Instr.gjmp (-1)).wf = true ∧ encVanik (.gjmp (-1)) ≠ [] ∧ (Instr.gjmp (-1)).fits = true := by
  refine ⟨⟨Or.inr ⟨?_, ?_, ?_⟩, Or.inl rfl, Or.inl rfl, Or.inl rfl, fun _ => Or.inl ?_⟩, rfl, ?_, ?_, ?_, ?_⟩ <;> decide +kernel

theorem witness_StepKeepsTheStoresCanonical : Canonical State.reset ∧ step State.reset = .next (State.reset.pass 1 []) :=
  ⟨⟨rfl, rfl, rfl, rfl, rfl, rfl, by decide +kernel, rfl, by decide +kernel⟩, rfl⟩


/-! ## One step each of a few forms: the manual's own results -/

/-- What exec answers. -/
noncomputable def ran (i : Instr) (s : State) : State := match exec i s with
  | .next t => t
  | _ => s

/-- The scalar that the last result in flight carries. -/
def flown (s : State) : Option Word := match (s.core 0).fr.fl.getLast? with
  | some ⟨_, .s _ v _, _⟩ => some v
  | _ => none

/-- The lanes 0 .. 7 that the last result in flight carries, those it does not write left at 0xFFFFFFFF. -/
def lanes8 (s : State) : List Nat := match (s.core 0).fr.fl.getLast? with
  | some ⟨_, .v _ v m _, _⟩ => (List.range 8).map (fun l => if laneOf m l = 0 then 0xFFFFFFFF else laneOf v l)
  | _ => []

/-- R88: −1 + 5 wraps to 4. -/
theorem test_add_wraps : flown (ran (.add on (sa 0 0)) (in0 (fun k => sets 6 0xFFFFFFFFFFFFFFFF false (sets 7 5 false k)))) = some 4 := by decide +kernel

/-- R90: DIV of −2^63 by −1 gives −2^63, REM of the pair 0. -/
theorem test_div_min : flown (ran (.div on (sa 0 0)) (in0 (fun k => sets 6 0x8000000000000000 false (sets 7 0xFFFFFFFFFFFFFFFF false k)))) = some 0x8000000000000000 := by decide +kernel
theorem test_rem_min : flown (ran (.rem on (sa 0 0)) (in0 (fun k => sets 6 0x8000000000000000 false (sets 7 0xFFFFFFFFFFFFFFFF false k)))) = some 0 := by decide +kernel

/-- v5 of the worked example of VSCAN, with its mask in m3. -/
def scanning (k : Core) : Core :=
  { k with v := k.v.set 5 (((((((((Vector.replicate 64 0).set 0 5).set 1 3).set 2 7).set 3 1).set 4 4).set 5 2).set 6 6).set 7 8), m := k.m.set 3 0xB5 }
def vaM (fn : BitVec 4) : VA := { fn := fn, swz := false, part := 0, ty := 3, msk := 3, c := 0, b := 0, a := 5, d := 4 }

/-- R154: `vscan.i32.sum.x`, the inclusive form, `vred.i32.sum`. -/
theorem test_vscan_exclusive : lanes8 (ran (.vscan on (vaM 8)) (in0 scanning)) = [0, 0xFFFFFFFF, 5, 0xFFFFFFFF, 12, 16, 0xFFFFFFFF, 18] := by decide +kernel
theorem test_vscan_inclusive : lanes8 (ran (.vscan on (vaM 0)) (in0 scanning)) = [5, 0xFFFFFFFF, 12, 0xFFFFFFFF, 16, 18, 0xFFFFFFFF, 26] := by decide +kernel
theorem test_vred_sum : (lanes8 (ran (.vred on (vaM 0)) (in0 scanning))).headD 0 = 26 := by decide +kernel

end Sys2Proof.Tests
end

section
/-! PROOFS. The factorisations (R178, R179, R185 to R187, R190): what MRES, MFWAIT, the start and one step of a factorisation, and the
delivery of an asynchronous trap leave. -/

namespace Sys2Proof.Proofs.Factorisation

open Sys2Proof.Machine Sys2Proof.Safety Sys2Proof.Laws

/-! ## Fields of words -/

theorem testBit_bits (x : Word) (h l i : Nat) : (bits x h l).testBit i = (decide (i < h + 1 - l) && x.getLsbD (i + l)) := by
  simp [bits, Nat.testBit_mod_two_pow, Nat.testBit_div_two_pow, BitVec.testBit_toNat]

/-- Bit i after a field is replaced: the field's own bit inside it, the old bit outside. -/
theorem getLsbD_setBits (x : Word) {h l : Nat} (v i : Nat) (hi : i < 64) :
    (setBits x h l v).getLsbD i = if l ≤ i ∧ i < l + (h + 1 - l) then v.testBit (i - l) else x.getLsbD i := by
  have hm : ((2 ^ (h + 1 - l) - 1) * 2 ^ l).testBit i = decide (l ≤ i ∧ i < l + (h + 1 - l)) := by
    rw [Nat.testBit_mul_two_pow, Nat.testBit_two_pow_sub_one, Bool.decide_and]
    by_cases hl : l ≤ i
    · simp only [hl, decide_true, Bool.true_and]; congr 1; simp only [eq_iff_iff]; omega
    · simp [hl]
  have hv : (v % 2 ^ (h + 1 - l) * 2 ^ l).testBit i = (decide (l ≤ i ∧ i < l + (h + 1 - l)) && v.testBit (i - l)) := by
    rw [Nat.testBit_mul_two_pow, Nat.testBit_mod_two_pow, Bool.decide_and, ← Bool.and_assoc]
    by_cases hl : l ≤ i
    · simp only [hl, decide_true, Bool.true_and]; congr 2; simp only [eq_iff_iff]; omega
    · simp [hl]
  simp only [setBits, BitVec.getLsbD_or, BitVec.getLsbD_and, BitVec.getLsbD_not, BitVec.getLsbD_ofNat, hm, hv, hi]
  by_cases hf : l ≤ i ∧ i < l + (h + 1 - l) <;> simp [hf]

theorem bits_setBits_same (x : Word) {h l : Nat} (v : Nat) (hh : h < 64) : bits (setBits x h l v) h l = v % 2 ^ (h + 1 - l) := by
  refine Nat.eq_of_testBit_eq fun i => ?_
  rw [testBit_bits, Nat.testBit_mod_two_pow]
  by_cases hi : i < h + 1 - l
  · rw [getLsbD_setBits x v (i + l) (by omega), if_pos (by omega), Nat.add_sub_cancel]
  · simp [hi]

/-! ## One core replaced -/

theorem sameOutside_setCore (s : State) (c : Fin 320) (k : Core) : SameOutside c s (s.setCore c k) :=
  ⟨rfl, rfl, rfl, rfl, fun d hd => State.core_setCore_ne s c d k hd, rfl, rfl, rfl, rfl, rfl, rfl, rfl, rfl, rfl, rfl, rfl, rfl, rfl, rfl, rfl⟩

theorem setCore_core_self (s : State) (c : Fin 320) : s.setCore c (s.core c) = s := by simp [State.setCore, State.core]

/-- A step that replaces core c alone leaves what holds of the new core, and everything outside it. -/
theorem nextWith_setCore {o : Host.Outcome State Fault Refusal} {s : State} {c : Fin 320} {k : Core} {p : State → Prop}
    (ho : o = .next (s.setCore c k)) (hp : (s.setCore c k).core c = k → SameOutside c s (s.setCore c k) → p (s.setCore c k)) : NextWith o p :=
  ⟨_, ho, hp (State.core_setCore s c k) (sameOutside_setCore s c k)⟩

/-! ## MRES and MFWAIT (R186, R187) -/

/-- The core with its stopped factorisation resumed, the pivot replaced where v gives one. -/
def resumed (k : Core) (v : Option Word) : Core :=
  let fs := setBits k.arr.fs 30 30 0
  { k with arr := { k.arr with
      fs := if v.isSome then fs ||| 0x80000000 else fs
      fact := k.arr.fact.map (fun x => { x with repl := v.map (·.truncate 32), hres := k.hs.isSome, halt := false }) } }

section
variable {g : Guard} {f : MF} {s : State} {c : Fin 320} (hi : Issues g s) (hc : s.cur = .core c)

section
include hc

theorem mres_idle (use : Bool) (v : Word) (hp : bit (s.core c).arr.fs 30 = false) : s.mres use v = s := by
  simp [State.mres, State.modCore, State.curCore, hc, fsPend, hp, setCore_core_self]

theorem mres_stopped (use : Bool) (v : Word) (hp : bit (s.core c).arr.fs 30 = true) :
    s.mres use v = s.setCore c (resumed (s.core c) (if use then some v else none)) := by
  cases use <;> simp [State.mres, State.modCore, State.curCore, hc, fsPend, hp, resumed]

end

include hi

theorem exec_mres_plain (ha : f.aux.getLsbD 0 = false) : exec (.mres g f) s = .next (s.mres false 0) := by
  rw [exec_mres, execMres]
  exact slotDo_ok hi (by rw [ha]; rfl)

theorem exec_mres_pivot (ha : f.aux.getLsbD 0 = true) (hr : Clean s f.a) : exec (.mres g f) s = .next (s.mres true (val s f.a)) := by
  rw [exec_mres, execMres]
  exact slotDo_ok hi (by rw [ha]; exact withC_clean hr)

include hc

theorem exec_mfwait_pass (hd : (s.core c).fwaitDone = true) : exec (.mfwait g f) s = .next s := by
  rw [exec_mfwait, execMfwait]
  refine slotDo_ok hi ?_
  simp [State.vc, State.curCore, hc, hd]

theorem exec_mfwait_stall (hd : (s.core c).fwaitDone = false) : exec (.mfwait g f) s = .next (withStall s 8 0) := by
  rw [exec_mfwait, execMfwait]
  refine slotDo_stall hi ?_
  simp [State.vc, State.curCore, hc, hd]

end

/-- R187: no factorisation runs and the queue is empty. -/
theorem fwaitDone_of_idle {k : Core} (ho : bits k.arr.fs 2 0 = 0) (hq : k.arr.queue = []) : k.fwaitDone = true := by
  simp [Core.fwaitDone, fsOp, ho, hq]

/-- R187: entries stand in the queue outside handler mode, and no factorisation is stopped. -/
theorem fwaitDone_of_queued {k : Core} (hp : bit k.arr.fs 30 = false) (hh : k.hs = none) (hq : k.arr.queue ≠ []) : k.fwaitDone = false := by
  simp [Core.fwaitDone, fsPend, hp, hh, hq]

/-- FS after a resumption: FS[30] clear, FS[31] set by a replacement, every other bit as it stood. -/
theorem getLsbD_fs_resumed (k : Core) (v : Option Word) (i : Nat) (hi : i < 64) :
    (resumed k v).arr.fs.getLsbD i = if i = 30 then false else if i = 31 ∧ v.isSome then true else k.arr.fs.getLsbD i := by
  have h31 : (0x80000000 : Word).getLsbD i = decide (i = 31) := by
    rw [show (0x80000000 : Word) = BitVec.twoPow 64 31 from rfl, BitVec.getLsbD_twoPow]
    simp [eq_comm]
  have h30 : (setBits k.arr.fs 30 30 0).getLsbD i = if i = 30 then false else k.arr.fs.getLsbD i := by
    rw [getLsbD_setBits _ _ _ hi]
    by_cases h : i = 30
    · simp [h]
    · rw [if_neg (by omega), if_neg h]
  cases v with
  | none => simp [resumed, h30]
  | some w =>
    simp only [resumed, Option.isSome_some, if_true, BitVec.getLsbD_or, h30, h31]
    by_cases h : i = 30
    · simp [h]
    · by_cases h' : i = 31 <;> simp [h, h']

/-! ## The start of a factorisation (R178) -/

theorem fs_fields_fsStart (op : BitVec 3) (t : Bool) {n : Nat} (low unit trn : Bool) (hn : n ≤ 128) :
    fsOp (fsStart op t n low unit trn) = op.toNat ∧ bits (fsStart op t n low unit trn) 15 8 = n ∧ fsK (fsStart op t n low unit trn) = 0 := by
  have hop := op.isLt
  have hb (b : Bool) : b2n b ≤ 1 := by cases b <;> decide
  have := hb t; have := hb low; have := hb unit; have := hb trn
  simp only [fsOp, fsK, bits, fsStart, BitVec.toNat_ofNat]
  omega

theorem exec_factorisationStep_start {s : State} {c : Fin 320} {e : MEnt} {l : List MEnt} {op : BitVec 3} {t low unit trn : Bool} {n cc slot : Nat} {h : BitVec 4}
    (hq : (s.core c).arr.queue = e :: l) (he : e.op = .fact op t n cc low unit trn h slot) (hr : e.run = false) (hf : (s.core c).arr.fact = none)
    (hh : (s.core c).hs = none) (hd : (s.core c).heldAll = false) (ht : (s.core c).task.any (fun t => t.stopping.isSome || t.frozen) = false) :
    exec (.factorisationStep c) s = .next (s.setCore c ((s.core c).factStart e)) := by
  simp [execFactorisationStep, hq, he, hr, hf, hh, hd, ht]

theorem factStart_fact (k : Core) {e : MEnt} {op : BitVec 3} {t low unit trn : Bool} {n cc slot : Nat} {h : BitVec 4}
    (he : e.op = .fact op t n cc low unit trn h slot) :
    (k.factStart e).arr.fs = fsStart op t n low unit trn ∧ (k.factStart e).arr.tiles = k.arr.tiles ∧ (k.factStart e).fr = k.fr := by
  simp [Core.factStart, he]

/-! ## One step of MLU (R179, R185) -/

/-- The MLU entry e at the head of core k's queue has begun and may make its next step (R178, R189, R385). -/
structure LuReady (k : Core) (e : MEnt) (t : Bool) (n : Nat) (h : BitVec 4) (slot : Nat) (fa : Fact) : Prop where
  head : k.arr.queue.head? = some e
  op   : e.op = .fact 1 t n 0 false false false h slot
  run  : e.run = true
  fact : k.arr.fact = some fa
  hs   : k.hs = none
  held : k.heldAll = false
  redo : k.ph.redo = []
  pend : bit k.arr.fs 30 = false
  free : fa.free = true

/-- The array as a step takes it: its pivot replacement is used up. -/
def stepping (a : MArr) (fa : Fact) : MArr := { a with fact := some { fa with repl := none, free := true } }

/-- The core after an MLU step that met a zero pivot: FS[30] set, the trap on its way (R185). -/
def luStopped (k : Core) (e : MEnt) (t : Bool) (fa : Fact) : Core :=
  { k with
    async := k.async ++ [{ arrTrap .zeroPivot (fsK k.arr.fs + 1024 + 4096 * b2n t) with phase := some e.phase }]
    arr := { stepping k.arr fa with fs := setBits k.arr.fs 30 30 1 } }

/-- The core after an MLU step that left tiles, P and product rows: FS counts the step, the counters its clocks and terms (R179, R393). -/
def luStepped (k : Core) (fa : Fact) (flat : Bool) (tiles : Vector Tile 2) (perm : Vector (BitVec 8) 128) (rows : PRows) : Core :=
  { k with arr := { stepping k.arr fa with
      tiles := tiles
      perm := perm
      beatc := k.arr.beatc + BitVec.ofNat 64 (stepClocks flat rows)
      termc := Vector.ofFn (fun g => k.arr.termc[g] + BitVec.ofNat 48 (stepTerms rows g.val))
      fs := setBits k.arr.fs 23 16 (fsK k.arr.fs + 1) } }

section
variable {s : State} {c : Fin 320} {e : MEnt} {t : Bool} {n slot : Nat} {h : BitVec 4} {fa : Fact} (hr : LuReady (s.core c) e t n h slot fa)
include hr

theorem LuReady.queue_eq : ∃ l, (s.core c).arr.queue = e :: l := List.head?_eq_some_iff.1 hr.head

theorem exec_factorisationStep_luStop (hl : luStep (stepping (s.core c).arr fa) (tileNo t) n (fsK (s.core c).arr.fs) fa.repl = .stop) :
    exec (.factorisationStep c) s = .next (s.setCore c (luStopped (s.core c) e t fa)) := by
  obtain ⟨l, hq⟩ := hr.queue_eq
  simp only [stepping, hq] at hl
  simp [execFactorisationStep, hq, hr.op, hr.run, hr.fact, hr.hs, hr.held, hr.redo, fsPend, hr.pend, hr.free, hl, luStopped, stepping]

theorem exec_factorisationStep_luDone {tiles : Vector Tile 2} {perm : Vector (BitVec 8) 128} {tau : Lane} {rows : PRows} {cmp : List (Lane × Lane)}
    (hl : luStep (stepping (s.core c).arr fa) (tileNo t) n (fsK (s.core c).arr.fs) fa.repl = .done tiles perm tau rows cmp)
    (hm : (s.core c).arr.hmode = 2) (hh : fa.halt = false) (hn : fsK (s.core c).arr.fs + 1 < n) :
    exec (.factorisationStep c) s = .next (s.setCore c (luStepped (s.core c) fa (s.flat c) tiles perm rows)) := by
  obtain ⟨l, hq⟩ := hr.queue_eq
  simp only [stepping, hq, hh] at hl
  simp [execFactorisationStep, hq, hr.op, hr.run, hr.fact, hr.hs, hr.held, hr.redo, fsPend, hr.pend, hr.free, hl,
    eq_true (show _ = 2#2 from hm), hh, Nat.not_le.2 hn, luStepped, stepping]

end

theorem fsPend_luStopped (k : Core) (e : MEnt) (t : Bool) (fa : Fact) : bit (luStopped k e t fa).arr.fs 30 = true := by
  simp only [bit, luStopped]
  rw [getLsbD_setBits _ _ _ (by omega)]
  rfl

theorem fsK_luStepped (k : Core) (fa : Fact) (flat : Bool) (tiles : Vector Tile 2) (perm : Vector (BitVec 8) 128) (rows : PRows) (hk : fsK k.arr.fs + 1 < 256) :
    fsK (luStepped k fa flat tiles perm rows).arr.fs = fsK k.arr.fs + 1 := by
  simp only [fsK, luStepped] at hk ⊢
  rw [bits_setBits_same _ _ (by omega)]
  exact Nat.mod_eq_of_lt hk

/-! ## Delivery of an asynchronous trap (R165, R193) -/

theorem exec_asyncTrapDelivery_running {s : State} {c : Fin 320} {t : Trap} {l : List Trap} (ha : (s.core c).async = t :: l) (hs : (s.core c).stopped = false) :
    exec (.asyncTrapDelivery c) s = .next ((withCore s c { s.core c with async := l }).takeTrapUe c t) := by
  simp [execAsyncTrapDelivery, ha, hs, withCore, State.setCore]

/-! ## The statement -/

/-- Settles O40: one core is replaced at each step, by `resumed`, `factStart`, `luStepped` or `luStopped`, and their fields are read off. -/
theorem factorisationSteps : Obligations.FactorisationSteps := by
  unfold Obligations.FactorisationSteps
  refine ⟨fun g f s c hi hc => ⟨fun ha hp => (exec_mres_plain hi ha).trans (congrArg _ (mres_idle hc _ _ hp)), fun ha hr hp => ?replace, fun ha hp => ?resume,
      fun ho hq => exec_mfwait_pass hi hc (fwaitDone_of_idle ho hq), fun hp hh hq => exec_mfwait_stall hi hc (fwaitDone_of_queued hp hh hq)⟩,
    fun s c => ⟨fun e l op t n cc low unit trn h slot hq he hr hf hh hd ht hn => ?start,
      fun e l t n h slot fa hq he hr hf hh hd hre hp hfree hhalt hk hn => ?step, fun t l ha hs => exec_asyncTrapDelivery_running ha hs⟩⟩
  case replace =>
    refine nextWith_setCore ((exec_mres_pivot hi ha hr).trans (congrArg _ (mres_stopped hc _ _ hp))) fun hcore hout => ?_
    rw [hcore]
    refine ⟨?_, ?_, fun i h30 => ?_, rfl, rfl, fun x hx => ⟨_, congrArg (Option.map _) hx, rfl⟩, rfl, hout⟩
    · exact getLsbD_fs_resumed _ _ 30 (by omega)
    · exact getLsbD_fs_resumed _ _ 31 (by omega)
    · rw [getLsbD_fs_resumed _ _ i (by omega), if_neg (by omega), if_neg (by omega)]
  case resume =>
    refine nextWith_setCore ((exec_mres_plain hi ha).trans (congrArg _ (mres_stopped hc _ _ hp))) fun hcore hout => ?_
    rw [hcore]
    refine ⟨?_, fun i h30 h64 => ?_, fun x hx => ⟨_, congrArg (Option.map _) hx, rfl⟩, rfl, hout⟩
    · exact getLsbD_fs_resumed _ _ 30 (by omega)
    · rw [getLsbD_fs_resumed _ _ i h64, if_neg h30]; simp
  case start =>
    obtain ⟨hfs, htiles, hfr⟩ := factStart_fact (s.core c) he
    obtain ⟨hop, hord, hstep⟩ := fs_fields_fsStart op t low unit trn hn
    refine nextWith_setCore (exec_factorisationStep_start hq he hr hf hh hd ht) fun hcore hout => ?_
    rw [hcore, hfs]
    exact ⟨hop, hord, hstep, htiles, hfr, hout⟩
  case step =>
    have ready : LuReady (s.core c) e t n h slot fa := ⟨by rw [hq]; rfl, he, hr, hf, hh, hd, hre, hp, hfree⟩
    constructor
    · intro tiles perm tau rows cmp hl hm
      refine nextWith_setCore (exec_factorisationStep_luDone ready hl hm hhalt hk) fun hcore hout => ?_
      rw [hcore]
      exact ⟨rfl, rfl, fsK_luStepped _ _ _ _ _ _ (by omega), rfl, rfl, hout⟩
    · intro hl
      refine nextWith_setCore (exec_factorisationStep_luStop ready hl) fun hcore hout => ?_
      rw [hcore]
      exact ⟨fsPend_luStopped _ _ _ _, rfl, ⟨_, rfl, rfl, rfl⟩, rfl, hout⟩

end Sys2Proof.Proofs.Factorisation
end
